-- ==== Sys2Proof/Word.lean ====
section
/-! DEFINITION. The widths of the values the CS-840 shows as words, and the split of a bus time into its µs part and its fraction (00_scope.md, Bus time; R32). -/

namespace Sys2Proof

/-- One byte, on the wire (R5) or on the local port (R149). -/
abbrev Byte := BitVec 8

/-- The µs part of a bus time: 32 bits, wrapping (R32). -/
abbrev Micros := BitVec 32

/-- A full bus time: 36 bits of sixteenths of a µs, 32 bits of µs above a fraction of 4 bits (R32). -/
abbrev BusTime := BitVec 36

/-- The 7-bit station field of a frame (R5) and the station id of the configuration (R143; 0 is unset). -/
abbrev StationId := BitVec 7

/-- A cue number 0 … 4095 (00_scope.md, Identities). -/
abbrev CueNumber := BitVec 12

/-- A topic, a topic code or a topic mask: 16 bits (R94). -/
abbrev Topic := BitVec 16

/-- The µs part of a bus time. -/
def microsOf (t : BusTime) : Micros := BitVec.ofNat 32 (t.toNat / 16)

/-- The fraction of a bus time, in sixteenths. -/
def fractionOf (t : BusTime) : BitVec 4 := BitVec.ofNat 4 t.toNat

end Sys2Proof
end

