-- ==== Sys2Proof/Syntax.lean ====
section
/-! DEFINITION. The commands: one constructor of Instr for every row of spec/opcode_table.json, with operands in the widths of the layouts of R159, so that a value out of range can be given and refused. -/

namespace Sys2Proof

/-- The kind of an edge on a mark input (R42). -/
inductive Edge where
  | rising
  | falling
  deriving DecidableEq, Repr

/-- The four frame classes, in the order of their class codes (R5). -/
inductive FrameClass where
  | beat
  | recallFrame
  | mark
  | cue
  deriving DecidableEq, Repr

/-- A frame as the LIU hands it on: header fields and payload bytes. Its length field is the number of payload bytes (R5). -/
structure Frame where
  cls     : FrameClass
  urgency : BitVec 4
  station : StationId
  payload : List Byte
  deriving DecidableEq, Repr

/-- The five kinds of error the LIU detects (R10). -/
inductive ErrorKind where
  | bit
  | stuff
  | form
  | crc
  | ack
  deriving DecidableEq, Repr

/-- A tag: a slot and a generation (R67, R68). -/
structure Tag where
  slot       : Fin 16
  generation : BitVec 4
  deriving DecidableEq, Repr

/-- Where a send-queue record stands: a general slot, or the beat slot (R67). -/
inductive Place where
  | slot (slot : Fin 16)
  | beat
  deriving DecidableEq, Repr

/-- SET_STATION's arguments (R159, code 0x01). -/
structure StationArgs where
  id          : Byte
  bitRate     : Byte
  samplePoint : Byte
  jump        : Byte
  beatMs      : BitVec 16
  threshold   : BitVec 16
  lockBound   : Byte
  quorum      : Byte
  lateWindow  : BitVec 16
  sendMargin  : BitVec 16
  urgencyStep : BitVec 16
  markMs      : BitVec 16
  deriving DecidableEq, Repr

/-- SET_LINE's arguments (R159, code 0x02). -/
structure LineArgs where
  line    : Byte
  lowTrue : Bool
  guarded : Bool
  safe    : Bool
  deriving DecidableEq, Repr

/-- SET_INPUT's arguments (R159, code 0x03). -/
structure InputArgs where
  input    : Byte
  select   : BitVec 2
  announce : Bool
  notify   : Bool
  spacing  : BitVec 16
  deriving DecidableEq, Repr

/-- SET_SUBSCRIPTION's arguments (R159, code 0x04). -/
structure SubscriptionArgs where
  entry   : Byte
  enabled : Bool
  notify  : Bool
  target  : Byte
  code    : Topic
  mask    : Topic
  deriving DecidableEq, Repr

/-- SET_REACTION's arguments (R159, code 0x05). -/
structure ReactionArgs where
  entry   : Byte
  enabled : Bool
  notify  : Bool
  edge    : BitVec 2
  source  : Byte
  input   : Byte
  offset  : BitVec 24
  action  : Byte
  target  : Byte
  width   : BitVec 16
  deriving DecidableEq, Repr

/-- POST_CUE's arguments but for the scope, which the constructor gives (R152; R159, code 0x10). -/
structure CueArgs where
  lead          : Bool
  notify        : Bool
  repeatPresent : Bool
  action        : BitVec 3
  cue           : BitVec 16
  topic         : Topic
  due           : BitVec 32
  width         : BitVec 16
  period        : BitVec 24
  count         : Byte
  deriving DecidableEq, Repr

/-- POST_RECALL's arguments but for the scope, which the constructor gives (R153; R159, code 0x11). -/
inductive RecallArgs where
  | byKey (origin : Byte) (cue : BitVec 16)
  | byTopic (code mask : Topic)
  deriving DecidableEq, Repr

/-- The commands, in the order of spec/opcode_table.json. -/
inductive Instr where
  /-- SET_STATION (R144). -/
  | setStation (args : StationArgs)
  /-- SET_LINE (R129). -/
  | setLine (args : LineArgs)
  /-- SET_INPUT (R131). -/
  | setInput (args : InputArgs)
  /-- SET_SUBSCRIPTION (R94). -/
  | setSubscription (args : SubscriptionArgs)
  /-- SET_REACTION (R137). -/
  | setReaction (args : ReactionArgs)
  /-- JOIN (R145). -/
  | join
  /-- RESTART (R147). -/
  | restart
  /-- POST_CUE with SHARED scope (R69). -/
  | postCueShared (args : CueArgs)
  /-- POST_CUE with LOCAL scope (R101). -/
  | postCueLocal (args : CueArgs)
  /-- POST_RECALL with SHARED scope (R70). -/
  | postRecallShared (args : RecallArgs)
  /-- POST_RECALL with LOCAL scope (R112). -/
  | postRecallLocal (args : RecallArgs)
  /-- WITHDRAW of a tag (R81). -/
  | withdraw (tag : Tag)
  /-- READ_NOTICE (R156). -/
  | readNotice
  /-- READ_STATUS (R154). -/
  | readStatus
  /-- READ_TIME (R44). -/
  | readTime
  /-- READ_PEER of an index (R65). -/
  | readPeer (index : Byte)
  /-- READ_ENTRY of a position (R118). -/
  | readEntry (position : Byte)
  /-- READ_RECORD of a tag (R85). -/
  | readRecord (tag : Tag)
  /-- A command byte that R159 assigns to no command (R151). -/
  | badCommand (code : Byte)
  /-- SEL rises before the command is taken (R150). -/
  | transactionTruncated
  /-- The RESET pin is held low and released, or power is applied (R148). -/
  | pinReset
  /-- An edge seen on a mark input (R42, R132). -/
  | markEdge (input : Fin 4) (edge : Edge)
  /-- An edge on BRX in IDLE, the level sampled in that bit, and whether this station drove SOF in it (R3, R4). -/
  | sof (sampledDominant drove : Bool)
  /-- An offer moment (R73). -/
  | offer
  /-- A contender samples dominant where it sent recessive in the arbitration field (R8). -/
  | lostArbitration
  /-- The LIU detects an error (R11), in the last of the bits sampled: those from SOF on, or those of the interframe space. Where none are given it is one dominant bit. -/
  | errorDetected (kind : ErrorKind) (sampled : List Bool := [false])
  /-- The seventh end-field bit is sampled recessive (R14): the frame on the line, read where another station sent it, and the level of the ack slot, read where this station sent the frame (R9). -/
  | acceptance (frame : Frame) (ackDominant : Bool)
  /-- The error flag completes (R13). -/
  | errorFlagEnd
  /-- A run of 16 dominant bits while DELIMITING (R13), the last of the bits sampled since DELIMITING was entered, or since the last STUCK_LINE_ERROR. Where none are given they are its 16. -/
  | stuckLineError (sampled : List Bool := List.replicate 16 false)
  /-- The error delimiter completes (R13): the bits sampled since DELIMITING was entered, or since the last STUCK_LINE_ERROR. Where none are given they are its 8. -/
  | errorDelimiterEnd (sampled : List Bool := List.replicate 8 true)
  /-- The interframe space completes (R15). -/
  | interframeSpaceEnd
  /-- Eleven consecutive recessive bits in INTEGRATING (R2). -/
  | integrationComplete
  /-- Eight recessive bits of a hold-off in IDLE (R24). -/
  | holdOffEnd
  /-- The drained frame ends (R19). -/
  | drainEnd
  /-- Twelve consecutive recessive bits while SILENCED (R26). -/
  | idleSpan
  /-- Bus time reaches the recovery time (R27). -/
  | recoveryTimeExpiry
  /-- Bus time reaches the round boundary (R55). -/
  | syncRound
  /-- Bus time reaches the listen-window end (R146). -/
  | listenWindowEnd
  /-- Bus time reaches the armed due time (R109). -/
  | scheduleExpiry
  /-- Bus time reaches the stale time of the WAITING record at a place (R79). -/
  | staleTimeExpiry (place : Place)
  /-- Bus time reaches a line's pulse end (R124). -/
  | pulseEnd (line : Fin 8)
  /-- Bus time reaches a mark input's spacing end (R134). -/
  | spacingEnd (input : Fin 4)
  /-- SEL falls (R149). -/
  | transactionBegin
  /-- SEL rises after the command has been taken (R149). -/
  | transactionEnd
  deriving DecidableEq, Repr

end Sys2Proof
end

