-- ==== Sys2Proof/Machine/Bytes.lean ====
section
/-! DEFINITION. Bytes: fields of several bytes stand most significant byte first (R5, R159), flags are single bits of a byte, and a tag is one byte. -/

namespace Sys2Proof.Machine

/-- The low n bytes of a value, most significant first (R159). -/
def bytesBe : Nat → Nat → List Byte
  | 0, _ => []
  | n + 1, v => BitVec.ofNat 8 (v / 256 ^ n) :: bytesBe n v

/-- The value of a field of several bytes, most significant first (R159). -/
def natOfBytes (bytes : List Byte) : Nat := bytes.foldl (fun value b => value * 256 + b.toNat) 0

/-- A field of bytes as a word of w bits. -/
def wordOfBytes (w : Nat) (bytes : List Byte) : BitVec w := BitVec.ofNat w (natOfBytes bytes)

/-- A signed value in n bytes, two's complement (R159). -/
def signedBytes (n : Nat) (v : Int) : List Byte := bytesBe n (v % (256 ^ n : Nat)).toNat

/-- A flag in bit i of a byte. -/
def flagAt (i : Nat) (set : Bool) : Nat := if set then 2 ^ i else 0

/-- A tag as one byte: slot in bits 7 … 4, generation in bits 3 … 0 (R159). -/
def tagByte (t : Tag) : Byte := BitVec.ofNat 8 (t.slot.val * 16 + t.generation.toNat)

/-- The tag a byte names (R159): every byte names one (R85). -/
def tagOfByte (b : Byte) : Tag :=
  { slot := ⟨b.toNat / 16, by omega⟩, generation := BitVec.ofNat 4 b.toNat }

end Sys2Proof.Machine
end

