-- ==== Sys2Proof/WellFormed.lean ====
section
/-! DEFINITION. Which commands the outside world can send: the operand widths of Syntax.lean bound every field but four, and those four are checked here. A value out of its range in a command's arguments is well formed: the part takes the command and refuses it (R144, R151). -/

namespace Sys2Proof

/-- The command codes R159 assigns. -/
def assignedCodes : List Byte :=
  [0x01, 0x02, 0x03, 0x04, 0x05, 0x08, 0x09, 0x10, 0x11, 0x12, 0x20, 0x21, 0x22, 0x23, 0x24, 0x25]

/-- The length field of a frame holds 0 … 15 (R5). -/
def Frame.lengthFits (f : Frame) : Bool := decide (f.payload.length ≤ 15)

/-- Bits sampled end in n of one level; a bit is true when it is recessive. -/
def endIn (n : Nat) (level : Bool) (sampled : List Bool) : Bool := (List.replicate n level).isSuffixOf sampled

/-- The bits in the last of which an error of a kind is detected: seven identical ones for STUFF, a dominant one for FORM, a recessive one for ACK (R10). -/
def ErrorKind.fits (sampled : List Bool) : ErrorKind → Bool
  | .bit | .crc => !sampled.isEmpty
  | .stuff => endIn 7 true sampled || endIn 7 false sampled
  | .form => endIn 1 false sampled
  | .ack => endIn 1 true sampled

/-- A BAD_COMMAND carries a code no command has (R151), a frame carries at most 15 payload bytes (R5), an error is reported with the bits in which it can be detected (R10), an error delimiter ends in 8 recessive bits, and a stuck line is 16 dominant ones (R13). -/
def Instr.wellFormed : Instr → Bool
  | .setStation _ | .setLine _ | .setInput _ | .setSubscription _ | .setReaction _ => true
  | .join | .restart => true
  | .postCueShared _ | .postCueLocal _ | .postRecallShared _ | .postRecallLocal _ => true
  | .withdraw _ | .readNotice | .readStatus | .readTime => true
  | .readPeer _ | .readEntry _ | .readRecord _ => true
  | .badCommand code => !assignedCodes.contains code
  | .transactionTruncated | .pinReset | .markEdge _ _ | .sof _ _ | .offer => true
  | .lostArbitration => true
  | .errorDetected kind sampled => kind.fits sampled
  | .acceptance frame _ => frame.lengthFits
  | .errorDelimiterEnd sampled => endIn 8 true sampled
  | .stuckLineError sampled => endIn 16 false sampled
  | .errorFlagEnd | .interframeSpaceEnd => true
  | .integrationComplete | .holdOffEnd | .drainEnd | .idleSpan => true
  | .recoveryTimeExpiry | .syncRound | .listenWindowEnd | .scheduleExpiry => true
  | .staleTimeExpiry _ | .pulseEnd _ | .spacingEnd _ => true
  | .transactionBegin | .transactionEnd => true

end Sys2Proof
end

