-- ==== Sys2Proof/Decode.lean ====
section
/-! DEFINITION. What bits spell a command. The table gives no row any bits, so decodeTableWord answers none; the bytes of an SPI transaction spell the commands of the local port (R149, R159), and decodeTransaction reads them. -/

namespace Sys2Proof

open Sys2Proof.Machine

/-- No row of spec/opcode_table.json has bits, so no word spells a command. -/
def decodeTableWord (_nbits _w : Nat) : Option Instr := none

/-- How many argument bytes follow a command byte (R159); none for a code that is not assigned. -/
def argumentCount (code : Byte) : Option Nat :=
  match code.toNat with
  | 0x01 => some 18
  | 0x02 => some 2
  | 0x03 => some 4
  | 0x04 => some 7
  | 0x05 => some 11
  | 0x08 => some 0
  | 0x09 => some 0
  | 0x10 => some 15
  | 0x11 => some 5
  | 0x12 => some 1
  | 0x20 => some 0
  | 0x21 => some 0
  | 0x22 => some 0
  | 0x23 => some 1
  | 0x24 => some 1
  | 0x25 => some 1
  | _ => none

/-- SET_STATION from its 18 argument bytes (R159). -/
def decodeStation : List Byte → Option Instr
  | [id, rate, sample, jump, b1, b0, t1, t0, lock, quorum, l1, l0, m1, m0, u1, u0, k1, k0] =>
    some (.setStation
      { id := id, bitRate := rate, samplePoint := sample, jump := jump
        beatMs := wordOfBytes 16 [b1, b0], threshold := wordOfBytes 16 [t1, t0]
        lockBound := lock, quorum := quorum
        lateWindow := wordOfBytes 16 [l1, l0], sendMargin := wordOfBytes 16 [m1, m0]
        urgencyStep := wordOfBytes 16 [u1, u0], markMs := wordOfBytes 16 [k1, k0] })
  | _ => none

/-- SET_LINE from its 2 argument bytes (R159). -/
def decodeLine : List Byte → Option Instr
  | [line, flags] =>
    some (.setLine
      { line := line, lowTrue := flags.getLsbD 0, guarded := flags.getLsbD 1, safe := flags.getLsbD 2 })
  | _ => none

/-- SET_INPUT from its 4 argument bytes (R159). -/
def decodeInput : List Byte → Option Instr
  | [input, flags, s1, s0] =>
    some (.setInput
      { input := input, select := BitVec.ofNat 2 flags.toNat
        announce := flags.getLsbD 2, notify := flags.getLsbD 3
        spacing := wordOfBytes 16 [s1, s0] })
  | _ => none

/-- SET_SUBSCRIPTION from its 7 argument bytes (R159). -/
def decodeSubscription : List Byte → Option Instr
  | [entry, flags, target, c1, c0, m1, m0] =>
    some (.setSubscription
      { entry := entry, enabled := flags.getLsbD 0, notify := flags.getLsbD 1, target := target
        code := wordOfBytes 16 [c1, c0], mask := wordOfBytes 16 [m1, m0] })
  | _ => none

/-- SET_REACTION from its 11 argument bytes (R159). -/
def decodeReaction : List Byte → Option Instr
  | [entry, flags, source, input, o2, o1, o0, action, target, w1, w0] =>
    some (.setReaction
      { entry := entry, enabled := flags.getLsbD 0, notify := flags.getLsbD 1
        edge := BitVec.ofNat 2 (flags.toNat / 4), source := source, input := input
        offset := wordOfBytes 24 [o2, o1, o0], action := action, target := target
        width := wordOfBytes 16 [w1, w0] })
  | _ => none

/-- POST_CUE from its 15 argument bytes; bit 0 of the flags is the scope (R152, R159). -/
def decodePostCue : List Byte → Option Instr
  | [flags, c1, c0, t1, t0, d3, d2, d1, d0, w1, w0, p2, p1, p0, count] =>
    let args : CueArgs :=
      { lead := flags.getLsbD 1, notify := flags.getLsbD 2, repeatPresent := flags.getLsbD 3
        action := BitVec.ofNat 3 (flags.toNat / 16)
        cue := wordOfBytes 16 [c1, c0], topic := wordOfBytes 16 [t1, t0]
        due := wordOfBytes 32 [d3, d2, d1, d0], width := wordOfBytes 16 [w1, w0]
        period := wordOfBytes 24 [p2, p1, p0], count := count }
    some (if flags.getLsbD 0 then .postCueShared args else .postCueLocal args)
  | _ => none

/-- POST_RECALL from its 5 argument bytes; bit 0 of the flags is the scope, bit 1 the form (R153, R159). -/
def decodePostRecall : List Byte → Option Instr
  | [flags, a, b, c, d] =>
    let args : RecallArgs :=
      if flags.getLsbD 1 then .byTopic (wordOfBytes 16 [a, b]) (wordOfBytes 16 [c, d])
      else .byKey a (wordOfBytes 16 [b, c])
    some (if flags.getLsbD 0 then .postRecallShared args else .postRecallLocal args)
  | _ => none

/-- A command of one argument byte. -/
def decodeOne (command : Byte → Instr) : List Byte → Option Instr
  | [b] => some (command b)
  | _ => none

/-- The command of an assigned code and its argument bytes (R159). -/
def decodeAssigned (code : Byte) (args : List Byte) : Option Instr :=
  match code.toNat with
  | 0x01 => decodeStation args
  | 0x02 => decodeLine args
  | 0x03 => decodeInput args
  | 0x04 => decodeSubscription args
  | 0x05 => decodeReaction args
  | 0x08 => some .join
  | 0x09 => some .restart
  | 0x10 => decodePostCue args
  | 0x11 => decodePostRecall args
  | 0x12 => decodeOne (fun b => .withdraw (tagOfByte b)) args
  | 0x20 => some .readNotice
  | 0x21 => some .readStatus
  | 0x22 => some .readTime
  | 0x23 => decodeOne .readPeer args
  | 0x24 => decodeOne .readEntry args
  | 0x25 => decodeOne (fun b => .readRecord (tagOfByte b)) args
  | _ => none

/-- The command that the bytes clocked into one transaction have taken (R149): none while bytes are missing (the transaction would be truncated, R150), BAD_COMMAND for a code that is not assigned (R151). Bytes after the last argument byte are ignored. -/
def decodeTransaction : List Byte → Option Instr
  | [] => none
  | code :: rest =>
    match argumentCount code with
    | none => some (.badCommand code)
    | some n => if rest.length < n then none else decodeAssigned code (rest.take n)

/-- A byte from 8 bits, most significant bit first (R149). -/
def byteOfBits (bits : List Bool) : Byte := BitVec.ofNat 8 (bits.foldl (fun v b => 2 * v + b.toNat) 0)

/-- The complete bytes that bits sampled from SDI make, most significant bit first; a partial byte is discarded (R149, R150). -/
def bytesClocked : List Bool → List Byte
  | b7 :: b6 :: b5 :: b4 :: b3 :: b2 :: b1 :: b0 :: rest =>
    byteOfBits [b7, b6, b5, b4, b3, b2, b1, b0] :: bytesClocked rest
  | _ => []

/-- The command that the bits clocked into one transaction have taken: at the SCK edge that completes its last argument byte (R149). -/
def decodeTransactionBits (bits : List Bool) : Option Instr := decodeTransaction (bytesClocked bits)

/-- The bits of bytes as they stand on SDI and SDO, most significant bit first (R149). -/
def bitsClocked (bytes : List Byte) : List Bool :=
  (bytes.map fun b => (List.range 8).map fun i => b.getMsbD i).flatten

/-- The flags byte of POST_CUE (R159). -/
def cueFlags (shared : Bool) (a : CueArgs) : Byte :=
  BitVec.ofNat 8 (flagAt 0 shared + flagAt 1 a.lead + flagAt 2 a.notify + flagAt 3 a.repeatPresent
    + a.action.toNat * 16)

/-- POST_CUE's bytes, unused bits 0 (R159). -/
def postCueBytes (shared : Bool) (a : CueArgs) : List Byte :=
  0x10 :: cueFlags shared a :: (bytesBe 2 a.cue.toNat ++ bytesBe 2 a.topic.toNat ++ bytesBe 4 a.due.toNat
    ++ bytesBe 2 a.width.toNat ++ bytesBe 3 a.period.toNat ++ [a.count])

/-- POST_RECALL's bytes, unused bits and bytes 0 (R159). -/
def postRecallBytes (shared : Bool) : RecallArgs → List Byte
  | .byKey origin cue =>
    [0x11, BitVec.ofNat 8 (flagAt 0 shared), origin] ++ bytesBe 2 cue.toNat ++ [0]
  | .byTopic code mask =>
    [0x11, BitVec.ofNat 8 (flagAt 0 shared + flagAt 1 true)] ++ bytesBe 2 code.toNat ++ bytesBe 2 mask.toNat

/-- The bytes that spell a command of the local port, its unused bits 0 (R159); none for a row that no transaction spells. -/
def commandBytes : Instr → Option (List Byte)
  | .setStation a =>
    some (0x01 :: [a.id, a.bitRate, a.samplePoint, a.jump] ++ bytesBe 2 a.beatMs.toNat
      ++ bytesBe 2 a.threshold.toNat ++ [a.lockBound, a.quorum] ++ bytesBe 2 a.lateWindow.toNat
      ++ bytesBe 2 a.sendMargin.toNat ++ bytesBe 2 a.urgencyStep.toNat ++ bytesBe 2 a.markMs.toNat)
  | .setLine a =>
    some [0x02, a.line, BitVec.ofNat 8 (flagAt 0 a.lowTrue + flagAt 1 a.guarded + flagAt 2 a.safe)]
  | .setInput a =>
    some ([0x03, a.input, BitVec.ofNat 8 (a.select.toNat + flagAt 2 a.announce + flagAt 3 a.notify)]
      ++ bytesBe 2 a.spacing.toNat)
  | .setSubscription a =>
    some ([0x04, a.entry, BitVec.ofNat 8 (flagAt 0 a.enabled + flagAt 1 a.notify), a.target]
      ++ bytesBe 2 a.code.toNat ++ bytesBe 2 a.mask.toNat)
  | .setReaction a =>
    some ([0x05, a.entry, BitVec.ofNat 8 (flagAt 0 a.enabled + flagAt 1 a.notify + a.edge.toNat * 4),
        a.source, a.input] ++ bytesBe 3 a.offset.toNat ++ [a.action, a.target] ++ bytesBe 2 a.width.toNat)
  | .join => some [0x08]
  | .restart => some [0x09]
  | .postCueShared a => some (postCueBytes true a)
  | .postCueLocal a => some (postCueBytes false a)
  | .postRecallShared a => some (postRecallBytes true a)
  | .postRecallLocal a => some (postRecallBytes false a)
  | .withdraw tag => some [0x12, tagByte tag]
  | .readNotice => some [0x20]
  | .readStatus => some [0x21]
  | .readTime => some [0x22]
  | .readPeer index => some [0x23, index]
  | .readEntry position => some [0x24, position]
  | .readRecord tag => some [0x25, tagByte tag]
  | .badCommand code => some [code]
  | .transactionTruncated | .pinReset | .markEdge _ _ | .sof _ _ | .offer | .lostArbitration => none
  | .errorDetected _ _ | .acceptance _ _ | .errorFlagEnd | .stuckLineError _ | .errorDelimiterEnd _ => none
  | .interframeSpaceEnd | .integrationComplete | .holdOffEnd | .drainEnd | .idleSpan => none
  | .recoveryTimeExpiry | .syncRound | .listenWindowEnd | .scheduleExpiry | .staleTimeExpiry _ => none
  | .pulseEnd _ | .spacingEnd _ | .transactionBegin | .transactionEnd => none

end Sys2Proof
end

