-- ==== Sys2Proof/Config.lean ====
section
/-! DEFINITION. What the part fixes once, and the free values: points the spec leaves open, each an opaque constant of which nothing can be proved. -/

namespace Sys2Proof

/-- The cue horizon, 2^30 µs (00_scope.md; R102). -/
def Config.horizon : Nat := 2 ^ 30

/-- The accumulator's modulus: 16 000 000 reference cycles in one second (R36). -/
def Config.accumulatorModulus : Nat := 16000000

/-- The least bus-time cue number that belongs to a reaction cue (00_scope.md; R137). -/
def Config.firstReactionCue : Nat := 3968

/-- FREE VALUE (assumption 4): which of the expiries due in one reference cycle is taken next, by the number of draws so far. R34 gives no order between blocks. -/
opaque Config.expiryChoice : Nat → Nat

/-- FREE VALUE (assumption 5): the order in which the CSU, the SQ and the FCU take the word of a step, and whether the CSU leaves it for a later event, by the number of draws so far. R39, R116 and R155 give none. -/
opaque Config.reexamineOrder : Nat → Nat

/-- FREE VALUE (assumption 5): whether the CSU takes the word of a step that waits before an arrival or a recall of the same instant, by the number of draws so far (R116 allows both). -/
opaque Config.wordFirst : Nat → Bool

/-- FREE VALUE (assumption 27): of an edge on a mark input and a step in one reference cycle, whether the BTU takes the edge first, by the number of draws so far. R43 gives no order. -/
opaque Config.edgeBeforeStep : Nat → Bool

/-- FREE VALUE (assumption 34): how many of the notices that other blocks posted in the same reference cycle a notice joins the queue in front of, by the number of places drawn so far. R155 leaves their order to the LPU. -/
opaque Config.noticePlace : Nat → Nat

/-- FREE VALUE (assumption 6): where the payload of the BEAT being sent begins in the very reference cycle of a step of this station's own, whether its stamp was copied before the step, by the number of draws so far. R41 does not order the two. -/
opaque Config.stampCopied : Nat → Bool

/-- FREE VALUE (assumption 23): what the unused bits of a frame this station sends carry, by the number of draws so far (R159 fixes them for replies and notices only). -/
opaque Config.unusedFrameBits : Nat → Nat

end Sys2Proof
end

