-- ==== Sys2Proof/Machine/State.lean ====
section
/-! DEFINITION. The state of the CS-840, block by block as 00_scope.md divides it, as plain data, with the values pin reset gives it (R30, R45, R66, R86, R96, R119, R130, R141, R148, R157). -/

namespace Sys2Proof.Machine

/-! ## Names -/

/-- Station state (R142). -/
inductive StationState where
  | offline
  | listening
  | joined
  deriving DecidableEq, Repr

/-- Fault state (R22). -/
inductive FaultState where
  | active
  | guarded
  | silenced
  | barred
  deriving DecidableEq, Repr

/-- Sync state (R52); nosync is the state the spec calls NONE. -/
inductive SyncState where
  | nosync
  | alone
  | seeking
  | locked
  | adrift
  deriving DecidableEq, Repr

/-- The role of this station in an error (R11). -/
inductive Role where
  | sender
  | receiver
  deriving DecidableEq, Repr

/-- LIU state (01, table of 1.2). FLAGGING holds the flag's form (R12) and both recovery states the role of the error being signalled (R13, R19). -/
inductive LiuState where
  | stopped
  | integrating
  | idle
  | sending
  | receiving
  | flagging (dominant : Bool) (role : Role)
  | delimiting (role : Role)
  | spacing
  deriving DecidableEq, Repr

/-- Bit rate in kbit/s (R1). -/
inductive BitRate where
  | k125
  | k250
  | k500
  | k1000
  deriving DecidableEq, Repr

/-- The five actions of a cue, in the order of their codes (R159). -/
inductive Action where
  | set
  | clear
  | toggle
  | pulse
  | note
  deriving DecidableEq, Repr

/-- What a line answers to an action (R107). -/
inductive LineResult where
  | applied
  | suppressed
  | overlap
  deriving DecidableEq, Repr

/-- The path by which a schedule entry arrived (R98). -/
inductive CueSource where
  | bus
  | localPort
  | reaction
  deriving DecidableEq, Repr

/-- Whether a peer has been heard within its last three rounds (R47). -/
inductive PeerPresence where
  | present
  | silent
  deriving DecidableEq, Repr

/-- How a record leaves the send queue (R67). -/
inductive Completion where
  | sent
  | stale
  | withdrawn
  | failed
  deriving DecidableEq, Repr

/-- Edge select of a mark input (R131). -/
inductive EdgeSelect where
  | off
  | rising
  | falling
  | either
  deriving DecidableEq, Repr

/-- Edge of a reaction entry (R137). -/
inductive EdgeMatch where
  | rising
  | falling
  | either
  deriving DecidableEq, Repr

/-- Schedule notices (R117). -/
inductive ScheduleNotice where
  | fired
  | firedLate
  | missed
  | suppressed
  | overlap
  | revised
  | evicted
  | dropped
  | outOfRange
  | recalled
  deriving DecidableEq, Repr

/-- Mark notices (R135). -/
inductive MarkNotice where
  | captured
  | markLost
  deriving DecidableEq, Repr

/-- The new state a PEER_STATE notice carries (R47). -/
inductive PeerChange where
  | present
  | silent
  | freed
  deriving DecidableEq, Repr

/-- The notices that carry a peer id alone (R158). -/
inductive PeerNotice where
  | peersFull
  | idClash
  | malformed
  deriving DecidableEq, Repr

/-- Reply statuses (R151). -/
inductive Status where
  | ok
  | done
  | pending
  | empty
  | refusedState
  | refusedFull
  | refusedRange
  | refusedKey
  | unknownTag
  | busy
  | configInvalid
  | badCommand
  deriving DecidableEq, Repr

/-- The progress of the present SEL-low period (R149): none while SEL is high, the command being received, the reply being sent, or ignored because SEL was already low when RESET was released. -/
inductive Transaction where
  | idle
  | receiving
  | replying
  | ignoring
  deriving DecidableEq, Repr

/-! ## Records -/

/-- A cue line, or NONE (R94, R98). -/
abbrev Target := Option (Fin 8)

/-- A cue key: origin station id and cue number. -/
structure CueKey where
  origin : StationId
  number : CueNumber
  deriving DecidableEq, Repr

/-- A repeat: period in µs and count; in a schedule entry the count is the remaining count, 0 repeating without end (R18, R98). -/
structure Repeat where
  period : Nat
  count  : Nat
  deriving DecidableEq, Repr

/-- The fields of a CUE payload (R18). -/
structure CueContent where
  number : CueNumber
  action : Action
  topic  : Topic
  due    : Micros
  width  : Option (BitVec 16)
  rpt    : Option Repeat
  deriving DecidableEq, Repr

/-- The two forms of a recall (R17). -/
inductive Recall where
  | byKey (key : CueKey)
  | byTopic (code mask : Topic)
  deriving DecidableEq, Repr

/-- The fields of a MARK payload (R17). -/
structure MarkContent where
  input    : Fin 4
  edge     : Edge
  sequence : Byte
  capture  : BusTime
  deriving DecidableEq, Repr

/-- A BEAT as the AGU builds it, without its stamp (R59, R62). -/
structure Beat where
  interval : Nat
  sync     : SyncState
  fresh    : Nat
  sequence : Byte
  stale    : Micros
  deriving DecidableEq, Repr

/-- What a general record carries (R67). -/
inductive RecordBody where
  | recallBody (what : Recall)
  | markBody (mark : MarkContent)
  | cueBody (cue : CueContent)
  deriving DecidableEq, Repr

/-- The state of a general record; HELD names the CUE record a RECALL waits for (R67). -/
inductive RecordState where
  | waiting
  | held (behind : Tag)
  | inFlight
  deriving DecidableEq, Repr

/-- A general send-queue record (R67). order is its position in the entry order. -/
structure Record where
  tag             : Tag
  body            : RecordBody
  stale           : Option Micros
  state           : RecordState
  withdrawPending : Bool
  errors          : Nat
  order           : Nat
  deriving DecidableEq, Repr

/-- The BEAT in the beat slot (R67, R72). -/
structure BeatRecord where
  beat       : Beat
  inFlight   : Bool
  superseded : Bool
  errors     : Nat
  order      : Nat
  deriving DecidableEq, Repr

/-- A schedule entry (R98). -/
structure Entry where
  key    : CueKey
  source : CueSource
  topic  : Option Topic
  hit    : Option (Fin 16)
  target : Target
  action : Action
  width  : Option (BitVec 16)
  rpt    : Option Repeat
  due    : Micros
  notify : Bool
  late   : Bool
  deriving DecidableEq, Repr

/-- A peer table entry (R47). -/
structure Peer where
  station  : StationId
  presence : PeerPresence
  rounds   : Nat
  offset   : Option Int
  fresh    : Bool
  mismatch : Bool
  sync     : Option SyncState
  sequence : Option Byte
  deriving DecidableEq, Repr

/-- A subscription table entry (R94). -/
structure Subscription where
  enabled : Bool
  code    : Topic
  mask    : Topic
  target  : Target
  notify  : Bool
  deriving DecidableEq, Repr

/-- A reaction table entry (R137); width is present only when the action is PULSE. -/
structure Reaction where
  enabled : Bool
  source  : StationId
  input   : Fin 4
  edge    : EdgeMatch
  offset  : Nat
  action  : Action
  target  : Target
  width   : Option (BitVec 16)
  notify  : Bool
  deriving DecidableEq, Repr

/-- A mark input: its configuration and its state (R131). -/
structure MarkInput where
  select     : EdgeSelect
  announce   : Bool
  notify     : Bool
  spacing    : Nat
  spacingEnd : Option Micros
  sequence   : Byte
  deriving DecidableEq, Repr

/-- A cue line: level (true is asserted), pulse end, polarity, guarded flag and safe level (08, state table). -/
structure Line where
  level   : Bool
  pulse   : Option Micros
  lowTrue : Bool
  guarded : Bool
  safe    : Bool
  deriving DecidableEq, Repr

/-- The fields of a notice beyond its kind's code and its posting time (R158). -/
inductive NoticeBody where
  | schedule (kind : ScheduleNotice) (key : CueKey) (line : Target) (skipped : Nat)
  | sendQueue (kind : Completion) (tag : Tag) (unheard lateWithdraw : Bool)
  | mark (kind : MarkNotice) (input : Fin 4) (edge : Edge) (sequence : Byte)
  | peerState (peer : StationId) (change : PeerChange)
  | peer (kind : PeerNotice) (peer : StationId)
  | syncState (old new : SyncState)
  | faultState (old new : FaultState)
  | joined (sync : SyncState)
  | restarted
  | lost (count : Nat)
  deriving DecidableEq, Repr

/-- The blocks that post notices (R117, R135, R84, R47, R22, R28, R54, R91, R146, R147, R156). -/
inductive Poster where
  | agu
  | csu
  | fcu
  | iku
  | mku
  | sq
  | stc
  | lpu
  deriving DecidableEq, Repr

/-- A notice: the µs part of bus time at its posting, and its fields (R158). -/
structure Notice where
  posted : Micros
  body   : NoticeBody
  deriving DecidableEq, Repr

/-- The station settings of the configuration store (R143). The line, input, subscription and reaction entries stand at the CLU, MKU and IKU. -/
structure StationConfig where
  id          : StationId
  bitRate     : BitRate
  samplePoint : Nat
  jump        : Nat
  beatMs      : Nat
  threshold   : Nat
  lockBound   : Nat
  quorum      : Nat
  lateWindow  : Nat
  sendMargin  : Nat
  urgencyStep : Nat
  markMs      : Nat
  deriving DecidableEq, Repr

/-- The settings the LIU took at the last JOIN (R1, R144). -/
structure LiuSettings where
  id          : StationId
  bitRate     : BitRate
  samplePoint : Nat
  jump        : Nat
  deriving DecidableEq, Repr

/-- The attempt the LIU holds: the place of its record, the frame built from it, and the BEAT stamp once it is copied (R4, R16, R41). -/
structure Attempt where
  place : Place
  frame : Frame
  stamp : Option BusTime
  deriving DecidableEq, Repr

/-- A SOF capture, provisional or confirmed (R40). -/
structure Capture where
  time      : BusTime
  confirmed : Bool
  deriving DecidableEq, Repr

/-! ## Blocks -/

/-- Station control (10, state table). -/
structure StcState where
  station   : StationState
  draining  : Bool
  windowEnd : Option Micros
  config    : StationConfig
  deriving DecidableEq, Repr

/-- The LIU's bit timing (R1): which bit is running, counted from the one hard synchronisation began; reference cycles since the start of that bit; how many quanta later or sooner it ends than after its 16; and whether it has been resynchronised. -/
structure BitTiming where
  bit      : Nat
  cycle    : Nat
  shift    : Int
  resynced : Bool
  deriving DecidableEq, Repr

/-- Line interface unit (01; hold-off R24). ownEnded: an attempt of this station ended in acceptance or error and IDLE has not been entered since (R24). -/
structure LiuBlock where
  state    : LiuState
  attempt  : Option Attempt
  settings : LiuSettings
  timing   : BitTiming
  ownEnded : Bool
  holdOff  : Bool
  deriving DecidableEq, Repr

/-- Fault confinement unit (02, state table). run is the run of recessive bits that counts towards the next idle span (R26), and owed how many idle spans the bits sampled have completed whose IDLE_SPAN has not come; below 0, how many have come before the row that reports their bits (assumption 38); timeReached says that the recovery time has been reached while fewer than 64 spans were counted (R27, assumption 37). -/
structure FcuState where
  score       : Nat
  state       : FaultState
  spans       : Nat
  run         : Nat
  owed        : Int
  recovery    : Option Micros
  timeReached : Bool
  deriving DecidableEq, Repr

/-- Bus time unit (03, state table). The slew is in sixteenths of a ppm, the trim in ppm. stepFrom is the reading before the step that takes the place of the next advance, where one has been made (R37); latch is the reading of the reference cycle before, in which the BTU latched the edges that the MKU takes now, and latchFrom the reading before a step made in that cycle (R43, R135). -/
structure BtuState where
  time      : BusTime
  trim      : Int
  slew      : Int
  acc       : Nat
  capture   : Option Capture
  stepFrom  : Option BusTime
  latch     : BusTime
  latchFrom : Option BusTime
  deriving DecidableEq, Repr

/-- Agreement unit (04, state table). -/
structure AguState where
  peers       : Vector (Option Peer) 32
  sync        : SyncState
  good        : Nat
  boundary    : Option Micros
  fresh       : Nat
  residue     : Int
  sequence    : Byte
  pendingBeat : Option Beat
  fullNotice  : Bool
  deriving DecidableEq, Repr

/-- Send queue (05, state table). records stand in slot order, each in a slot of its own; nextOrder is the place the next record takes in the entry order. -/
structure SqState where
  records     : List Record
  beat        : Option BeatRecord
  generations : Vector (BitVec 4) 16
  nextOrder   : Nat
  deriving DecidableEq, Repr

/-- Intake unit (06, state table). -/
structure IkuState where
  subscriptions : Vector Subscription 16
  malformed     : Nat
  unsubscribed  : Nat
  noticed       : Bool
  deriving DecidableEq, Repr

/-- The word of a step of bus time that has reached the CSU: bus time moved forward or backward (R39). -/
inductive StepWord where
  | forward
  | backward
  deriving DecidableEq, Repr

/-- Cue schedule unit (07, state table): the schedule in schedule order, and the word of a step whose step handling the CSU has not made yet (R39, R116). The armed expiry is the due time of the first entry (R99). -/
structure CsuState where
  schedule : List Entry
  word     : Option StepWord
  deriving DecidableEq, Repr

/-- Cue line unit (08, state table). pins is what the pins showed in the last complete reference cycle, true for high (R120). -/
structure CluState where
  lines : Vector Line 8
  told  : SyncState
  pins  : Vector Bool 8
  deriving DecidableEq, Repr

/-- Mark unit (09). -/
structure MkuState where
  inputs    : Vector MarkInput 4
  reactions : Vector Reaction 8
  deriving DecidableEq, Repr

/-- Local port unit (11, state table). NOTE is asserted exactly when notices is not empty (R155). -/
structure LpuState where
  transaction : Transaction
  reply       : List Byte
  truncated   : Bool
  notices     : List Notice
  lost        : Nat
  deriving DecidableEq, Repr

/-- What the model keeps of the notices of the present reference cycle, whose order among different blocks the spec leaves open (R155, assumption 34): how many have joined the queue, which blocks have lost one, and how many free places have been drawn so far. -/
structure Posted where
  recent : Nat
  shut   : List Poster
  drawn  : Nat
  deriving DecidableEq, Repr

/-- The machine. pending is the queue of waiting commands, first in, first out; spent holds the events of this reference cycle that have nothing left to do: the expiries whose reached time an action or an edge has already ended (R125, R134, assumption 36), and the idle span that the clock has counted (R26, assumption 38); posted is of the notices of this cycle (R155, assumption 34); draws counts the other free values drawn so far (assumption 17). -/
structure State where
  stc     : StcState
  liu     : LiuBlock
  fcu     : FcuState
  btu     : BtuState
  agu     : AguState
  sq      : SqState
  iku     : IkuState
  csu     : CsuState
  clu     : CluState
  mku     : MkuState
  lpu     : LpuState
  pending : List Instr
  spent   : List Instr
  posted  : Posted
  draws   : Nat
  deriving DecidableEq, Repr

/-- The spec stops the machine nowhere (INVENTORY.md, Faults): there is no fault. -/
inductive Fault where
  deriving DecidableEq, Repr

/-- Refusals. -/
inductive Refusal where
  /-- Raised by an arm of exec whose command has no meaning yet; safe. No arm raises it. -/
  | notModelled (mnemonic : String)
  deriving DecidableEq, Repr

/-! ## Writing one block -/

def State.setStc (s : State) (b : StcState) : State := { s with stc := b }
def State.setLiu (s : State) (b : LiuBlock) : State := { s with liu := b }
def State.setFcu (s : State) (b : FcuState) : State := { s with fcu := b }
def State.setBtu (s : State) (b : BtuState) : State := { s with btu := b }
def State.setAgu (s : State) (b : AguState) : State := { s with agu := b }
def State.setSq (s : State) (b : SqState) : State := { s with sq := b }
def State.setIku (s : State) (b : IkuState) : State := { s with iku := b }
def State.setCsu (s : State) (b : CsuState) : State := { s with csu := b }
def State.setClu (s : State) (b : CluState) : State := { s with clu := b }
def State.setMku (s : State) (b : MkuState) : State := { s with mku := b }
def State.setLpu (s : State) (b : LpuState) : State := { s with lpu := b }
def State.setPending (s : State) (b : List Instr) : State := { s with pending := b }
def State.setSpent (s : State) (b : List Instr) : State := { s with spent := b }
def State.setPosted (s : State) (b : Posted) : State := { s with posted := b }
def State.setDraws (s : State) (b : Nat) : State := { s with draws := b }

/-! ## Values after pin reset -/

/-- The defaults of R143. -/
def StationConfig.defaults : StationConfig :=
  { id := 0, bitRate := .k500, samplePoint := 12, jump := 2, beatMs := 100, threshold := 1000
    lockBound := 32, quorum := 1, lateWindow := 100, sendMargin := 500, urgencyStep := 1000, markMs := 10 }

/-- The defaults of R94. -/
def Subscription.defaults : Subscription :=
  { enabled := false, code := 0, mask := 0, target := none, notify := false }

/-- The defaults of R137. -/
def Reaction.defaults : Reaction :=
  { enabled := false, source := 0, input := 0, edge := .either, offset := 0, action := .note
    target := none, width := none, notify := false }

/-- The defaults of R131. -/
def MarkInput.defaults : MarkInput :=
  { select := .off, announce := false, notify := false, spacing := 0, spacingEnd := none, sequence := 0 }

/-- A line after pin reset (R130). -/
def Line.defaults : Line :=
  { level := false, pulse := none, lowTrue := false, guarded := false, safe := false }

/-- The LIU's settings a configuration holds (R1, R144). -/
def StationConfig.settings (c : StationConfig) : LiuSettings :=
  { id := c.id, bitRate := c.bitRate, samplePoint := c.samplePoint, jump := c.jump }

/-- The start of a bit: where hard synchronisation puts the bit timing (R1). -/
def BitTiming.start : BitTiming := { bit := 0, cycle := 0, shift := 0, resynced := false }

/-- The machine right after pin reset (R148). The LIU's settings before the first JOIN are assumption 18, its bit timing assumption 35. -/
def State.reset : State :=
  { stc := { station := .offline, draining := false, windowEnd := none, config := StationConfig.defaults }
    liu := { state := .stopped, attempt := none, settings := StationConfig.defaults.settings
             timing := BitTiming.start, ownEnded := false, holdOff := false }
    fcu := { score := 0, state := .active, spans := 0, run := 0, owed := 0, recovery := none, timeReached := false }
    btu := { time := 0, trim := 0, slew := 0, acc := 0, capture := none, stepFrom := none, latch := 0
             latchFrom := none }
    agu := { peers := Vector.replicate 32 none, sync := .nosync, good := 0, boundary := none, fresh := 0
             residue := 0, sequence := 0, pendingBeat := none, fullNotice := false }
    sq := { records := [], beat := none, generations := Vector.replicate 16 0, nextOrder := 0 }
    iku := { subscriptions := Vector.replicate 16 Subscription.defaults, malformed := 0, unsubscribed := 0
             noticed := false }
    csu := { schedule := [], word := none }
    clu := { lines := Vector.replicate 8 Line.defaults, told := .nosync
             pins := Vector.replicate 8 false }
    mku := { inputs := Vector.replicate 4 MarkInput.defaults, reactions := Vector.replicate 8 Reaction.defaults }
    lpu := { transaction := .idle, reply := [], truncated := false, notices := [], lost := 0 }
    pending := []
    spent := []
    posted := { recent := 0, shut := [], drawn := 0 }
    draws := 0 }

end Sys2Proof.Machine
end

