-- ==== Sys2Proof/Machine/Wire.lean ====
section
/-! DEFINITION. The bits of a frame on the station bus (01): fields (R5), stuffing (R6), check value (R7), arbitration (R8), and what a sender and a receiver make of the bits they sample (R9, R10). A bit is true when it is recessive. Bits pass inside one row (assumption 7), so these functions change no state. -/

namespace Sys2Proof.Machine

/-! ## Fields (R5) -/

/-- The low n bits of a value, most significant first. -/
def bitsOf (n v : Nat) : List Bool := (List.range n).map fun i => v.testBit (n - 1 - i)

/-- The value of bits, most significant first. -/
def valueOf (bits : List Bool) : Nat := bits.foldl (fun v b => 2 * v + b.toNat) 0

/-- Class codes. -/
def classCodeOf : FrameClass → Nat
  | .beat => 0
  | .recallFrame => 1
  | .mark => 2
  | .cue => 3

/-- The class of a code. -/
def classOfCode : Nat → FrameClass
  | 0 => .beat
  | 1 => .recallFrame
  | 2 => .mark
  | _ => .cue

/-- Class, urgency and station: the arbitration field (R8). -/
def arbitrationField (f : Frame) : List Bool :=
  bitsOf 2 (classCodeOf f.cls) ++ bitsOf 4 f.urgency.toNat ++ bitsOf 7 f.station.toNat

/-- Payload bytes as bits, first byte first. -/
def payloadBits (payload : List Byte) : List Bool := (payload.map fun b => bitsOf 8 b.toNat).flatten

/-- Class, urgency, station, length and payload: what the check value covers (R7). -/
def coveredBits (f : Frame) : List Bool :=
  arbitrationField f ++ bitsOf 4 f.payload.length ++ payloadBits f.payload

/-! ## Check value (R7) -/

/-- One bit of the check register. -/
def crcStep (reg : BitVec 16) (bit : Bool) : BitVec 16 :=
  if bit != reg.msb then (reg <<< 1) ^^^ 0x1021 else reg <<< 1

/-- The check value over bits, from all ones. -/
def crcOf (bits : List Bool) : BitVec 16 := bits.foldl crcStep 0xFFFF

/-! ## Stuffing (R6) -/

/-- The bits sent from a run of length run of prev on: after six identical bits one opposite bit. -/
def stuffFrom (prev : Bool) (run : Nat) : List Bool → List Bool
  | [] => []
  | b :: rest =>
    let length := if b = prev then run + 1 else 1
    if length = 6 then b :: (!b) :: stuffFrom (!b) 1 rest else b :: stuffFrom b length rest

/-- The stuffed bits of a region. -/
def stuff (region : List Bool) : List Bool := stuffFrom true 0 region

/-- What a receiver has of the bits it wants: all of them, with the bits behind them, some still to come, or seven identical bits among them. -/
inductive Destuffed where
  | bits (region rest : List Bool)
  | short
  | stuffError
  deriving DecidableEq, Repr

/-- One more bit in front. -/
def Destuffed.cons (b : Bool) : Destuffed → Destuffed
  | .bits region rest => .bits (b :: region) rest
  | .short => .short
  | .stuffError => .stuffError

/-- The next wanted bits of a stuffed region from a run of length run of prev on, stuff bits removed: after six identical bits the next is a stuff bit, also behind the last wanted one. Bits behind it are left alone. -/
def destuffFrom (wanted : Nat) (prev : Bool) (run : Nat) : List Bool → Destuffed
  | [] => if wanted = 0 ∧ run ≠ 6 then .bits [] [] else .short
  | b :: rest =>
    if run = 6 then if b = prev then .stuffError else destuffFrom wanted b 1 rest
    else
      match wanted with
      | 0 => .bits [] (b :: rest)
      | n + 1 => (destuffFrom n b (if b = prev then run + 1 else 1) rest).cons b

/-- The first wanted bits of a stuffed region with its stuff bits removed. -/
def destuff (wanted : Nat) (bits : List Bool) : Destuffed := destuffFrom wanted true 0 bits

/-! ## A whole frame -/

/-- SOF through the last CRC bit, before stuffing (R5). -/
def regionBits (f : Frame) : List Bool := false :: coveredBits f ++ bitsOf 16 (crcOf (coveredBits f)).toNat

/-- The frame as its sender drives it: the stuffed region, then CRC delimiter, ack slot, ack delimiter and end field, all sent recessive (R5, R9). -/
def wireBits (f : Frame) : List Bool := stuff (regionBits f) ++ List.replicate 10 true

/-- The bits of a frame as they stand on the line, the ack slot at the level it has there (R5, R9). -/
def lineBits (f : Frame) (ackDominant : Bool) : List Bool :=
  stuff (regionBits f) ++ true :: (!ackDominant) :: List.replicate 8 true

/-- The bit of a frame on the line in which its payload begins, counted from SOF as bit 0, with the stuff bits before it (R5, R6). -/
def payloadStart (f : Frame) : Nat := (stuff ((regionBits f).take 18)).length

/-- The least number of bits on the wire, with the interframe space, for a length (1.10). -/
def fewestBits (length : Nat) : Nat := 34 + 8 * length + 10 + 3

/-- The most stuff bits a region of n bits carries (1.10). -/
def mostStuffBits (n : Nat) : Nat := 1 + (n - 6) / 5

/-- The greatest number of bits on the wire for a length (1.10). -/
def mostBits (length : Nat) : Nat := fewestBits length + mostStuffBits (34 + 8 * length)

/-! ## Reception (R6, R7, R10) -/

/-- What a receiver makes of the bits from SOF on, up to the CRC: an error, bits still to come, or a sound frame and the bits behind it. -/
inductive Reception where
  | stuffError
  | crcError
  | incomplete
  | sound (frame : Frame) (rest : List Bool)
  deriving DecidableEq, Repr

/-- n bytes of payload from bits. -/
def bytesOfBits : Nat → List Bool → List Byte
  | 0, _ => []
  | n + 1, bits => BitVec.ofNat 8 (valueOf (bits.take 8)) :: bytesOfBits n (bits.drop 8)

/-- The frame that covered bits carry, by their own length field. -/
def frameOfCovered (bits : List Bool) : Frame :=
  { cls := classOfCode (valueOf (bits.take 2)), urgency := BitVec.ofNat 4 (valueOf ((bits.drop 2).take 4))
    station := BitVec.ofNat 7 (valueOf ((bits.drop 6).take 7))
    payload := bytesOfBits (valueOf ((bits.drop 13).take 4)) (bits.drop 17) }

/-- The bits of a region whose SOF and first 17 bits are these: SOF, 17 bits up to the length field, the payload it counts, and the CRC (R5). -/
def regionLength (header : List Bool) : Nat := 34 + 8 * valueOf ((header.drop 14).take 4)

/-- A destuffed region with its check value compared (R7). -/
def checkRegion (region rest : List Bool) : Reception :=
  let covered := (region.drop 1).take (region.length - 17)
  if valueOf (region.drop (region.length - 16)) = (crcOf covered).toNat then .sound (frameOfCovered covered) rest
  else .crcError

/-- The bits from SOF on as a receiver takes them, up to the last CRC bit or the stuff bit that follows it: stuff bits removed, as many bits as the length field asks for, and the check value compared. Where that last stuff bit is the seventh identical bit, the error is STUFF whatever the check value (assumption 31). -/
def receive (bits : List Bool) : Reception :=
  match destuff 18 bits with
  | .stuffError => .stuffError
  | .short => .incomplete
  | .bits header _ =>
    match destuff (regionLength header) bits with
    | .stuffError => .stuffError
    | .short => .incomplete
    | .bits region rest => checkRegion region rest

/-! ## Arbitration (R8) -/

/-- What one bit tells the station that sent it. -/
inductive BitResult where
  | continues
  | lost
  | error (kind : ErrorKind)
  deriving DecidableEq, Repr

/-- The table of R8. -/
def arbitrationBit (sent sampled : Bool) : BitResult :=
  match sent, sampled with
  | false, false => .continues
  | true, true => .continues
  | true, false => .lost
  | false, true => .error .bit

/-- The line under two contenders: they send alike up to the first bit in which one is dominant and the other recessive; the one that lost there sends no more. -/
def contend : List Bool → List Bool → List Bool
  | a :: as, b :: bs => if a = b then a :: contend as bs else false :: if a then bs else as
  | _, _ => []

/-- A contender's result over an arbitration field: the first bit that does not continue decides. -/
def arbitrate : List Bool → List Bool → BitResult
  | sent :: rest, sampled :: seen =>
    match arbitrationBit sent sampled with
    | .continues => arbitrate rest seen
    | other => other
  | _, _ => .continues

/-! ## A frame checked bit by bit (R8, R9, R10) -/

/-- What a bit on the wire is to the station that sends it. -/
inductive BitField where
  | sof
  | arbitration
  | covered
  | stuffBit
  | fixed
  | ackSlot
  deriving DecidableEq, Repr

/-- What a sent bit tells its sender (R8, R9, R10): SOF, the fields from length through the CRC, and every stuff bit, also one inside the arbitration field, are compared, and a difference is a BIT error; an arbitration bit goes by the table of R8; a delimiter or end bit is FORM where it is sampled dominant; a recessive ack slot is an ACK error while a peer is PRESENT. -/
def sentBit (present : Nat) (field : BitField) (sent sampled : Bool) : BitResult :=
  match field with
  | .arbitration => arbitrationBit sent sampled
  | .sof | .covered | .stuffBit => if sent = sampled then .continues else .error .bit
  | .fixed => if sampled then .continues else .error .form
  | .ackSlot => if sampled && decide (0 < present) then .error .ack else .continues

/-- The bits of a region with what each is, stuff bits inserted, from a run of length run of prev on (R6). -/
def stuffFields (prev : Bool) (run : Nat) : List (BitField × Bool) → List (BitField × Bool)
  | [] => []
  | (field, b) :: rest =>
    let length := if b = prev then run + 1 else 1
    if length = 6 then (field, b) :: (.stuffBit, !b) :: stuffFields (!b) 1 rest
    else (field, b) :: stuffFields b length rest

/-- The fields behind the stuffed region: CRC delimiter, ack slot, ack delimiter, end field (R5). -/
def fixedFields : List BitField := [.fixed, .ackSlot] ++ List.replicate 8 .fixed

/-- The bits of a whole frame as its sender drives them, with what each is: wireBits f, bit by bit (R5, R6). -/
def wireFields (f : Frame) : List (BitField × Bool) :=
  stuffFields true 0 ((regionBits f).mapIdx fun i b => (if i = 0 then .sof else if i ≤ 13 then .arbitration else .covered, b))
    ++ fixedFields.map fun field => (field, true)

/-- How a frame ends at a station: not yet; arbitration lost; an error; or acceptance, with the level of the ack slot. -/
inductive FrameEnd where
  | incomplete
  | lost
  | error (kind : ErrorKind)
  | accepted (frame : Frame) (ackDominant : Bool)
  deriving DecidableEq, Repr

/-- The bits of a frame checked one by one against the bits sampled; the first that does not continue ends it, so no further error is found in it (R10), and the seventh end bit sampled recessive is its acceptance (R14). -/
def checkBits (present : Nat) (f : Frame) (ackDominant : Bool) : List (BitField × Bool) → List Bool → FrameEnd
  | [], _ => .accepted f ackDominant
  | _ :: _, [] => .incomplete
  | (field, sent) :: rest, sampled :: seen =>
    match sentBit present field sent sampled with
    | .continues => checkBits present f (if field = .ackSlot then !sampled else ackDominant) rest seen
    | .lost => .lost
    | .error kind => .error kind

/-- What the sender of a frame, or a contender, makes of the bits sampled from SOF on, with so many peers PRESENT at the ack slot (R8, R9, R10). -/
def senderEnd (present : Nat) (f : Frame) (sampled : List Bool) : FrameEnd :=
  checkBits present f false (wireFields f) sampled

/-- What a receiver makes of the bits sampled from SOF on, one that lost arbitration too: STUFF and CRC in the region, FORM behind it, and nothing checked in the ack slot (R8, R9, R10). -/
def receiverEnd (sampled : List Bool) : FrameEnd :=
  match receive sampled with
  | .stuffError => .error .stuff
  | .crcError => .error .crc
  | .incomplete => .incomplete
  | .sound f rest => checkBits 0 f false (fixedFields.map fun field => (field, true)) rest

/-- The interframe space: the first of its 3 bits sampled dominant is a FORM error (R10, R15). -/
def interframeSpace (sampled : List Bool) : BitResult :=
  if (sampled.take 3).contains false then .error .form else .continues

/-- The row that reports how a frame ended, whose bits sampled were these. -/
def FrameEnd.row (sampled : List Bool) : FrameEnd → Option Instr
  | .incomplete => none
  | .lost => some .lostArbitration
  | .error kind => some (.errorDetected kind sampled)
  | .accepted f ackDominant => some (.acceptance f ackDominant)

/-- The row that a run of so many recessive bits brings, from a count of them on; a dominant bit returns the count to 0 (R2, R24). -/
def quietRow (wanted : Nat) (row : Instr) (count : Nat) : List Bool → Option Instr
  | [] => none
  | true :: rest => if count + 1 = wanted then some row else quietRow wanted row (count + 1) rest
  | false :: rest => quietRow wanted row 0 rest

/-- The row that bits sampled while DELIMITING bring first, from counts of recessive and of dominant bits on: 8 recessive bits in succession end the error delimiter, and 16 dominant ones are a further error (R13). -/
def delimiterRow (delimiterEnd stuckLine : Instr) (recessive dominant : Nat) : List Bool → Option Instr
  | [] => none
  | true :: rest =>
    if recessive + 1 = 8 then some delimiterEnd else delimiterRow delimiterEnd stuckLine (recessive + 1) 0 rest
  | false :: rest =>
    if dominant + 1 = 16 then some stuckLine else delimiterRow delimiterEnd stuckLine 0 (dominant + 1) rest

/-- The row that reports an interframe space: an error, or its end once its 3 bits are complete (R15). -/
def spacingRow (sampled : List Bool) : Option Instr :=
  match interframeSpace sampled with
  | .error kind => some (.errorDetected kind sampled)
  | _ => if 3 ≤ sampled.length then some .interframeSpaceEnd else none

end Sys2Proof.Machine
end

