-- ==== Sys2Proof/Machine/BitTiming.lean ====
section
/-! DEFINITION. The LIU's bit timing (R1): quanta, hard synchronisation, resynchronisation, where a bit is sampled, and the bit of a frame at which the LIU copies a BEAT's stamp (R41). The edges inside a frame reach no row (assumption 7), so the State's bit timing runs free from the SOF edge on; sampledBits runs it over a whole waveform. -/

namespace Sys2Proof.Machine

/-! ## Quanta -/

/-- Reference cycles per quantum. -/
def BitRate.cyclesPerQuantum : BitRate → Nat
  | .k125 => 8
  | .k250 => 4
  | .k500 => 2
  | .k1000 => 1

/-- The bit time in µs: 16 quanta of 16 MHz cycles. -/
def BitRate.bitMicros (r : BitRate) : Nat := 16 * r.cyclesPerQuantum / 16

/-- The quantum the current reference cycle lies in, counted from 1. -/
def BitTiming.quantum (r : BitRate) (t : BitTiming) : Nat := t.cycle / r.cyclesPerQuantum + 1

/-- The length of the current bit in reference cycles. -/
def BitTiming.bitCycles (r : BitRate) (t : BitTiming) : Nat := (16 + t.shift).toNat * r.cyclesPerQuantum

/-- The reference cycle of the bit at whose end BRX is sampled: the last of the quantum the sample point names, which a late edge has moved later. -/
def BitTiming.sampleCycle (c : LiuSettings) (t : BitTiming) : Nat :=
  (c.samplePoint + t.shift.toNat) * c.bitRate.cyclesPerQuantum - 1

/-! ## Synchronisation -/

/-- How many quanta the end of the current bit moves, later or sooner, for an edge seen in quantum e. -/
def resync (samplePoint jump e : Nat) : Int :=
  if e = 1 then 0
  else if e ≤ samplePoint then (min (e - 1) jump : Nat)
  else -(min (17 - e) jump : Nat)

/-- A recessive-to-dominant edge inside a frame: the bit ends later or sooner, at most once in one bit. An edge that ends the bit at once falls in quantum 1 of the next (assumption 7). -/
def BitTiming.edge (c : LiuSettings) (t : BitTiming) : BitTiming :=
  let e := t.quantum c.bitRate
  let moved := resync c.samplePoint c.jump e
  if t.resynced ∨ moved = 0 then t
  else if 16 + moved < e then { BitTiming.start with bit := t.bit + 1, cycle := t.cycle % c.bitRate.cyclesPerQuantum }
  else { t with shift := moved, resynced := true }

/-- n reference cycles without an edge. -/
def BitTiming.pass (r : BitRate) (n : Nat) (t : BitTiming) : BitTiming :=
  let gone := t.cycle + n
  let excess := gone - t.bitCycles r
  let whole := 16 * r.cyclesPerQuantum
  if gone < t.bitCycles r then { t with cycle := gone }
  else { BitTiming.start with bit := t.bit + 1 + excess / whole, cycle := excess % whole }

/-- How many bits pass their sample point in n reference cycles without an edge: the current one, and those of 16 quanta behind it. -/
def BitTiming.samples (c : LiuSettings) (n : Nat) (t : BitTiming) : Nat :=
  let gone := t.cycle + n
  let whole := 16 * c.bitRate.cyclesPerQuantum
  (if t.cycle ≤ t.sampleCycle c ∧ t.sampleCycle c < gone then 1 else 0)
    + (gone + whole - (t.bitCycles c.bitRate + c.samplePoint * c.bitRate.cyclesPerQuantum)) / whole

/-- How many reference cycles without an edge pass until so many bits, at least one, have passed their sample points. -/
def BitTiming.cyclesUntil (c : LiuSettings) (bits : Nat) (t : BitTiming) : Nat :=
  let here := if t.cycle ≤ t.sampleCycle c then 1 else 0
  if bits ≤ here then t.sampleCycle c + 1 - t.cycle
  else
    t.bitCycles c.bitRate - t.cycle + (bits - here - 1) * (16 * c.bitRate.cyclesPerQuantum)
      + c.samplePoint * c.bitRate.cyclesPerQuantum

/-- The bits sampled from BRX, one level for each reference cycle, from a bit timing and the level before on. -/
def sampledBits (c : LiuSettings) (t : BitTiming) (before : Bool) : List Bool → List Bool
  | [] => []
  | level :: rest =>
    let seen := if before && !level then t.edge c else t
    let later := sampledBits c (seen.pass c.bitRate 1) level rest
    if seen.cycle = seen.sampleCycle c then level :: later else later

/-! ## The LIU's own -/

/-- Hard synchronisation: an edge in IDLE falls at the start of quantum 1 (R1, R3). A SOF this station drives begins at the start of a bit too (R4). -/
def State.hardSync (s : State) : State := s.setLiu { s.liu with timing := BitTiming.start }

/-- Whether the payload of the frame being sent began in an earlier reference cycle (R41). -/
def BitTiming.inPayload (f : Frame) (t : BitTiming) : Bool :=
  decide (payloadStart f < t.bit ∨ t.bit = payloadStart f ∧ 0 < t.cycle)

/-- Whether the payload of the frame being sent begins in this reference cycle (R41). -/
def BitTiming.atPayload (f : Frame) (t : BitTiming) : Bool := decide (t.bit = payloadStart f ∧ t.cycle = 0)

/-- The capture of a BEAT's own SOF copied into its stamp, where none is copied yet (R16, R41). -/
def Attempt.stamped (capture : Option Capture) (a : Attempt) : Attempt :=
  match a.place, a.stamp, capture with
  | .beat, none, some c => { a with stamp := some c.time }
  | _, _, _ => a

/-- The LIU copies the SOF capture at the first payload bit of the BEAT it is sending, also in the very reference cycle in which that bit begins where startsNow holds (R41). -/
def LiuBlock.copyStamp (capture : Option Capture) (startsNow : Bool) (l : LiuBlock) : LiuBlock :=
  let due := fun a : Attempt =>
    decide (l.state = .sending)
      && (l.timing.inPayload a.frame || (startsNow && l.timing.atPayload a.frame))
  { l with attempt := l.attempt.map fun a => if due a then a.stamped capture else a }

/-- n reference cycles at the LIU: the bit timing runs while the LIU is not STOPPED, and where it comes to the payload of a BEAT being sent, the stamp is copied (R1, R41). -/
def LiuBlock.pass (n : Nat) (capture : Option Capture) (l : LiuBlock) : LiuBlock :=
  if l.state = .stopped then l
  else ({ l with timing := l.timing.pass l.settings.bitRate n } : LiuBlock).copyStamp capture false

/-- How many bits of the idle line the LIU samples in n reference cycles; with no edge they are recessive (R3). -/
def LiuBlock.idleBits (n : Nat) (l : LiuBlock) : Nat := if l.state = .idle then l.timing.samples l.settings n else 0

end Sys2Proof.Machine
end

