-- ==== Sys2Proof/Machine/Ops.lean ====
section
/-! DEFINITION. The shared operations over bus time, stored times, register files and the notice queue, and the passing of reference cycles. -/

namespace Sys2Proof.Machine

/-! ## Register files -/

/-- A function applied to every register of a file. -/
def mapVector {α β : Type} {n : Nat} (f : α → β) (v : Vector α n) : Vector β n :=
  ⟨⟨v.toList.map f⟩, by simp⟩

/-! ## Comparing times -/

/-- The µs part of bus time (R32). -/
def State.micros (s : State) : Micros := microsOf s.btu.time

/-- How far a time lies ahead, modulo 2^32 (00_scope.md, Comparing times). -/
def distance (t now : Micros) : Nat := (t - now).toNat

/-- A time is ahead of another when their difference modulo 2^32 lies in 1 … 2^31 − 1 (R33). -/
def isAhead (t now : Micros) : Bool := decide (1 ≤ distance t now ∧ distance t now < 2 ^ 31)

/-- A stored time is reached when it is not ahead of bus time (R33). -/
def reached (t now : Micros) : Bool := !isAhead t now

/-- A time some µs later, modulo 2^32. -/
def laterBy (t : Micros) (n : Nat) : Micros := t + BitVec.ofNat 32 n

/-- The difference of two full times, modulo 2^36 and read as signed (R33). -/
def signedDifference (a b : BusTime) : Int := (a - b).toInt

/-- The µs change of a step: µs parts counted from the old time without wrap (R37). -/
def microsChange (old : BusTime) (amount : Int) : Int :=
  ((old.toNat : Int) + amount) / 16 - (old.toNat : Int) / 16

/-- A µs time moved by a step's µs change (R38). -/
def movedBy (t : Micros) (change : Int) : Micros := t + BitVec.ofInt 32 change

/-- The distance after the step: the distance ahead of the old bus time less the µs change (R39). A time behind the old bus time counts as negative (assumption 14). -/
def distanceAfter (t old : Micros) (change : Int) : Int := (t - old).toInt - change

/-- The beat interval in µs (R60). -/
def State.beatMicros (s : State) : Nat := s.stc.config.beatMs * 1000

/-! ## The counter -/

/-- The combined correction, in sixteenths of a ppm (R35). -/
def BtuState.combined (b : BtuState) : Int := b.trim * 16 + b.slew

/-- The cycle that ends becomes the cycle before: what the BTU read in it, and before a step made in it (R135). -/
def BtuState.latched (b : BtuState) : BtuState :=
  { b with latch := b.time, latchFrom := b.stepFrom, stepFrom := none }

/-- One reference cycle. A step takes the place of the cycle's advance, which adds no other sixteenth and nothing to the accumulator (R36, R37, assumption 2); any other cycle adds one sixteenth, or a doubled or dropped one when the accumulator overflows (R32, R36). -/
def BtuState.tick (b : BtuState) : BtuState :=
  let gained := b.acc + b.combined.natAbs
  if b.stepFrom.isSome then b.latched
  else if b.combined = 0 then { b.latched with time := b.time + 1 }
  else if gained < Config.accumulatorModulus then { b.latched with time := b.time + 1, acc := gained }
  else
    { b.latched with
      time := if 0 < b.combined then b.time + 2 else b.time
      acc := gained - Config.accumulatorModulus }

/-- n reference cycles at once, none of them the cycle of a step: the corrected cycles are the accumulator's overflows (R36). -/
def BtuState.leap (n : Nat) (b : BtuState) : BtuState :=
  let gained := b.acc + n * b.combined.natAbs
  let corrected := gained / Config.accumulatorModulus
  if b.combined = 0 then { b with time := b.time + BitVec.ofNat 36 n }
  else
    { b with
      time := b.time + BitVec.ofNat 36 (if 0 < b.combined then n + corrected else n - corrected)
      acc := gained % Config.accumulatorModulus }

/-- The counter n reference cycles on, the first of which may be the cycle of a step (R36, R37). -/
def BtuState.skip : Nat → BtuState → BtuState
  | 0, b => b
  | n + 1, b => if b.stepFrom.isSome then ({ b with stepFrom := none } : BtuState).leap n else b.leap (n + 1)

/-- n reference cycles at once; the last is taken by itself, for the reading of the cycle before it (R135). -/
def BtuState.advance : Nat → BtuState → BtuState
  | 0, b => b
  | n + 1, b => (b.skip n).tick

/-- How many reference cycles other than that of a step pass before bus time has gained d sixteenths or more. -/
def BtuState.cyclesFor (d : Nat) (b : BtuState) : Nat :=
  let rate := b.combined.natAbs
  if d = 0 then 0
  else if 0 ≤ b.combined then
    (d * Config.accumulatorModulus - b.acc + (Config.accumulatorModulus + rate - 1)) / (Config.accumulatorModulus + rate)
  else ((d - 1) * Config.accumulatorModulus + b.acc) / (Config.accumulatorModulus - rate) + 1

/-- The reference cycles up to the one in which the µs part first equals t; 0 where it does (R34). The cycle of a step brings it no nearer (R37). -/
def BtuState.cyclesTo (t : Micros) (b : BtuState) : Nat :=
  if microsOf b.time = t then 0
  else b.cyclesFor (BitVec.ofNat 36 (t.toNat * 16) - b.time).toNat + if b.stepFrom.isSome then 1 else 0

/-- The counter run on to the reference cycle in which its µs part first equals t (R34). -/
def BtuState.runTo (t : Micros) (b : BtuState) : BtuState :=
  if microsOf b.time = t then b else b.advance (b.cyclesTo t)

/-! ## Reference cycles -/

/-- A cue pin of a line: true is high (R120). -/
def Line.pinHigh (l : Line) : Bool := l.level != l.lowTrue

/-- The cue pins as the lines stand when a reference cycle is complete: the levels after all its events (R120). -/
def CluState.driven (c : CluState) : CluState := { c with pins := mapVector Line.pinHigh c.lines }

/-- The LPU has taken every notice posted so far: a later one joins the queue behind them (R155). -/
def State.settlePosts (s : State) : State := s.setPosted { s.posted with recent := 0, shut := [] }

/-- Whether the last of n reference cycles samples the bit of an idle line at which the run comes to 12 (R26). -/
def State.spanEnds (n : Nat) (s : State) : Bool :=
  decide
    (s.fcu.state = .silenced ∧ s.liu.idleBits (n - 1) < s.liu.idleBits n ∧ (s.fcu.run + s.liu.idleBits n) % 12 = 0)

/-- A reference cycle is complete and n have passed: the pins show the lines, no expiry is spent any longer, an idle span that ends with them is the clock's (assumption 38), its notices are taken, and the LIU's bit timing has run on. -/
def State.cyclesPassed (n : Nat) (s : State) : State :=
  (((s.setClu s.clu.driven).setLiu (s.liu.pass n s.btu.capture)).setSpent
    (if s.spanEnds n then [.idleSpan] else [])).settlePosts

/-- Whether the recovery time has been reached: it is not ahead of bus time by the modular rule (R25, R33), or an expiry or a step has reached it. Once reached it stays so, also where a backward step, or 2^31 µs gone by, puts it ahead again: assumption 37. -/
def State.recoveryReached (s : State) : Bool :=
  s.fcu.timeReached || s.fcu.recovery.any fun t => reached t s.micros

/-! ## Free values -/

/-- One more free value drawn. -/
def State.drawn (s : State) : State := s.setDraws (s.draws + 1)

/-! ## Notices -/

/-- The block that posts a notice: R117 the CSU, R84 the SQ, R135 the MKU, R47, R49 and R54 the AGU, R22 and R28 the FCU, R91 the IKU, R146 and R147 STC, R156 the LPU. -/
def NoticeBody.poster : NoticeBody → Poster
  | .schedule _ _ _ _ => .csu
  | .sendQueue _ _ _ _ => .sq
  | .mark _ _ _ _ => .mku
  | .peerState _ _ => .agu
  | .peer .peersFull _ => .agu
  | .peer .idClash _ => .fcu
  | .peer .malformed _ => .iku
  | .syncState _ _ => .agu
  | .faultState _ _ => .fcu
  | .joined _ => .stc
  | .restarted => .stc
  | .lost _ => .lpu

/-- How many notices a block's next one may join the queue in front of: those that other blocks have posted in this reference cycle, behind the last of its own (R155). -/
def State.freePlaces (p : Poster) (s : State) : Nat :=
  if s.posted.shut.contains p then 0
  else ((s.lpu.notices.reverse.take s.posted.recent).takeWhile fun n => decide (n.body.poster ≠ p)).length

/-- A list with one more element, in front of its last n. -/
def insertBehind {α : Type} (n : Nat) (x : α) (l : List α) : List α :=
  l.take (l.length - n) ++ x :: l.drop (l.length - n)

/-- The queue with a notice taken in front of the last n: of 33 the last is lost, and what its block posts next in this cycle comes behind it and is lost too (R155). -/
def State.joinQueue (n : Nat) (body : NoticeBody) (s : State) : State :=
  let queue := insertBehind n { posted := s.micros, body := body } s.lpu.notices
  if s.lpu.notices.length < 32 then
    (s.setLpu { s.lpu with notices := queue }).setPosted { s.posted with recent := s.posted.recent + 1 }
  else
    (s.setLpu { s.lpu with notices := queue.dropLast, lost := min 255 (s.lpu.lost + 1) }).setPosted
      { s.posted with shut := (queue.getLast?.map fun n => n.body.poster).toList ++ s.posted.shut }

/-- A block posts a notice: it joins the back of the queue, or is counted as lost when the queue holds 32. Among the notices that different blocks post in one reference cycle its place is a free value (R155, assumption 34). -/
def State.post (body : NoticeBody) (s : State) : State :=
  let places := s.freePlaces body.poster
  if places = 0 then s.joinQueue 0 body
  else
    (s.setPosted { s.posted with drawn := s.posted.drawn + 1 }).joinQueue
      (Config.noticePlace s.posted.drawn % (places + 1)) body

/-- A notice posted only when a condition holds. -/
def State.postIf (cond : Bool) (body : NoticeBody) (s : State) : State :=
  if cond then s.post body else s

end Sys2Proof.Machine
end

