-- ==== Sys2Proof/Machine/Flags.lean ====
section
/-! DEFINITION. The decisions the spec gives as tables: error score and fault state (R20, R22), good rounds and sync state (R52, R53), the trimmed midpoint (R57), the slew and trim arithmetic (R58), the next boundary (R60), and the repeat arithmetic (R110). -/

namespace Sys2Proof.Machine

/-! ## Fault confinement -/

/-- Whether the score counts in this fault state (R20, R21). -/
def FaultState.counts : FaultState → Bool
  | .active | .guarded => true
  | .silenced | .barred => false

/-- The error score after an error report (R20). -/
def scoreAfterError (state : FaultState) (role : Role) (score : Nat) : Nat :=
  if state.counts then
    match role with
    | .sender => min 255 (score + 8)
    | .receiver => if score < 191 then score + 1 else score
  else score

/-- The error score after an acceptance (R21). -/
def scoreAfterAcceptance (state : FaultState) (score : Nat) : Nat :=
  if state.counts then score - 1 else score

/-- The fault state a score gives (R22). -/
def faultStateFor (state : FaultState) (score : Nat) : FaultState :=
  match state with
  | .active => if score < 96 then .active else .guarded
  | .guarded => if score < 96 then .active else if score < 192 then .guarded else .silenced
  | .silenced => .silenced
  | .barred => .barred

/-- Whether the station may begin frames and drive the ack slot in this fault state (R23). -/
def FaultState.mayDrive : FaultState → Bool
  | .active | .guarded => true
  | .silenced | .barred => false

/-! ## Agreement -/

/-- A good round: the correction within the lock bound, and the quorum met (R52). -/
def goodRound (config : StationConfig) (fresh : Nat) (correction : Int) : Bool :=
  decide (correction.natAbs ≤ config.lockBound ∧ config.quorum ≤ fresh)

/-- Whether a correction is greater than the step threshold (R53, R58). -/
def overThreshold (config : StationConfig) (correction : Int) : Bool :=
  decide (16 * config.threshold < correction.natAbs)

/-- Sync state and good-round count after a round (R53): the first row that holds. -/
def syncAfterRound (config : StationConfig) (before : SyncState) (good fresh : Nat) (correction : Int) :
    SyncState × Nat :=
  if fresh = 0 then (.alone, 0)
  else
    match before with
    | .nosync => (.nosync, 0)
    | .alone => (.seeking, 0)
    | .seeking =>
      if goodRound config fresh correction then
        if 3 ≤ good + 1 then (.locked, 0) else (.seeking, good + 1)
      else (.seeking, 0)
    | .locked => if goodRound config fresh correction then (.locked, 0) else (.adrift, 0)
    | .adrift =>
      if overThreshold config correction then (.seeking, 0)
      else if goodRound config fresh correction then
        if 3 ≤ good + 1 then (.locked, 0) else (.adrift, good + 1)
      else (.adrift, 0)

/-- How many of the largest and of the smallest of n values are set aside (R57). -/
def trimCount (n : Nat) : Nat := if n ≤ 3 then 0 else if n ≤ 9 then 1 else 2

/-- The values left after the k largest and k smallest are removed, in rising order (R57). -/
def trimmed (values : List Int) : List Int :=
  let k := trimCount values.length
  ((values.insertionSort (· ≤ ·)).drop k).take (values.length - 2 * k)

/-- The trimmed midpoint: half the sum of the largest and the smallest value left, rounded toward zero (R57). -/
def midpoint (values : List Int) : Int :=
  let left := trimmed values
  match left.head?, left.getLast? with
  | some least, some greatest => (least + greatest).tdiv 2
  | _, _ => 0

/-- The slew that removes a correction over one beat interval, clamped (R58). -/
def slewFor (interval : Nat) (correction : Int) : Int :=
  max (-8000) (min 8000 ((correction * 1000000).tdiv interval))

/-- Trim and residue after a slew is added to the residue: one ppm for every 128 sixteenths, held at ±200 ppm (R58). -/
def trimAfter (trim residue slew : Int) : Int × Int :=
  let gathered := residue + slew
  let moved := trim + gathered.tdiv 128
  if 200 < moved then (200, 0)
  else if moved < -200 then (-200, 0)
  else (moved, gathered.tmod 128)

/-- The first multiple of the interval after a reference point, counted again from 0 at the wrap (R60). -/
def nextMultiple (interval : Nat) (reference : Micros) : Micros :=
  let m := (reference.toNat / interval + 1) * interval
  if m < 2 ^ 32 then BitVec.ofNat 32 m else 0

/-- The boundary after a round: the reference point is the later of this round's boundary and bus time after its step (R60). -/
def nextBoundary (interval : Nat) (boundary : Micros) (change : Int) : Micros :=
  nextMultiple interval (movedBy boundary (max 0 change))

/-! ## Repeats -/

/-- The occurrences passed with lateness L at period P (R110, 1). -/
def occurrencesPassed (lateness period : Nat) : Nat := lateness / period + 1

/-- The number of occurrences, of those passed, that the cue still had (R110, 3). -/
def occurrencesCounted (rpt : Repeat) (passed : Nat) : Nat :=
  if rpt.count ≠ 0 ∧ rpt.count < passed then rpt.count else passed

/-- The occurrences that were not made, which MISSED carries (R110). -/
def occurrencesMissed (rpt : Option Repeat) (lateness : Nat) (fired : Bool) : Nat :=
  match rpt with
  | none => if fired then 0 else 1
  | some r =>
    let c := occurrencesCounted r (occurrencesPassed lateness r.period)
    if fired then c - 1 else c

/-- The due time and repeat with which an entry re-enters, or none if it ends (R110, 1 and 2). -/
def nextOccurrence (rpt : Option Repeat) (due : Micros) (lateness : Nat) : Option (Micros × Repeat) :=
  match rpt with
  | none => none
  | some r =>
    let k := occurrencesPassed lateness r.period
    if r.count = 0 then some (laterBy due (k * r.period), r)
    else if r.count ≤ k then none
    else some (laterBy due (k * r.period), { r with count := r.count - k })

end Sys2Proof.Machine
end

