-- ==== Sys2Proof/Machine/Faults.lean ====
section
/-! DEFINITION. The fault confinement unit (02): error reports, acceptances, recovery from SILENCED, id clash. -/

namespace Sys2Proof.Machine

/-- The fault state changes: FAULT_STATE is posted (R22), and a hold-off ends (R24). -/
def State.changeFault (new : FaultState) (s : State) : State :=
  if s.fcu.state = new then s
  else
    ((s.setFcu { s.fcu with state := new }).setLiu { s.liu with holdOff := false }).post
      (.faultState s.fcu.state new)

/-- Entry to SILENCED: no idle spans, no run, and the recovery time one beat interval ahead (R25, R26). -/
def State.armRecovery (s : State) : State :=
  s.setFcu
    { s.fcu with
      spans := 0, run := 0, owed := 0, recovery := some (laterBy s.micros s.beatMicros), timeReached := false }

/-- A new score, and the fault state it gives (R22, R25). -/
def State.scoreTo (score : Nat) (s : State) : State :=
  let new := faultStateFor s.fcu.state score
  let scored := s.setFcu { s.fcu with score := score }
  if s.fcu.state ≠ .silenced ∧ new = .silenced then (scored.armRecovery).changeFault new
  else scored.changeFault new

/-! ## The run of recessive bits -/

/-- The run of recessive bits after bits sampled: a dominant bit sets it to 0, and at 12 it starts again from 0 (R26). -/
def runAfter (run : Nat) (bits : List Bool) : Nat :=
  bits.foldl (fun run recessive => if recessive then (run + 1) % 12 else 0) run

/-- The idle spans that bits sampled complete, from a run on (R26). -/
def spansIn (run : Nat) : List Bool → Nat
  | [] => 0
  | true :: rest => (if (run + 1) % 12 = 0 then 1 else 0) + spansIn ((run + 1) % 12) rest
  | false :: rest => spansIn 0 rest

/-- While SILENCED the FCU takes the bits that a row reports into its run. The spans they complete have rows of their own, IDLE_SPAN, of which some may have come before (R26, assumption 38). -/
def State.sampled (bits : List Bool) (s : State) : State :=
  if s.fcu.state = .silenced then
    s.setFcu
      { s.fcu with run := runAfter s.fcu.run bits, owed := max 0 (s.fcu.owed + spansIn s.fcu.run bits) }
  else s

/-- The IDLE_SPAN rows that bits sampled from the run on bring (R26). -/
def State.spanRows (bits : List Bool) (s : State) : List Instr :=
  if s.fcu.state = .silenced ∧ s.liu.state ≠ .stopped then List.replicate (spansIn s.fcu.run bits) .idleSpan else []

/-! ## Reports of the LIU -/

/-- The LIU reports an error in the last of the bits it has sampled (R20, R26). -/
def State.reportError (role : Role) (sampled : List Bool) (s : State) : State :=
  (s.sampled sampled).scoreTo (scoreAfterError s.fcu.state role s.fcu.score)

/-- The LIU reports an acceptance (R21). -/
def State.reportAcceptance (s : State) : State :=
  s.scoreTo (scoreAfterAcceptance s.fcu.state s.fcu.score)

/-! ## Recovery -/

/-- The FCU notes whether its recovery time has been reached (R27). -/
def State.noteRecovery (timeReached : Bool) (s : State) : State := s.setFcu { s.fcu with timeReached := timeReached }

/-- A SILENCED station returns to ACTIVE when 64 spans are counted and the recovery time has been reached (R27). -/
def State.tryRecover (timeReached : Bool) (s : State) : State :=
  if s.fcu.state = .silenced ∧ s.fcu.spans = 64 ∧ timeReached then
    (s.setFcu
      { s.fcu with score := 0, spans := 0, run := 0, owed := 0, recovery := none, timeReached := false }).changeFault
      .active
  else s

/-- An event by which the recovery time is reached, or is not: R27 is applied. -/
def State.recoverBy (timeReached : Bool) (s : State) : State :=
  let reached := s.fcu.timeReached || timeReached
  (s.noteRecovery reached).tryRecover reached

/-- Idle spans counted while SILENCED, up to 64; the 64th returns the station if the recovery time has been reached (R26, R27). -/
def State.countSpans (spans : Nat) (timeReached : Bool) (s : State) : State :=
  let counted := s.setFcu { s.fcu with spans := min 64 (s.fcu.spans + spans) }
  if s.fcu.spans < 64 then counted.tryRecover timeReached else counted

/-- A row to come reports the bits that the LIU samples now: those of a frame, of an error delimiter or of an interframe space. -/
def LiuState.reports : LiuState → Bool
  | .receiving | .delimiting _ | .spacing => true
  | _ => false

/-- The run as IDLE_SPAN finds it: a span that the bits reported have completed, or that comes before the row of its bits, leaves the run to that row; elsewhere the run comes to 12 with it and starts again (R26, assumption 38). -/
def FcuState.spanTaken (reports : Bool) (f : FcuState) : FcuState :=
  if 0 < f.owed ∨ reports then { f with owed := f.owed - 1 } else { f with run := 0 }

/-- IDLE_SPAN: one idle span counted while SILENCED (R26, R27). -/
def State.countSpan (s : State) : State :=
  if s.fcu.state = .silenced ∧ s.liu.state ≠ .stopped then
    (s.setFcu (s.fcu.spanTaken s.liu.state.reports)).countSpans 1 s.recoveryReached
  else s

/-- Bits sampled have completed idle spans whose IDLE_SPAN has not come (R26, assumption 38). -/
def State.owesSpans (s : State) : Bool := decide (s.fcu.state = .silenced ∧ 0 < s.fcu.owed)

/-- Such spans counted, before time passes (R26, assumption 38). -/
def State.settleSpans (s : State) : State :=
  if s.owesSpans then (s.setFcu { s.fcu with owed := 0 }).countSpans s.fcu.owed.toNat s.recoveryReached else s

/-- While SILENCED the FCU counts the bits of an idle line, and the spans they complete, as time passes (R26). A recovery time that comes while time passes is its expiry's (R27). -/
def State.countIdle (bits : Nat) (s : State) : State :=
  if s.fcu.state = .silenced ∧ 0 < bits then
    (s.setFcu { s.fcu with run := (s.fcu.run + bits) % 12 }).countSpans ((s.fcu.run + bits) / 12) s.fcu.timeReached
  else s

/-- Of n reference cycles of an idle line, those up to the span that returns the station; n where none does (R26, R27). -/
def State.untilReturn (n : Nat) (s : State) : Nat :=
  if s.fcu.state = .silenced ∧ s.liu.state = .idle ∧ s.fcu.timeReached ∧ s.fcu.spans < 64 then
    min n (s.liu.timing.cyclesUntil s.liu.settings (12 * (64 - s.fcu.spans) - s.fcu.run))
  else n

/-- An id clash: ID_CLASH is posted, and a station not yet BARRED enters BARRED with its score kept (R28). -/
def State.idClash (s : State) : State :=
  let noticed := s.post (.peer .idClash s.stc.config.id)
  if s.fcu.state = .barred then noticed
  else
    (noticed.setFcu
      { noticed.fcu with spans := 0, run := 0, owed := 0, recovery := none, timeReached := false }).changeFault .barred

/-- The FCU takes the word of a step: R27 is applied if the recovery time is now reached (R39). -/
def State.reexamineFcu (old : Micros) (change : Int) (s : State) : State :=
  s.recoverBy (s.fcu.recovery.any fun t => decide (distanceAfter t old change ≤ 0))

/-- RESTART at the FCU (R30). -/
def FcuState.restarted : FcuState :=
  { score := 0, state := .active, spans := 0, run := 0, owed := 0, recovery := none, timeReached := false }

end Sys2Proof.Machine
end

