-- ==== Sys2Proof/Machine/Lines.lean ====
section
/-! DEFINITION. The cue line unit (08): actions, pulses, guarded lines and the steps of bus time. -/

namespace Sys2Proof.Machine

/-- A pulse ends: the line is deasserted and its pulse absent (R124). -/
def Line.endPulse (l : Line) : Line := { l with level := false, pulse := none }

/-- A line taken to its safe level, any pulse cancelled (R126, R130). -/
def Line.toSafe (l : Line) : Line := { l with level := l.safe, pulse := none }

/-- A line's pulse end has been reached and its pulse-end event not been taken (R125). -/
def Line.endsNow (now : Micros) (l : Line) : Bool := l.pulse.any fun stop => reached stop now

/-- An action taken while the pulse end has been reached first ends that pulse (R125). -/
def Line.settled (now : Micros) (l : Line) : Line := if l.endsNow now then l.endPulse else l

/-- An action applied to a line that may act (R122, R123). -/
def Line.apply (now : Micros) (action : Action) (width : Option (BitVec 16)) (l : Line) : Line × LineResult :=
  match action with
  | .set => ({ l with level := true, pulse := none }, .applied)
  | .clear => ({ l with level := false, pulse := none }, .applied)
  | .toggle =>
    match l.pulse with
    | some _ => ({ l with level := false, pulse := none }, .applied)
    | none => ({ l with level := !l.level }, .applied)
  | .pulse =>
    match l.pulse with
    | some _ => (l, .overlap)
    | none => ({ l with level := true, pulse := some (laterBy now ((width.map BitVec.toNat).getD 0)) }, .applied)
  | .note => (l, .applied)

/-- Whether a line's actions are suppressed: it is guarded, and the sync state as told is not LOCKED (R121). -/
def Line.mayNotAct (told : SyncState) (l : Line) : Bool := l.guarded && decide (told ≠ .locked)

/-- An action handed to a line: suppressed on a guarded line outside LOCKED, applied otherwise (R121, R125). -/
def Line.act (told : SyncState) (now : Micros) (action : Action) (width : Option (BitVec 16)) (l : Line) :
    Line × LineResult :=
  if l.mayNotAct told then (l, .suppressed) else (l.settled now).apply now action width

/-- An action of this kind ends a pulse whose end has been reached before its pulse-end event (R125). -/
def Line.spendsEnd (told : SyncState) (now : Micros) (l : Line) : Bool := !l.mayNotAct told && l.endsNow now

/-- An expiry of this reference cycle has nothing left to do: what it would have ended is ended (R125, R134, assumption 36). -/
def State.spend (cond : Bool) (c : Instr) (s : State) : State :=
  if cond then s.setSpent (c :: s.spent) else s

/-- The CSU hands an action to a line (R107, R121); where it ends a reached pulse, the line's pulse-end event does nothing (R125). -/
def State.actOnLine (line : Fin 8) (action : Action) (width : Option (BitVec 16)) (s : State) :
    State × LineResult :=
  let r := s.clu.lines[line].act s.clu.told s.micros action width
  ((s.setClu { s.clu with lines := s.clu.lines.set line r.1 }).spend
      (s.clu.lines[line].spendsEnd s.clu.told s.micros) (.pulseEnd line),
    r.2)

/-- A guarded line is taken to its safe level when the station leaves LOCKED (R126). -/
def Line.unlocked (l : Line) : Line := if l.guarded then l.toSafe else l

/-- The CLU is told the sync state (R126, R127). -/
def CluState.tell (sync : SyncState) (c : CluState) : CluState :=
  { c with
    lines := if c.told = .locked ∧ sync ≠ .locked then mapVector Line.unlocked c.lines else c.lines
    told := sync }

/-- The AGU tells the CLU the sync state (R54). -/
def State.tellClu (sync : SyncState) (s : State) : State := s.setClu (s.clu.tell sync)

/-- A pulse end moved by a step's µs change (R38, R128). -/
def Line.moved (change : Int) (l : Line) : Line := { l with pulse := l.pulse.map fun t => movedBy t change }

/-- The pulse-end event of a line (R124); with no armed end it does nothing (R125). -/
def State.endPulse (line : Fin 8) (s : State) : State :=
  match s.clu.lines[line].pulse with
  | some _ => s.setClu { s.clu with lines := s.clu.lines.set line s.clu.lines[line].endPulse }
  | none => s

/-- SET_LINE taken: new polarity, guarded flag and safe level, and the level at the new safe level (R129, R130). -/
def State.configureLine (line : Fin 8) (a : LineArgs) (s : State) : State :=
  s.setClu
    { s.clu with
      lines := s.clu.lines.set line
        { level := a.safe, pulse := none, lowTrue := a.lowTrue, guarded := a.guarded, safe := a.safe } }

/-- RESTART at the CLU: every line at its safe level, pulses cancelled, the sync state as told NONE (R130). -/
def CluState.restarted (c : CluState) : CluState :=
  { c with lines := mapVector Line.toSafe c.lines, told := .nosync }

end Sys2Proof.Machine
end

