-- ==== Sys2Proof/Machine/Operands.lean ====
section
/-! DEFINITION. Operand forms: the codes of R159 and the ranges of R143, R69, R101, R137, R153 against which a command's arguments are checked. Each function answers none for a value out of range. -/

namespace Sys2Proof.Machine

/-! ## Codes -/

/-- An action from its code (R159). -/
def actionOfCode : Nat → Option Action
  | 0 => some .set
  | 1 => some .clear
  | 2 => some .toggle
  | 3 => some .pulse
  | 4 => some .note
  | _ => none

/-- The code of an action (R159). -/
def Action.code : Action → Nat
  | .set => 0
  | .clear => 1
  | .toggle => 2
  | .pulse => 3
  | .note => 4

/-- A bit rate from its code (R159). -/
def bitRateOfCode : Nat → Option BitRate
  | 0 => some .k125
  | 1 => some .k250
  | 2 => some .k500
  | 3 => some .k1000
  | _ => none

/-- A line or NONE from its code (R159). -/
def targetOfByte (b : Byte) : Option Target :=
  if b = 0xFF then some none
  else if h : b.toNat < 8 then some (some ⟨b.toNat, h⟩)
  else none

/-- The code of a line or NONE (R159). -/
def targetByte : Target → Byte
  | none => 0xFF
  | some line => BitVec.ofNat 8 line.val

/-- An edge select from its code (R159); every code of 2 bits is assigned. -/
def selectOfCode (c : BitVec 2) : EdgeSelect :=
  match c.toNat with
  | 0 => .off
  | 1 => .rising
  | 2 => .falling
  | _ => .either

/-- A reaction's edge from its code; 0 is not assigned (R159). -/
def edgeMatchOfCode (c : BitVec 2) : Option EdgeMatch :=
  match c.toNat with
  | 1 => some .rising
  | 2 => some .falling
  | 3 => some .either
  | _ => none

/-- A station id 1 … 126 (00_scope.md, Identities). -/
def stationOfNat (n : Nat) : Option StationId :=
  if 1 ≤ n ∧ n ≤ 126 then some (BitVec.ofNat 7 n) else none

/-- An index below a bound. -/
def indexOf (bound : Nat) (b : Byte) : Option (Fin bound) :=
  if h : b.toNat < bound then some ⟨b.toNat, h⟩ else none

/-- A value within a range, both ends included. -/
def within (least greatest n : Nat) : Option Nat :=
  if least ≤ n ∧ n ≤ greatest then some n else none

/-! ## Configuration commands -/

/-- SET_STATION's values in the ranges of R143. -/
def configOf (a : StationArgs) : Option StationConfig := do
  let id ← stationOfNat a.id.toNat
  let bitRate ← bitRateOfCode a.bitRate.toNat
  let samplePoint ← within 10 14 a.samplePoint.toNat
  let jump ← within 1 4 a.jump.toNat
  let beatMs ← within 10 1000 a.beatMs.toNat
  let threshold ← within 1 65535 a.threshold.toNat
  let lockBound ← within 1 255 a.lockBound.toNat
  let quorum ← within 0 31 a.quorum.toNat
  let sendMargin ← within 100 65535 a.sendMargin.toNat
  let urgencyStep ← within 100 65535 a.urgencyStep.toNat
  let markMs ← within 1 1000 a.markMs.toNat
  some
    { id := id, bitRate := bitRate, samplePoint := samplePoint, jump := jump, beatMs := beatMs
      threshold := threshold, lockBound := lockBound, quorum := quorum
      lateWindow := a.lateWindow.toNat, sendMargin := sendMargin, urgencyStep := urgencyStep
      markMs := markMs }

/-- SET_SUBSCRIPTION's entry and values in the ranges of R94. -/
def subscriptionOf (a : SubscriptionArgs) : Option (Fin 16 × Subscription) := do
  let entry ← indexOf 16 a.entry
  let target ← targetOfByte a.target
  some (entry, { enabled := a.enabled, code := a.code, mask := a.mask, target := target, notify := a.notify })

/-- A pulse width: present and at least 1 µs when the action is PULSE, absent otherwise (R69, R137, R144). -/
def widthFor (action : Action) (width : BitVec 16) : Option (Option (BitVec 16)) :=
  match action with
  | .pulse => if width = 0 then none else some (some width)
  | _ => some none

/-- A reaction's source station: 0 or 1 … 126 (R137). -/
def sourceOfNat (n : Nat) : Option StationId :=
  if n ≤ 126 then some (BitVec.ofNat 7 n) else none

/-- SET_REACTION's entry and values in the ranges of R137. -/
def reactionOf (a : ReactionArgs) : Option (Fin 8 × Reaction) := do
  let entry ← indexOf 8 a.entry
  let source ← sourceOfNat a.source.toNat
  let input ← indexOf 4 a.input
  let edge ← edgeMatchOfCode a.edge
  let offset ← within 0 1048575 a.offset.toNat
  let action ← actionOfCode a.action.toNat
  let target ← targetOfByte a.target
  let width ← widthFor action a.width
  some
    (entry,
      { enabled := a.enabled, source := source, input := input, edge := edge, offset := offset
        action := action, target := target, width := width, notify := a.notify })

/-! ## Posts -/

/-- The due time of a post: the due value, or bus time at the taking plus it (R152). -/
def dueOf (a : CueArgs) (now : Micros) : Micros := if a.lead then now + a.due else a.due

/-- The repeat of a post: absent, or a period of at least 1 µs and a count (R69, R152). -/
def repeatOf (a : CueArgs) : Option (Option Repeat) :=
  if a.repeatPresent then
    if a.period = 0 then none else some (some { period := a.period.toNat, count := a.count.toNat })
  else some none

/-- POST_CUE's fields in the ranges of R69 and R101, its due time fixed at the taking (R152). -/
def cueOf (a : CueArgs) (now : Micros) : Option CueContent := do
  let number ← within 0 3967 a.cue.toNat
  let action ← actionOfCode a.action.toNat
  let width ← widthFor action a.width
  let rpt ← repeatOf a
  some
    { number := BitVec.ofNat 12 number, action := action, topic := a.topic, due := dueOf a now
      width := width, rpt := rpt }

/-- POST_RECALL's fields in the ranges of R153. -/
def recallOf : RecallArgs → Option Recall
  | .byKey origin cue => do
    let origin ← stationOfNat origin.toNat
    let number ← within 0 4095 cue.toNat
    some (.byKey { origin := origin, number := BitVec.ofNat 12 number })
  | .byTopic code mask => some (.byTopic code mask)

/-- A topic taken with a mask equals a code taken with the same mask (R70, R95, R111). -/
def topicMatches (topic code mask : Topic) : Bool := decide (topic &&& mask = code &&& mask)

end Sys2Proof.Machine
end

