-- ==== Sys2Proof/Machine/Schedule.lean ====
section
/-! DEFINITION. The cue schedule unit (07): schedule order, arrivals, expiry and firing, repeats, recalls and step handling. -/

namespace Sys2Proof.Machine

/-! ## Order -/

/-- How far ahead of bus time the CSU measures a due time (R99). While the word of a forward step waits, a due time that the step carried bus time past lies behind it (R39, R114). Every due time held lies at most 2^31 µs behind then, and at most 2^30 + 2^31 µs ahead while the word of a backward step waits, so both readings are exact. -/
def CsuState.ahead (c : CsuState) (now due : Micros) : Int :=
  match c.word with
  | some .forward => (due - now).toInt
  | some .backward | none => distance due now

/-- Schedule order: the nearer due time first, then the lower origin, then the lower cue number (R99). -/
def before (ahead : Micros → Int) (a b : Entry) : Bool :=
  if ahead a.due ≠ ahead b.due then decide (ahead a.due < ahead b.due)
  else if a.key.origin ≠ b.key.origin then decide (a.key.origin < b.key.origin)
  else decide (a.key.number < b.key.number)

/-- An entry inserted at the position schedule order gives it (R106). -/
def insertEntry (ahead : Micros → Int) (e : Entry) : List Entry → List Entry
  | [] => [e]
  | x :: rest => if before ahead e x then e :: x :: rest else x :: insertEntry ahead e rest

/-- The CSU's measure of due times now. -/
def State.aheadNow (s : State) : Micros → Int := s.csu.ahead s.micros

/-- The entry with a key, if one is held. -/
def State.entryFor (key : CueKey) (s : State) : Option Entry := s.csu.schedule.find? fun e => e.key = key

/-- The schedule with other entries. -/
def State.setSchedule (schedule : List Entry) (s : State) : State := s.setCsu { s.csu with schedule := schedule }

/-- An entry put at its position (R106, R110). -/
def State.insert (e : Entry) (s : State) : State := s.setSchedule (insertEntry s.aheadNow e s.csu.schedule)

/-- The entry with a key removed. -/
def State.removeKey (key : CueKey) (s : State) : State :=
  s.setSchedule (s.csu.schedule.filter fun e => e.key ≠ key)

/-- A schedule notice about an entry (R117). -/
def Entry.notice (kind : ScheduleNotice) (skipped : Nat) (e : Entry) : NoticeBody :=
  .schedule kind e.key e.target skipped

/-! ## Firing -/

/-- The entry's action handed to its line; NOTE and target NONE are handed to no line and count as APPLIED (R107). -/
def State.handOver (e : Entry) (s : State) : State × LineResult :=
  match e.action, e.target with
  | .note, _ => (s, .applied)
  | _, none => (s, .applied)
  | action, some line => s.actOnLine line action e.width

/-- The notice of a firing, if one is posted (R108). -/
def firingNotice (late : Bool) (notify : Bool) : LineResult → Option ScheduleNotice
  | .applied => if late then some .firedLate else if notify then some .fired else none
  | .suppressed => some .suppressed
  | .overlap => some .overlap

/-- A firing, on time or late: the line action, the notice, and the entry with its late flag set accordingly (R107, R108). -/
def State.fire (late : Bool) (e : Entry) (s : State) : State × Entry :=
  let handed := s.handOver e
  ((match firingNotice late e.notify handed.2 with
    | some kind => handed.1.post (e.notice kind 0)
    | none => handed.1),
    { e with late := late })

/-- MISSED for the occurrences not made (R110, 3). -/
def State.postMissed (e : Entry) (missed : Nat) (s : State) : State :=
  s.postIf (decide (1 ≤ missed)) (e.notice .missed (min 65535 missed))

/-- An entry as it re-enters, if it does (R110, 4). -/
def Entry.reentry (lateness : Nat) (e : Entry) : Option Entry :=
  (nextOccurrence e.rpt e.due lateness).map fun n => { e with due := n.1, rpt := some n.2 }

/-- The occurrence of an entry due lateness µs ago, fired late within the late window and not made beyond it, with its MISSED notice; and the entry's re-entry (R103, R114). -/
def State.lateOccurrence (e : Entry) (lateness : Nat) (s : State) : State × Option Entry :=
  if lateness ≤ s.stc.config.lateWindow then
    let fired := s.fire true e
    (fired.1.postMissed e (occurrencesMissed e.rpt lateness true), fired.2.reentry lateness)
  else (s.postMissed e (occurrencesMissed e.rpt lateness false), e.reentry lateness)

/-- An expiry of the first entry (R109). -/
def State.expireFirst (s : State) : State :=
  match s.csu.schedule with
  | [] => s
  | e :: rest =>
    let fired := (s.setSchedule rest).fire false e
    let told := fired.1.postMissed e (occurrencesMissed e.rpt 0 true)
    match fired.2.reentry 0 with
    | some again => told.insert again
    | none => told

/-! ## Steps -/

/-- Whether a step has carried bus time onto a due time or past it: its distance after the step is 0 or below (R114). -/
def Entry.isReached (now : Micros) (e : Entry) : Bool := decide ((e.due - now).toInt ≤ 0)

/-- One entry that a forward step reached; its lateness is the negative of its distance after the step (R114). -/
def State.takeReached (s : State) (e : Entry) : State :=
  let done := s.lateOccurrence e (distance s.micros e.due)
  match done.2 with
  | some again => done.1.insert again
  | none => done.1

/-- Step handling after a forward step: every entry reached is taken, in schedule order (R114). -/
def State.forwardSchedule (s : State) : State :=
  (s.csu.schedule.filter (Entry.isReached s.micros)).foldl State.takeReached
    (s.setSchedule (s.csu.schedule.filter fun e => !e.isReached s.micros))

/-- Whether a backward step has carried an entry beyond the horizon (R115). -/
def Entry.isBeyond (now : Micros) (e : Entry) : Bool := decide (Config.horizon < distance e.due now)

/-- Step handling after a backward step: every entry carried beyond the horizon is removed with OUT_OF_RANGE (R115). -/
def State.backwardSchedule (s : State) : State :=
  (s.csu.schedule.filter (Entry.isBeyond s.micros)).foldl (fun s e => s.post (e.notice .outOfRange 0))
    (s.setSchedule (s.csu.schedule.filter fun e => !e.isBeyond s.micros))

/-- The CSU holds another word of a step, or none. -/
def State.setWord (w : Option StepWord) (s : State) : State := s.setCsu { s.csu with word := w }

/-- The CSU takes the word of a step that waits for it, and makes its step handling (R39, R114, R115). -/
def State.takeWord (s : State) : State :=
  match s.csu.word with
  | none => s
  | some .forward => (s.setWord none).forwardSchedule
  | some .backward => (s.setWord none).backwardSchedule

/-- An arrival or a recall meets the word of a step in one instant: the CSU takes either first (R116, assumption 5). -/
def State.meetWord (s : State) : State :=
  match s.csu.word with
  | none => s
  | some _ => if Config.wordFirst s.draws then s.drawn.takeWord else s.drawn

/-! ## Arrivals -/

/-- What room there is for an arrival (R105). -/
inductive Room where
  | free
  | evicting (last : Entry)
  | none
  deriving DecidableEq, Repr

/-- Room in the schedule for an arrival (R105). -/
def State.roomFor (e : Entry) (s : State) : Room :=
  if s.csu.schedule.length < 32 then .free
  else
    match s.csu.schedule.getLast? with
    | some last => if before s.aheadNow e last then .evicting last else .none
    | Option.none => .free

/-- Room and insertion of an arrival or of the re-entry of one: EVICTED or DROPPED where the schedule is full (R105, R106). -/
def State.place (e : Entry) (s : State) : State :=
  match s.roomFor e with
  | .free => s.insert e
  | .evicting last => ((s.setSchedule s.csu.schedule.dropLast).post (last.notice .evicted 0)).insert e
  | .none => s.post (e.notice .dropped 0)

/-- An arrival whose due time has been reached: it supersedes an entry of its key, and its occurrence is fired late or not made (R103). -/
def State.arrivePast (e : Entry) (s : State) : State :=
  let superseded :=
    match s.entryFor e.key with
    | some old => (s.removeKey e.key).postIf (old.notify || e.notify) (e.notice .revised 0)
    | none => s
  let done := superseded.lateOccurrence e (distance s.micros e.due)
  match done.2 with
  | some again => done.1.place again
  | none => done.1

/-- Two entries agree in every field but the late flag (R104). -/
def sameCue (a b : Entry) : Bool := decide ({ a with late := false } = { b with late := false })

/-- An arrival that revises the entry of its key, or is dropped as identical to it (R104). -/
def State.revise (old e : Entry) (s : State) : State :=
  if sameCue old e then s
  else ((s.removeKey e.key).insert { e with late := false }).postIf (old.notify || e.notify) (e.notice .revised 0)

/-- How an arrival's due time stands (R102, R103). -/
inductive DueTime where
  | beyond
  | past
  | ahead
  deriving DecidableEq, Repr

/-- An arrival's due time against bus time: beyond the horizon, reached, or ahead within it (R102, R103). -/
def State.dueTime (due : Micros) (s : State) : DueTime :=
  if reached due s.micros then .past
  else if Config.horizon < distance due s.micros then .beyond
  else .ahead

/-- The five steps of an arrival from the bus or a reaction: range, past due, revision, room and insertion (R102 to R106). -/
def State.decideArrival (e : Entry) (s : State) : State :=
  match s.dueTime e.due with
  | .beyond => s.post (e.notice .outOfRange 0)
  | .past => s.arrivePast e
  | .ahead =>
    match s.entryFor e.key with
    | some old => s.revise old e
    | none => s.place e

/-- A cue arrival from the bus or a reaction (R100, R116). -/
def State.arrive (e : Entry) (s : State) : State := s.meetWord.decideArrival e

/-- The five steps of a LOCAL post's arrival and its reply status (R101): refused where a bus arrival would be discarded or dropped. -/
def State.decideLocal (e : Entry) (s : State) : State × Status :=
  match s.dueTime e.due with
  | .beyond => (s, .refusedRange)
  | .past => (s, .refusedRange)
  | .ahead =>
    match s.entryFor e.key with
    | some old => (s.revise old e, .ok)
    | none => if s.roomFor e = .none then (s, .refusedFull) else (s.place e, .ok)

/-- A LOCAL post's arrival (R101, R116). -/
def State.arriveLocal (e : Entry) (s : State) : State × Status := s.meetWord.decideLocal e

/-! ## Recall -/

/-- Whether a recall names an entry (R111). -/
def Recall.names (r : Recall) (e : Entry) : Bool :=
  match r with
  | .byKey key => decide (e.key = key)
  | .byTopic code mask =>
    decide (e.source = .bus) &&
      match e.topic with
      | some topic => topicMatches topic code mask
      | none => false

/-- The entries a recall names are removed, in schedule order, with RECALLED where they notify (R111). -/
def State.removeNamed (r : Recall) (s : State) : State :=
  let kept := s.setSchedule (s.csu.schedule.filter fun e => !r.names e)
  (s.csu.schedule.filter r.names).foldl (fun s e => s.postIf e.notify (e.notice .recalled 0)) kept

/-- A recall applied to the schedule (R111, R112, R116). -/
def State.recallEntries (r : Recall) (s : State) : State := s.meetWord.removeNamed r

/-- RESTART and pin reset at the CSU: the schedule empty, and no word of a step (R116, R119). -/
def CsuState.restarted : CsuState := { schedule := [], word := none }

end Sys2Proof.Machine
end

