-- ==== Sys2Proof/Machine/Layout.lean ====
section
/-! DEFINITION. The layouts of R159 that the part writes or reads: frame payloads, with the validity checks of R89 and R90, status byte, reply bodies and notice records. -/

namespace Sys2Proof.Machine

/-! ## Frame payloads -/

/-- What a well-formed frame carries (R17, R18). -/
inductive Content where
  | beatContent (stamp : BusTime) (interval : Nat) (sync : SyncState) (fresh : Nat) (sequence : Byte)
  | recallContent (what : Recall)
  | markContent (mark : MarkContent)
  | cueContent (cue : CueContent)
  deriving DecidableEq, Repr

/-- The 2-bit sync-state code of a BEAT (R159). NONE is never sent: a BEAT is built in JOINED (R62). -/
def SyncState.beatCode : SyncState → Nat
  | .nosync | .alone => 0
  | .seeking => 1
  | .locked => 2
  | .adrift => 3

/-- The sync state of a BEAT's code (R159). -/
def syncOfBeatCode : Nat → SyncState
  | 0 => .alone
  | 1 => .seeking
  | 2 => .locked
  | _ => .adrift

/-- The edge code of a MARK payload and of a notice (R159). -/
def edgeCode : Edge → Nat
  | .rising => 0
  | .falling => 1

/-- The pulse width and repeat parts of a CUE payload (R18). -/
def cueTail (c : CueContent) : List Byte :=
  (match c.width with
    | some w => bytesBe 2 w.toNat
    | none => [])
  ++ (match c.rpt with
    | some r => bytesBe 3 r.period ++ bytesBe 1 r.count
    | none => [])

/-- The payload bytes of a content; unused gives the values of the unused bits (R159, assumption 23). -/
def payloadBytes (unused : Nat) : Content → List Byte
  | .beatContent stamp interval sync fresh sequence =>
    bytesBe 6 (stamp.toNat * 4096 + interval * 4 + sync.beatCode)
      ++ [BitVec.ofNat 8 (fresh * 4 + unused % 4), sequence]
  | .recallContent (.byKey key) =>
    [0x01, BitVec.ofNat 8 (unused % 2 * 128 + key.origin.toNat)]
      ++ bytesBe 2 (unused / 2 % 16 * 4096 + key.number.toNat)
  | .recallContent (.byTopic code mask) =>
    [0x02] ++ bytesBe 2 code.toNat ++ bytesBe 2 mask.toNat
  | .markContent m =>
    [BitVec.ofNat 8 (unused % 32 * 8 + edgeCode m.edge * 4 + m.input.val), m.sequence]
      ++ bytesBe 5 (unused / 32 % 16 * 2 ^ 36 + m.capture.toNat)
  | .cueContent c =>
    bytesBe 2 (c.action.code * 8192 + (if c.rpt.isSome then 4096 else 0) + c.number.toNat)
      ++ bytesBe 2 c.topic.toNat ++ bytesBe 4 c.due.toNat ++ cueTail c

/-- The class a content is sent under (R5). -/
def Content.cls : Content → FrameClass
  | .beatContent _ _ _ _ _ => .beat
  | .recallContent _ => .recallFrame
  | .markContent _ => .mark
  | .cueContent _ => .cue

/-- A BEAT payload: length 8, interval 10 … 1000 ms, fresh-peer count 0 … 32; every sync-state code is assigned (R89, R90). -/
def parseBeat : List Byte → Option Content
  | [b0, b1, b2, b3, b4, b5, b6, b7] =>
    let v := natOfBytes [b0, b1, b2, b3, b4, b5]
    let interval := v / 4 % 1024
    let fresh := b6.toNat / 4
    if 10 ≤ interval ∧ interval ≤ 1000 ∧ fresh ≤ 32 then
      some (.beatContent (BitVec.ofNat 36 (v / 4096)) interval (syncOfBeatCode (v % 4)) fresh b7)
    else none
  | _ => none

/-- A RECALL payload, by key of length 4 or by topic of length 5 (R89, R90). -/
def parseRecall : List Byte → Option Content
  | [form, origin, c1, c0] =>
    if form = 0x01 then
      match stationOfNat (origin.toNat % 128) with
      | some id =>
        some (.recallContent (.byKey { origin := id, number := BitVec.ofNat 12 (natOfBytes [c1, c0]) }))
      | none => none
    else none
  | [form, c1, c0, m1, m0] =>
    if form = 0x02 then
      some (.recallContent (.byTopic (wordOfBytes 16 [c1, c0]) (wordOfBytes 16 [m1, m0])))
    else none
  | _ => none

/-- A MARK payload of length 7; every code of its input and edge bits is assigned (R89, R90). -/
def parseMark : List Byte → Option Content
  | [b0, sequence, t4, t3, t2, t1, t0] =>
    some (.markContent
      { input := ⟨b0.toNat % 4, by omega⟩
        edge := if b0.toNat / 4 % 2 = 0 then .rising else .falling
        sequence := sequence
        capture := BitVec.ofNat 36 (natOfBytes [t4, t3, t2, t1, t0]) })
  | _ => none

/-- The repeat part of a CUE payload: a period of at least 1 µs, and a count (R18, R90). -/
def parseRepeat : List Byte → Option Repeat
  | [p2, p1, p0, count] =>
    let period := natOfBytes [p2, p1, p0]
    if period = 0 then none else some { period := period, count := count.toNat }
  | _ => none

/-- The optional parts of a CUE payload, which its action and repeat flag call for: any other length is a mismatch (R18, R89). -/
def parseCueTail (action : Action) (repeating : Bool) (tail : List Byte) :
    Option (Option (BitVec 16) × Option Repeat) :=
  match action, repeating, tail with
  | .pulse, false, [w1, w0] =>
    if natOfBytes [w1, w0] = 0 then none else some (some (wordOfBytes 16 [w1, w0]), none)
  | .pulse, true, w1 :: w0 :: rest =>
    if natOfBytes [w1, w0] = 0 then none
    else
      match parseRepeat rest with
      | some r => some (some (wordOfBytes 16 [w1, w0]), some r)
      | none => none
  | .pulse, _, _ => none
  | _, false, [] => some (none, none)
  | _, true, rest =>
    match parseRepeat rest with
    | some r => some (none, some r)
    | none => none
  | _, false, _ => none

/-- A CUE payload (R18, R89, R90). -/
def parseCue : List Byte → Option Content
  | b0 :: b1 :: t1 :: t0 :: d3 :: d2 :: d1 :: d0 :: tail =>
    let head := natOfBytes [b0, b1]
    match actionOfCode (head / 8192) with
    | none => none
    | some action =>
      match parseCueTail action (decide (head / 4096 % 2 = 1)) tail with
      | none => none
      | some (width, rpt) =>
        if head % 4096 ≤ 3967 then
          some (.cueContent
            { number := BitVec.ofNat 12 head, action := action, topic := wordOfBytes 16 [t1, t0]
              due := wordOfBytes 32 [d3, d2, d1, d0], width := width, rpt := rpt })
        else none
  | _ => none

/-- The content of a frame, or none when the frame is MALFORMED (R89, R90). -/
def parseFrame (f : Frame) : Option Content :=
  match stationOfNat f.station.toNat with
  | none => none
  | some _ =>
    match f.cls with
    | .beat => parseBeat f.payload
    | .recallFrame => parseRecall f.payload
    | .mark => parseMark f.payload
    | .cue => parseCue f.payload

/-! ## Codes of replies and notices -/

/-- Sync state in port replies and notices (R159). -/
def SyncState.code : SyncState → Nat
  | .nosync => 0
  | .alone => 1
  | .seeking => 2
  | .locked => 3
  | .adrift => 4

/-- Fault state (R159). -/
def FaultState.code : FaultState → Nat
  | .active => 0
  | .guarded => 1
  | .silenced => 2
  | .barred => 3

/-- Station state (R159). -/
def StationState.code : StationState → Nat
  | .offline => 0
  | .listening => 1
  | .joined => 2

/-- Reply status (R159). -/
def Status.code : Status → Nat
  | .ok => 0
  | .done => 1
  | .pending => 2
  | .empty => 3
  | .refusedState => 4
  | .refusedFull => 5
  | .refusedRange => 6
  | .refusedKey => 7
  | .unknownTag => 8
  | .busy => 9
  | .configInvalid => 10
  | .badCommand => 11

/-- Source in READ_ENTRY (R159). -/
def CueSource.code : CueSource → Nat
  | .bus => 0
  | .localPort => 1
  | .reaction => 2

/-- Kind codes of the schedule notices (R159). -/
def ScheduleNotice.code : ScheduleNotice → Byte
  | .fired => 0x01
  | .firedLate => 0x02
  | .missed => 0x03
  | .suppressed => 0x04
  | .overlap => 0x05
  | .revised => 0x06
  | .evicted => 0x07
  | .dropped => 0x08
  | .outOfRange => 0x09
  | .recalled => 0x0A

/-- Kind codes of the completion notices (R159). -/
def Completion.code : Completion → Byte
  | .sent => 0x10
  | .stale => 0x11
  | .withdrawn => 0x12
  | .failed => 0x13

/-- Kind code and fields of a notice (R158, R159). -/
def NoticeBody.bytes : NoticeBody → Byte × List Byte
  | .schedule kind key line skipped =>
    (kind.code, [BitVec.ofNat 8 key.origin.toNat] ++ bytesBe 2 key.number.toNat ++ [targetByte line] ++ bytesBe 2 skipped)
  | .sendQueue kind tag unheard late =>
    (kind.code, [tagByte tag, BitVec.ofNat 8 (flagAt 0 unheard + flagAt 1 late)])
  | .mark .captured input edge sequence =>
    (0x18, [BitVec.ofNat 8 input.val, BitVec.ofNat 8 (edgeCode edge), sequence])
  | .mark .markLost input edge sequence =>
    (0x19, [BitVec.ofNat 8 input.val, BitVec.ofNat 8 (edgeCode edge), sequence])
  | .syncState old new => (0x20, [BitVec.ofNat 8 old.code, BitVec.ofNat 8 new.code])
  | .faultState old new => (0x21, [BitVec.ofNat 8 old.code, BitVec.ofNat 8 new.code])
  | .peerState id .present => (0x22, [BitVec.ofNat 8 id.toNat, 0])
  | .peerState id .silent => (0x22, [BitVec.ofNat 8 id.toNat, 1])
  | .peerState id .freed => (0x22, [BitVec.ofNat 8 id.toNat, 2])
  | .peer .peersFull id => (0x23, [BitVec.ofNat 8 id.toNat])
  | .peer .idClash id => (0x24, [BitVec.ofNat 8 id.toNat])
  | .peer .malformed id => (0x28, [BitVec.ofNat 8 id.toNat])
  | .joined sync => (0x30, [BitVec.ofNat 8 sync.code])
  | .restarted => (0x31, [])
  | .lost count => (0x32, [BitVec.ofNat 8 count])

/-- Bytes filled with zeros at the end to a length (R158). -/
def padded (n : Nat) (bytes : List Byte) : List Byte :=
  (bytes ++ List.replicate (n - bytes.length) 0).take n

/-- The 12-byte notice record (R159). -/
def Notice.bytes (n : Notice) : List Byte :=
  [n.body.bytes.1] ++ bytesBe 4 n.posted.toNat ++ padded 7 n.body.bytes.2

/-! ## Replies -/

/-- A reply before the previous-truncated flag joins its status byte (R151). -/
structure Reply where
  status : Status
  body   : List Byte
  deriving DecidableEq, Repr

/-- A reply of a status alone (R159: the bytes after it read 0). -/
def Reply.only (status : Status) : Reply := { status := status, body := [] }

/-- The status byte and the body (R151, R159). -/
def Reply.bytes (truncated : Bool) (r : Reply) : List Byte :=
  BitVec.ofNat 8 (flagAt 7 truncated + r.status.code) :: r.body

/-- The OK reply of a SHARED post: its record's tag (R159). -/
def Reply.tagged (tag : Tag) : Reply := { status := .ok, body := [1, tagByte tag] }

/-- The OK reply of a LOCAL post: no tag (R159). -/
def Reply.untagged : Reply := { status := .ok, body := [0, 0] }

/-- READ_PEER's body (R65, R159). -/
def Peer.replyBody (p : Peer) : List Byte :=
  [BitVec.ofNat 8 p.station.toNat,
    BitVec.ofNat 8 (flagAt 0 (decide (p.presence = .silent)) + flagAt 1 p.fresh + flagAt 2 p.mismatch
      + flagAt 3 p.offset.isSome + flagAt 4 p.sequence.isSome)]
    ++ bytesBe 1 p.rounds ++ signedBytes 5 (p.offset.getD 0)
    ++ [BitVec.ofNat 8 ((p.sync.map SyncState.code).getD 0), p.sequence.getD 0]

/-- READ_ENTRY's body (R118, R159). -/
def Entry.replyBody (e : Entry) : List Byte :=
  [BitVec.ofNat 8 e.key.origin.toNat] ++ bytesBe 2 e.key.number.toNat
    ++ [BitVec.ofNat 8 (e.source.code + flagAt 2 e.notify + flagAt 3 e.late + flagAt 4 e.rpt.isSome)]
    ++ bytesBe 2 ((e.topic.map BitVec.toNat).getD 0)
    ++ [((e.hit.map fun i => BitVec.ofNat 8 i.val).getD 0xFF), targetByte e.target, BitVec.ofNat 8 e.action.code]
    ++ bytesBe 2 ((e.width.map BitVec.toNat).getD 0)
    ++ bytesBe 3 ((e.rpt.map Repeat.period).getD 0) ++ bytesBe 1 ((e.rpt.map Repeat.count).getD 0)
    ++ bytesBe 4 e.due.toNat

/-- The class code of a record (R159). -/
def RecordBody.classCode : RecordBody → Nat
  | .recallBody _ => 1
  | .markBody _ => 2
  | .cueBody _ => 3

/-- The cue number of a CUE record, 0 for another. -/
def RecordBody.cueNumber : RecordBody → Nat
  | .cueBody c => c.number.toNat
  | _ => 0

/-- The state byte of READ_RECORD (R159). -/
def Record.stateByte (r : Record) : Byte :=
  BitVec.ofNat 8
    ((match r.state with
        | .waiting => 0
        | .held _ => 1 + flagAt 4 true
        | .inFlight => 2)
      + flagAt 2 r.withdrawPending + flagAt 3 r.stale.isSome)

/-- The tag a record is held behind, as a byte; 0 when absent (R159). -/
def Record.heldByte (r : Record) : Byte :=
  match r.state with
  | .held behind => tagByte behind
  | _ => 0

/-- READ_RECORD's body with the record's present urgency (R85, R159). -/
def Record.replyBody (urgency : Nat) (r : Record) : List Byte :=
  [BitVec.ofNat 8 r.body.classCode, r.stateByte] ++ bytesBe 1 r.errors
    ++ bytesBe 4 ((r.stale.map BitVec.toNat).getD 0) ++ [r.heldByte] ++ bytesBe 2 r.body.cueNumber
    ++ bytesBe 1 urgency

end Sys2Proof.Machine
end

