-- ==== Sys2Proof/Machine/SendQueue.lean ====
section
/-! DEFINITION. The send queue (05) with its beat slot and the AGU's pending BEAT (R62): records and tags, entry, selection, outcomes, staleness, withdrawal. -/

namespace Sys2Proof.Machine

/-! ## Records -/

/-- The slots in slot order. -/
def allSlots : List (Fin 16) := List.finRange 16

/-- Whether a slot is free. -/
def SqState.isFree (q : SqState) (slot : Fin 16) : Bool := q.records.all fun r => r.tag.slot ≠ slot

/-- The lowest free slot (R68). -/
def SqState.freeSlot (q : SqState) : Option (Fin 16) := allSlots.find? q.isFree

/-- The record a tag names; none for an unknown tag (R68). -/
def SqState.named (q : SqState) (tag : Tag) : Option Record := q.records.find? fun r => r.tag = tag

/-- A record put in slot order. -/
def insertRecord (r : Record) : List Record → List Record
  | [] => [r]
  | x :: rest => if r.tag.slot < x.tag.slot then r :: x :: rest else x :: insertRecord r rest

/-- The tag the next record created in a slot carries (R68). -/
def SqState.nextTag (q : SqState) (slot : Fin 16) : Tag :=
  { slot := slot, generation := q.generations[slot] }

/-- A record created in a slot, last in the entry order (R67, R68). -/
def State.createRecord (slot : Fin 16) (body : RecordBody) (stale : Option Micros) (state : RecordState)
    (s : State) : State :=
  s.setSq
    { s.sq with
      records := insertRecord
        { tag := s.sq.nextTag slot, body := body, stale := stale, state := state, withdrawPending := false
          errors := 0, order := s.sq.nextOrder } s.sq.records
      nextOrder := s.sq.nextOrder + 1 }

/-- A RECALL held behind a tag becomes WAITING (R82). -/
def Record.released (tag : Tag) (r : Record) : Record :=
  if r.state = .held tag then { r with state := .waiting } else r

/-- The records after one leaves: its own slot is free, and every RECALL held behind it is released (R67, R82). -/
def recordsWithout (tag : Tag) (records : List Record) : List Record :=
  (records.filter fun r => r.tag ≠ tag).map (Record.released tag)

/-- A record leaves the queue: its slot's generation increases, what is held behind it is released, and its one completion notice is posted (R68, R82, R84). -/
def State.leave (r : Record) (how : Completion) (unheard late : Bool) (s : State) : State :=
  (s.setSq
    { s.sq with
      records := recordsWithout r.tag s.sq.records
      generations := s.sq.generations.set r.tag.slot (s.sq.generations[r.tag.slot] + 1) }).post
    (.sendQueue how r.tag unheard late)

/-- Several records leave in one event, in slot order (R84). -/
def State.leaveAll (which : Record → Bool) (how : Completion) (s : State) : State :=
  (s.sq.records.filter which).foldl (fun s r => s.leave r how false false) s

/-- A record replaced by another of its tag. -/
def State.updateRecord (r : Record) (s : State) : State :=
  s.setSq { s.sq with records := s.sq.records.map fun x => if x.tag = r.tag then r else x }

/-! ## Staleness -/

/-- A stale time is out of date: reached, or more than the horizon ahead (R79). -/
def outOfDate (stale now : Micros) : Bool := reached stale now || decide (Config.horizon < distance stale now)

/-- Whether a record's stale time, if it has one, is out of date. -/
def Record.isStale (now : Micros) (r : Record) : Bool :=
  match r.stale with
  | some t => outOfDate t now
  | none => false

/-! ## The beat slot -/

/-- The AGU's BEAT is placed in the beat slot (R62, R72). -/
def State.placeBeat (b : Beat) (s : State) : State :=
  let enters :=
    s.setSq
      { s.sq with
        beat := some { beat := b, inFlight := false, superseded := false, errors := 0, order := s.sq.nextOrder }
        nextOrder := s.sq.nextOrder + 1 }
  match s.sq.beat with
  | none => enters
  | some held =>
    if held.inFlight then
      (s.setSq { s.sq with beat := some { held with superseded := true } }).setAgu
        { s.agu with pendingBeat := some b }
    else enters

/-- A BEAT leaves the beat slot: the AGU is told, and places its pending BEAT unless that one's stale time is reached (R62, R78). -/
def State.beatLeft (s : State) : State :=
  let emptied := s.setSq { s.sq with beat := none }
  match s.agu.pendingBeat with
  | none => emptied
  | some b =>
    let taken := emptied.setAgu { s.agu with pendingBeat := none }
    if reached b.stale s.micros then taken else taken.placeBeat b

/-! ## Entry -/

/-- The CUE record with a cue number, if one is held in any state (R69, 4). -/
def SqState.holdsCue (q : SqState) (number : CueNumber) : Bool :=
  q.records.any fun r =>
    match r.body with
    | .cueBody c => c.number = number
    | _ => false

/-- The due time is ahead by more than the send margin and by no more than the horizon (R69, 3). -/
def State.dueFits (due : Micros) (s : State) : Bool :=
  isAhead due s.micros &&
    decide (s.stc.config.sendMargin < distance due s.micros ∧ distance due s.micros ≤ Config.horizon)

/-- POST_CUE with SHARED scope: the first check that fails refuses it, and a post that passes creates a CUE record (R69). -/
def State.postShared (a : CueArgs) (s : State) : State × Reply :=
  if s.stc.station ≠ .joined then (s, .only .refusedState)
  else
    match cueOf a s.micros with
    | none => (s, .only .refusedRange)
    | some c =>
      if !s.dueFits c.due then (s, .only .refusedRange)
      else if s.sq.holdsCue c.number then (s, .only .refusedKey)
      else
        match s.sq.freeSlot with
        | none => (s, .only .refusedFull)
        | some slot =>
          (s.createRecord slot (.cueBody c) (some (c.due - BitVec.ofNat 32 s.stc.config.sendMargin)) .waiting,
            .tagged (s.sq.nextTag slot))

/-- Whether a recall matches a CUE record of this station (R70). -/
def recallMatches (own : StationId) (what : Recall) (r : Record) : Bool :=
  match r.body with
  | .cueBody c =>
    match what with
    | .byKey key => decide (key.origin = own ∧ key.number = c.number)
    | .byTopic code mask => topicMatches c.topic code mask
  | _ => false

/-- The record in flight a recall matches: its withdraw-pending flag is set, and the RECALL is HELD behind it (R70, steps 2 and 3). -/
def State.holdBehind (matching : Record → Bool) (s : State) : State × RecordState :=
  match s.sq.records.find? fun r => decide (r.state = .inFlight) && matching r with
  | some r => (s.updateRecord { r with withdrawPending := true }, .held r.tag)
  | none => (s, .waiting)

/-- A recall that passes the checks of R70, taken in its four steps. -/
def State.takeRecall (what : Recall) (s : State) : State × Reply :=
  let matching := recallMatches s.stc.config.id what
  let withdrawn := s.leaveAll (fun r => decide (r.state = .waiting) && matching r) .withdrawn
  let heldBehind := withdrawn.holdBehind matching
  match heldBehind.1.sq.freeSlot with
  | none => (s, .only .refusedFull)
  | some slot =>
    (heldBehind.1.createRecord slot (.recallBody what) none heldBehind.2,
      .tagged (heldBehind.1.sq.nextTag slot))

/-- POST_RECALL with SHARED scope (R70). A queue of 16 records none of which the recall withdraws has no free slot. -/
def State.recallShared (a : RecallArgs) (s : State) : State × Reply :=
  if s.stc.station ≠ .joined then (s, .only .refusedState)
  else
    match recallOf a with
    | none => (s, .only .refusedRange)
    | some what => s.takeRecall what

/-- The MARK record of a taken mark, or MARK_LOST; a record whose stale time is already reached leaves at once (R71, R136). -/
def State.announce (m : MarkContent) (s : State) : State :=
  let stale := laterBy (microsOf m.capture) (s.stc.config.markMs * 1000)
  match s.sq.freeSlot with
  | none => s.post (.mark .markLost m.input m.edge m.sequence)
  | some slot =>
    let created := s.createRecord slot (.markBody m) (some stale) .waiting
    if reached stale s.micros then
      match created.sq.named (s.sq.nextTag slot) with
      | some r => created.leave r .stale false false
      | none => created
    else created

/-! ## Selection -/

/-- Urgency of a stale time now: the lesser of 15 and its distance over the urgency step, or 0 once it is reached (R74, R85). -/
def urgencyOf (step : Nat) (stale now : Micros) : Nat :=
  if reached stale now then 0 else min 15 (distance stale now / step)

/-- A record's urgency now: that of its stale time for a CUE, 0 for another class (R74, R85). -/
def State.urgencyNow (r : Record) (s : State) : Nat :=
  match r.body, r.stale with
  | .cueBody _, some stale => urgencyOf s.stc.config.urgencyStep stale s.micros
  | _, _ => 0

/-- Class, urgency now, stale time's distance and entry order: the four keys of R74. -/
structure SelectionKey where
  cls     : Nat
  urgency : Nat
  stale   : Nat
  order   : Nat
  deriving DecidableEq, Repr

/-- Least by the keys compared in turn (R74). -/
def SelectionKey.less (a b : SelectionKey) : Bool :=
  if a.cls ≠ b.cls then decide (a.cls < b.cls)
  else if a.urgency ≠ b.urgency then decide (a.urgency < b.urgency)
  else if a.stale ≠ b.stale then decide (a.stale < b.stale)
  else decide (a.order < b.order)

/-- The keys of a general record (R74). -/
def State.keyOf (r : Record) (s : State) : SelectionKey :=
  { cls := r.body.classCode, urgency := s.urgencyNow r
    stale := ((r.stale.map fun t => distance t s.micros).getD 0), order := r.order }

/-- The keys of the BEAT (R74). -/
def State.keyOfBeat (b : BeatRecord) (s : State) : SelectionKey :=
  { cls := 0, urgency := 0, stale := distance b.beat.stale s.micros, order := b.order }

/-- The WAITING records and a WAITING BEAT, each with its keys. -/
def State.candidates (s : State) : List (Place × SelectionKey) :=
  ((s.sq.records.filter fun r => r.state = .waiting).map fun r => (Place.slot r.tag.slot, s.keyOf r))
    ++ match s.sq.beat with
      | some b => if b.inFlight then [] else [(Place.beat, s.keyOfBeat b)]
      | none => []

/-- The least candidate (R74). -/
def leastCandidate : List (Place × SelectionKey) → Option (Place × SelectionKey)
  | [] => none
  | c :: rest =>
    match leastCandidate rest with
    | none => some c
    | some best => if best.2.less c.2 then some best else some c

/-- Every WAITING record whose stale time is out of date leaves as STALE, in slot order, then the BEAT (R73, R78). -/
def State.removeStale (s : State) : State :=
  let cleared := s.leaveAll (fun r => decide (r.state = .waiting) && r.isStale s.micros) .stale
  match cleared.sq.beat with
  | some b => if !b.inFlight && outOfDate b.beat.stale s.micros then cleared.beatLeft else cleared
  | none => cleared

/-- The record at a place becomes IN_FLIGHT (R73). -/
def State.markInFlight (p : Place) (s : State) : State :=
  match p with
  | .slot slot =>
    s.setSq
      { s.sq with
        records := s.sq.records.map fun r => if r.tag.slot = slot then { r with state := .inFlight } else r }
  | .beat => s.setSq { s.sq with beat := s.sq.beat.map fun b => { b with inFlight := true } }

/-- The content a general record's frame carries (R67). -/
def RecordBody.content : RecordBody → Content
  | .recallBody what => .recallContent what
  | .markBody m => .markContent m
  | .cueBody c => .cueContent c

/-- The content a BEAT frame carries, with the given stamp (R16, R17). -/
def Beat.content (stamp : BusTime) (b : Beat) : Content :=
  .beatContent stamp b.interval b.sync b.fresh b.sequence

/-- A frame of this station's (R5). -/
def frameOf (id : StationId) (urgency unused : Nat) (c : Content) : Frame :=
  { cls := c.cls, urgency := BitVec.ofNat 4 urgency, station := id, payload := payloadBytes unused c }

/-- The frame built from the record at a place; a BEAT's stamp is inserted later (R4, R5, R16). -/
def State.buildFrame (p : Place) (s : State) : Option Frame :=
  let unused := Config.unusedFrameBits s.draws
  match p with
  | .slot slot =>
    (s.sq.records.find? fun r => r.tag.slot = slot).map fun r =>
      frameOf s.stc.config.id (s.urgencyNow r) unused r.body.content
  | .beat => s.sq.beat.map fun b => frameOf s.stc.config.id 0 unused (b.beat.content 0)

/-! ## Outcomes -/

/-- The three outcomes the LIU reports (R14, R8, R11). -/
inductive AttemptEnd where
  | sent (unheard : Bool)
  | lost
  | error
  deriving DecidableEq, Repr

/-- A record whose frame was not sent: it leaves as WITHDRAWN or STALE, as FAILED when its attempts are used up, or returns to WAITING (R76, R77). -/
def State.endedUnsent (usedUp : Bool) (r : Record) (s : State) : State :=
  if r.withdrawPending then s.leave r .withdrawn false false
  else if r.isStale s.micros then s.leave r .stale false false
  else if usedUp then s.leave r .failed false false
  else s.updateRecord { r with state := .waiting }

/-- The outcome of a general record's attempt: an error counts against its 32 attempts, a loss does not (R75 to R77). -/
def State.recordEnded (how : AttemptEnd) (r : Record) (s : State) : State :=
  match how with
  | .sent unheard => s.leave r .sent unheard r.withdrawPending
  | .lost => s.endedUnsent false r
  | .error => s.endedUnsent (decide (32 ≤ r.errors + 1)) { r with errors := r.errors + 1 }

/-- A BEAT that was not sent leaves the slot when it is superseded, out of date or used up, and returns to WAITING otherwise (R78). -/
def State.beatEndedUnsent (usedUp : Bool) (b : BeatRecord) (s : State) : State :=
  if b.superseded || outOfDate b.beat.stale s.micros || usedUp then s.beatLeft
  else s.setSq { s.sq with beat := some { b with inFlight := false } }

/-- The outcome of the BEAT's attempt (R78). -/
def State.beatEnded (how : AttemptEnd) (b : BeatRecord) (s : State) : State :=
  match how with
  | .sent _ => s.beatLeft
  | .lost => s.beatEndedUnsent false b
  | .error => s.beatEndedUnsent (decide (32 ≤ b.errors + 1)) { b with errors := b.errors + 1 }

/-- The LIU reports the outcome of the attempt of the record at a place (R75 to R78). -/
def State.attemptEnded (how : AttemptEnd) (p : Place) (s : State) : State :=
  match p with
  | .slot slot =>
    match s.sq.records.find? fun r => decide (r.tag.slot = slot ∧ r.state = .inFlight) with
    | some r => s.recordEnded how r
    | none => s
  | .beat =>
    match s.sq.beat with
    | some b => if b.inFlight then s.beatEnded how b else s
    | none => s

/-! ## Withdrawal, expiry, steps -/

/-- WITHDRAW (R81). -/
def State.withdraw (tag : Tag) (s : State) : State × Reply :=
  match s.sq.named tag with
  | none => (s, .only .unknownTag)
  | some r =>
    match r.state with
    | .waiting => (s.leave r .withdrawn false false, .only .done)
    | .held _ => (s.leave r .withdrawn false false, .only .done)
    | .inFlight => (s.updateRecord { r with withdrawPending := true }, .only .pending)

/-- The stale time of the WAITING record at a place, if there is one (R79). -/
def State.waitingStale (p : Place) (s : State) : Option Micros :=
  match p with
  | .slot slot =>
    match s.sq.records.find? fun r => decide (r.tag.slot = slot ∧ r.state = .waiting) with
    | some r => r.stale
    | none => none
  | .beat =>
    match s.sq.beat with
    | some b => if b.inFlight then none else some b.beat.stale
    | none => none

/-- The WAITING record at a place leaves as STALE (R79). -/
def State.expireStale (p : Place) (s : State) : State :=
  match p with
  | .slot slot => s.leaveAll (fun r => decide (r.tag.slot = slot ∧ r.state = .waiting)) .stale
  | .beat =>
    match s.sq.beat with
    | some b => if b.inFlight then s else s.beatLeft
    | none => s

/-- Whether a stale time is out of date by its distance after a step (R80). -/
def staleAfterStep (stale old : Micros) (change : Int) : Bool :=
  decide (distanceAfter stale old change ≤ 0 ∨ (Config.horizon : Int) < distanceAfter stale old change)

/-- The SQ takes the word of a step: WAITING records now stale leave, in slot order and then the beat slot (R80). -/
def State.reexamineSq (old : Micros) (change : Int) (s : State) : State :=
  let staleNow := fun r : Record =>
    decide (r.state = .waiting) &&
      match r.stale with
      | some t => staleAfterStep t old change
      | none => false
  let cleared := s.leaveAll staleNow .stale
  match cleared.sq.beat with
  | some b => if !b.inFlight && staleAfterStep b.beat.stale old change then cleared.beatLeft else cleared
  | none => cleared

/-- RESTART at the SQ: emptied, all generations 0 (R86). -/
def SqState.restarted : SqState :=
  { records := [], beat := none, generations := Vector.replicate 16 0, nextOrder := 0 }

end Sys2Proof.Machine
end

