-- ==== Sys2Proof/Machine/Agreement.lean ====
section
/-! DEFINITION. The agreement unit (04) and the steps of bus time it asks for (R37 to R39): peer table, sync rounds, BEAT generation, acquisition. -/

namespace Sys2Proof.Machine

/-! ## The peer table -/

/-- The indexes of the peer table in order. -/
def allIndexes : List (Fin 32) := List.finRange 32

/-- The table with one index written. -/
def State.setPeer (i : Fin 32) (p : Option Peer) (s : State) : State :=
  s.setAgu { s.agu with peers := s.agu.peers.set i p }

/-- Whether the entry at an index is station id's. -/
def State.isPeerOf (id : StationId) (s : State) (i : Fin 32) : Bool :=
  match s.agu.peers[i] with
  | some p => decide (p.station = id)
  | none => false

/-- The index of station id's entry, if it has one (R47). -/
def State.peerIndex (id : StationId) (s : State) : Option (Fin 32) := allIndexes.find? (s.isPeerOf id)

/-- The lowest free index (R47). -/
def State.freeIndex (s : State) : Option (Fin 32) := allIndexes.find? fun i => s.agu.peers[i].isNone

/-- The number of PRESENT peers (R51). -/
def State.presentPeers (s : State) : Nat :=
  s.agu.peers.toList.countP fun p =>
    match p with
    | some p => decide (p.presence = .present)
    | none => false

/-- A new entry (R47). -/
def Peer.created (id : StationId) : Peer :=
  { station := id, presence := .present, rounds := 0, offset := none, fresh := false, mismatch := false
    sync := none, sequence := none }

/-- An entry created at an index, with PEER_STATE PRESENT (R47, R48). -/
def State.createPeer (i : Fin 32) (id : StationId) (s : State) : State :=
  (s.setPeer i (some (Peer.created id))).post (.peerState id .present)

/-- Of two indexes, the one of the SILENT entry with more rounds since heard, the first where they are equal (R49). -/
def olderSilent (s : State) (best : Option (Fin 32 × Peer)) (i : Fin 32) : Option (Fin 32 × Peer) :=
  match s.agu.peers[i] with
  | some p =>
    if p.presence = .silent then
      match best with
      | some (_, b) => if b.rounds < p.rounds then some (i, p) else best
      | none => some (i, p)
    else best
  | none => best

/-- The SILENT entry to be replaced when the table is full (R49). -/
def State.oldestSilent (s : State) : Option (Fin 32 × Peer) := allIndexes.foldl (olderSilent s) none

/-- A station with no entry is heard while the table is full (R49). -/
def State.heardFull (id : StationId) (s : State) : State :=
  match s.oldestSilent with
  | some (i, p) => (s.post (.peerState p.station .freed)).createPeer i id
  | none =>
    if s.agu.fullNotice then s
    else (s.post (.peer .peersFull id)).setAgu { s.agu with fullNotice := true }

/-- An entry's station is heard: its count is 0 and it is PRESENT (R48). -/
def State.heardKnown (i : Fin 32) (p : Peer) (s : State) : State :=
  (s.setPeer i (some { p with rounds := 0, presence := .present })).postIf
    (decide (p.presence = .silent)) (.peerState p.station .present)

/-- A heard report (R48, R49). -/
def State.heard (id : StationId) (s : State) : State :=
  match s.peerIndex id with
  | some i =>
    match s.agu.peers[i] with
    | some p => s.heardKnown i p
    | none => s
  | none =>
    match s.freeIndex with
    | some i => s.createPeer i id
    | none => s.heardFull id

/-- An entry after a BEAT sample (R50). -/
def Peer.sampled (own interval : Nat) (offset : Int) (sync : SyncState) (sequence : Byte) (p : Peer) : Peer :=
  { p with
    offset := some offset, fresh := true, mismatch := decide (interval ≠ own), sync := some sync
    sequence := some sequence }

/-- A BEAT sample: the sender's entry, if it has one, takes the offset of stamp less capture (R50). -/
def State.beatSample (id : StationId) (stamp capture : BusTime) (interval : Nat) (sync : SyncState)
    (sequence : Byte) (s : State) : State :=
  match s.peerIndex id with
  | some i =>
    s.setPeer i
      (s.agu.peers[i].map
        (Peer.sampled s.stc.config.beatMs interval (signedDifference stamp capture) sync sequence))
  | none => s

/-! ## Steps of bus time -/

/-- The counter moved by a step's amount (R37), and with it the local-interval ends of the CLU, the MKU and STC, and the SOF capture (R38). -/
def State.moveLocal (amount change : Int) (s : State) : State :=
  (((s.setClu { s.clu with lines := mapVector (Line.moved change) s.clu.lines }).setMku
      { s.mku with
        inputs := mapVector (fun i : MarkInput => { i with spacingEnd := i.spacingEnd.map fun t => movedBy t change })
          s.mku.inputs }).setStc
      { s.stc with windowEnd := s.stc.windowEnd.map fun t => movedBy t change }).setBtu
    { s.btu with
      time := s.btu.time + BitVec.ofInt 36 amount
      stepFrom := some s.btu.time
      capture := s.btu.capture.map fun c => { c with time := c.time + BitVec.ofInt 36 amount } }

/-- The attempt in flight as a step finds it: a stamp whose bit has begun is copied before the step. Where the bit begins in the reference cycle of the step, which of the two is first is a free value (R41, assumption 6). -/
def State.stampAttempt (s : State) : State :=
  s.setLiu (s.liu.copyStamp s.btu.capture (Config.stampCopied s.draws))

/-- The word of a step by an amount that is not 0. -/
def wordOf (amount : Int) : StepWord := if 0 < amount then .forward else .backward

/-- The CSU, the SQ and the FCU take the word of a step, in one of six orders; or the CSU leaves its word for a later event, and the other two take theirs in one of two orders (R39, R116, assumption 5). -/
def State.reexamine (order : Nat) (old : Micros) (change : Int) (s : State) : State :=
  match order % 8 with
  | 0 => (s.takeWord.reexamineSq old change).reexamineFcu old change
  | 1 => (s.takeWord.reexamineFcu old change).reexamineSq old change
  | 2 => (s.reexamineSq old change).takeWord.reexamineFcu old change
  | 3 => ((s.reexamineSq old change).reexamineFcu old change).takeWord
  | 4 => (s.reexamineFcu old change).takeWord.reexamineSq old change
  | 5 => ((s.reexamineFcu old change).reexamineSq old change).takeWord
  | 6 => (s.reexamineSq old change).reexamineFcu old change
  | _ => (s.reexamineFcu old change).reexamineSq old change

/-- A step of bus time by an amount in sixteenths; the amount 0 is no step (R37 to R39). -/
def State.stepTime (amount : Int) (s : State) : State :=
  if amount = 0 then s
  else
    let change := microsChange s.btu.time amount
    let told := ((s.stampAttempt.moveLocal amount change).setWord (some (wordOf amount))).drawn
    told.reexamine (Config.reexamineOrder s.draws) s.micros change

/-! ## The sync round -/

/-- One entry aged: SILENT at 3 rounds since heard, freed at 16 (R56). -/
def State.agePeer (s : State) (i : Fin 32) : State :=
  match s.agu.peers[i] with
  | none => s
  | some p =>
    let rounds := min 255 (p.rounds + 1)
    let falls := decide (p.presence = .present ∧ 3 ≤ rounds)
    let aged := { p with rounds := rounds, presence := if falls then .silent else p.presence }
    let told := (s.setPeer i (some aged)).postIf falls (.peerState p.station .silent)
    if 16 ≤ rounds then (told.setPeer i none).post (.peerState p.station .freed) else told

/-- Step 1: the table aged, in index order (R56). -/
def State.agePeers (s : State) : State := allIndexes.foldl State.agePeer s

/-- The offset an entry brings to a round: PRESENT, fresh and without the mismatch flag (R57). -/
def Peer.roundOffset (p : Peer) : Option Int :=
  if p.presence = .present ∧ p.fresh ∧ ¬p.mismatch then p.offset else none

/-- The offset an entry brings to acquisition: fresh and without the mismatch flag (R64). -/
def Peer.acquisitionOffset (p : Peer) : Option Int := if p.fresh ∧ ¬p.mismatch then p.offset else none

/-- The offsets the table brings. -/
def State.offsets (of : Peer → Option Int) (s : State) : List Int :=
  s.agu.peers.toList.filterMap fun p => p.bind of

/-- Step 6: every fresh flag cleared, and the full-notice flag (R59, R64). -/
def AguState.cleared (a : AguState) : AguState :=
  { a with
    peers := mapVector (fun p : Option Peer => p.map fun p => { p with fresh := false }) a.peers
    fullNotice := false }

/-- The slew and the trim a correction gives (R58). -/
def State.slewTo (correction : Int) (s : State) : State :=
  let slew := slewFor s.beatMicros correction
  let moved := trimAfter s.btu.trim s.agu.residue slew
  (s.setBtu { s.btu with slew := slew, trim := moved.1 }).setAgu { s.agu with residue := moved.2 }

/-- Whether the round steps (R58). -/
def stepsBy (config : StationConfig) (began : SyncState) (correction : Int) : Bool :=
  decide (began = .seeking) && overThreshold config correction

/-- Step 4: the correction applied by a step, with the slew set to 0, or by a slew (R58). -/
def State.correct (began : SyncState) (correction : Int) (s : State) : State :=
  if stepsBy s.stc.config began correction then
    let stepped := s.stepTime correction
    stepped.setBtu { stepped.btu with slew := 0 }
  else s.slewTo correction

/-- Step 5: the sync state updated, SYNC_STATE posted and the CLU told on a change (R53, R54). -/
def State.updateSync (began : SyncState) (fresh : Nat) (correction : Int) (s : State) : State :=
  let after := syncAfterRound s.stc.config began s.agu.good fresh correction
  let updated := s.setAgu { s.agu with sync := after.1, good := after.2 }
  if after.1 = began then updated else (updated.post (.syncState began after.1)).tellClu after.1

/-- Step 7: a BEAT built and placed (R59, R62), unless a forward step has carried bus time past its stale time (R59). -/
def State.buildBeat (boundary : Micros) (change : Int) (fresh : Nat) (s : State) : State :=
  let half := s.stc.config.beatMs * 500
  if (half : Int) - change ≤ 0 then s
  else
    let sequence := s.agu.sequence + 1
    (s.setAgu { s.agu with sequence := sequence }).placeBeat
      { interval := s.stc.config.beatMs, sync := s.agu.sync, fresh := fresh, sequence := sequence
        stale := laterBy boundary half }

/-- A sync round at a boundary: the eight steps of R55, and the word of it to the IKU (R91). -/
def State.roundAt (boundary : Micros) (s : State) : State :=
  let began := s.agu.sync
  let aged := s.agePeers
  let offsets := aged.offsets Peer.roundOffset
  let fresh := offsets.length
  let correction := midpoint (0 :: offsets)
  let change := if stepsBy s.stc.config began correction then microsChange s.btu.time correction else 0
  let corrected := (aged.setAgu { aged.agu with fresh := fresh }).correct began correction
  let updated := corrected.updateSync began fresh correction
  let built := (updated.setAgu updated.agu.cleared).buildBeat boundary change fresh
  (built.setAgu { built.agu with boundary := some (nextBoundary s.beatMicros boundary change) }).setIku
    { built.iku with noticed := false }

/-- A sync round, taken while JOINED with a boundary held (R55). -/
def State.syncRound (s : State) : State :=
  match s.stc.station, s.agu.boundary with
  | .joined, some boundary => s.roundAt boundary
  | _, _ => s

/-! ## Acquisition -/

/-- The acquisition at the end of the listen window: a step by the trimmed midpoint of the fresh offsets, SEEKING or ALONE, and the first boundary (R64); the IKU is told (R91). -/
def State.acquire (s : State) : State :=
  let offsets := s.offsets Peer.acquisitionOffset
  let stepped := s.stepTime (midpoint offsets)
  let sync := if offsets.length = 0 then SyncState.alone else .seeking
  let told :=
    (stepped.setAgu
      { stepped.agu.cleared with
        sync := sync, good := 0, fresh := offsets.length
        boundary := some (nextMultiple stepped.beatMicros stepped.micros) }).tellClu sync
  told.setIku { told.iku with noticed := false }

/-- RESTART and pin reset at the AGU (R66). -/
def AguState.restarted : AguState :=
  { peers := Vector.replicate 32 none, sync := .nosync, good := 0, boundary := none, fresh := 0, residue := 0
    sequence := 0, pendingBeat := none, fullNotice := false }

end Sys2Proof.Machine
end

