-- ==== Sys2Proof/Machine/Marks.lean ====
section
/-! DEFINITION. The mark unit (09): edges, spacing, announcements and reactions. -/

namespace Sys2Proof.Machine

/-! ## Reactions -/

/-- A mark as it is matched: the station that saw the edge, the input, the edge and the capture time (R138). -/
structure SeenMark where
  source  : StationId
  input   : Fin 4
  edge    : Edge
  capture : BusTime
  deriving DecidableEq, Repr

/-- Whether an edge is one the entry matches (R138). -/
def EdgeMatch.takes : EdgeMatch → Edge → Bool
  | .either, _ => true
  | .rising, .rising => true
  | .rising, .falling => false
  | .falling, .falling => true
  | .falling, .rising => false

/-- Whether an entry matches a mark (R138). -/
def Reaction.matchesMark (r : Reaction) (m : SeenMark) : Bool :=
  r.enabled && decide (r.source = 0 ∨ r.source = m.source) && decide (r.input = m.input) && r.edge.takes m.edge

/-- The key of entry r's reaction cue (R137). -/
def reactionKey (own : StationId) (r : Fin 8) : CueKey :=
  { origin := own, number := BitVec.ofNat 12 (Config.firstReactionCue + r.val) }

/-- The reaction cue entry r makes of a mark (R100, R139). -/
def Reaction.cue (own : StationId) (r : Fin 8) (m : SeenMark) (x : Reaction) : Entry :=
  { key := reactionKey own r, source := .reaction, topic := none, hit := none, target := x.target
    action := x.action, width := x.width, rpt := none, due := laterBy (microsOf m.capture) x.offset
    notify := x.notify, late := false }

/-- Entry r is tried against a mark (R138, R139). -/
def State.tryReaction (m : SeenMark) (s : State) (r : Fin 8) : State :=
  if s.mku.reactions[r].matchesMark m then s.arrive (s.mku.reactions[r].cue s.stc.config.id r m) else s

/-- A mark matched against the reaction table: every matching entry makes a cue, in index order (R138). -/
def State.react (m : SeenMark) (s : State) : State := (List.finRange 8).foldl (State.tryReaction m) s

/-! ## Edges -/

/-- Whether an input takes this kind of edge (R131). -/
def EdgeSelect.takes : EdgeSelect → Edge → Bool
  | .off, _ => false
  | .rising, .rising => true
  | .rising, .falling => false
  | .falling, .falling => true
  | .falling, .rising => false
  | .either, _ => true

/-- Whether an input's spacing holds an edge back: the end is present and not reached (R132). -/
def MarkInput.isSpacing (now : Micros) (i : MarkInput) : Bool :=
  match i.spacingEnd with
  | some stop => !reached stop now
  | none => false

/-- One input written. -/
def State.setMarkInput (i : Fin 4) (x : MarkInput) (s : State) : State :=
  s.setMku { s.mku with inputs := s.mku.inputs.set i x }

/-- An input after an edge is taken: the next sequence, and the spacing end where the spacing is 1 µs or more (R133, steps 2 and 3). -/
def MarkInput.counted (now : Micros) (i : MarkInput) : MarkInput :=
  { i with
    sequence := i.sequence + 1
    spacingEnd := if 1 ≤ i.spacing then some (laterBy now i.spacing) else i.spacingEnd }

/-- What bus time read when the BTU saw an edge that the MKU takes now: the reading of the reference cycle before (R135). Where a step was made in that cycle, the edge came before it or after it, which is a free value (R43, assumption 27). It is drawn once: the BTU reads one time in a cycle for the edges on all four inputs, and their captures are equal (R42). -/
def State.edgeSeen (s : State) : BusTime × State :=
  match s.btu.latchFrom with
  | none => (s.btu.latch, s)
  | some old =>
    let seen := if Config.edgeBeforeStep s.draws then old else s.btu.latch
    (seen, s.drawn.setBtu { s.btu with latch := seen, latchFrom := none })

/-- The capture of an edge on a mark input: bus time when the BTU saw it, less the 3 sixteenths of the synchroniser (R42). -/
def markCapture (seen : BusTime) : BusTime := seen - 3

/-- An input's spacing end has been reached and its expiry not been taken (R134). -/
def MarkInput.endsNow (now : Micros) (i : MarkInput) : Bool := i.spacingEnd.any fun stop => reached stop now

/-- An edge the BTU saw in the cycle before, taken (R133, R135). One that finds a reached spacing end leaves its expiry nothing to do (R134). The order among the notices of the MKU, the CSU and the SQ is free (R155, assumption 34). -/
def State.takeSeenEdge (input : Fin 4) (edge : Edge) (capture : BusTime) (s : State) : State :=
  let i := s.mku.inputs[input].counted s.micros
  let spent := s.spend (s.mku.inputs[input].endsNow s.micros) (.spacingEnd input)
  let noticed := (spent.setMarkInput input i).postIf i.notify (.mark .captured input edge i.sequence)
  let reacted := noticed.react { source := s.stc.config.id, input := input, edge := edge, capture := capture }
  if i.announce then
    reacted.announce { input := input, edge := edge, sequence := i.sequence, capture := capture }
  else reacted

/-- A taken edge, with the capture of the cycle in which it was seen (R42, R133, R135). -/
def State.takeEdge (input : Fin 4) (edge : Edge) (s : State) : State :=
  s.edgeSeen.2.takeSeenEdge input edge (markCapture s.edgeSeen.1)

/-- Whether the MKU takes an edge (R132). -/
def State.takesEdge (input : Fin 4) (edge : Edge) (s : State) : Bool :=
  decide (s.stc.station = .joined) && s.mku.inputs[input].select.takes edge
    && !s.mku.inputs[input].isSpacing s.micros

/-- MARK_EDGE: an edge that the BTU timed in the reference cycle before reaches the MKU, which takes it or ignores it (R42, R132, R133, R135). That this one row stands for both is assumption 27. -/
def execMarkEdge (input : Fin 4) (edge : Edge) (s : State) : Host.Outcome State Fault Refusal :=
  .next (if s.takesEdge input edge then s.takeEdge input edge else s)

/-! ## Spacing, configuration, restart -/

/-- The expiry of an input's spacing end (R134). -/
def State.endSpacing (input : Fin 4) (s : State) : State :=
  s.setMarkInput input { s.mku.inputs[input] with spacingEnd := none }

/-- A taken SET_INPUT replaces the four configuration fields and leaves the input's state (R131). -/
def State.configureInput (input : Fin 4) (a : InputArgs) (s : State) : State :=
  s.setMarkInput input
    { s.mku.inputs[input] with
      select := selectOfCode a.select, announce := a.announce, notify := a.notify, spacing := a.spacing.toNat }

/-- RESTART at an input: spacing end absent, sequence 0, configuration kept (R141). -/
def MarkInput.restarted (i : MarkInput) : MarkInput := { i with spacingEnd := none, sequence := 0 }

/-- RESTART at the MKU (R141). -/
def MkuState.restarted (m : MkuState) : MkuState := { m with inputs := mapVector MarkInput.restarted m.inputs }

end Sys2Proof.Machine
end

