-- ==== Sys2Proof/Machine/Intake.lean ====
section
/-! DEFINITION. The intake unit (06): what becomes of an accepted frame. -/

namespace Sys2Proof.Machine

/-- What the LIU hands over at acceptance: the frame, the own mark and the SOF capture (R14). -/
structure Accepted where
  frame   : Frame
  own     : Bool
  capture : Option BusTime
  deriving DecidableEq, Repr

/-! ## Subscriptions -/

/-- The entries of the subscription table in index order. -/
def subscriptionIndexes : List (Fin 16) := List.finRange 16

/-- Whether an entry matches a topic (R95). -/
def Subscription.matchesTopic (x : Subscription) (topic : Topic) : Bool :=
  x.enabled && topicMatches topic x.code x.mask

/-- The first entry that matches a topic (R95). -/
def IkuState.hitFor (u : IkuState) (topic : Topic) : Option (Fin 16) :=
  subscriptionIndexes.find? fun i => u.subscriptions[i].matchesTopic topic

/-- The arrival an entry makes of an accepted cue (R95). -/
def Subscription.arrival (origin : StationId) (hit : Fin 16) (c : CueContent) (x : Subscription) : Entry :=
  { key := { origin := origin, number := c.number }, source := .bus, topic := some c.topic, hit := some hit
    target := x.target, action := c.action, width := c.width, rpt := c.rpt, due := c.due, notify := x.notify
    late := false }

/-- The unsubscribed count goes up by one, to at most 65 535 (R95). -/
def State.countUnsubscribed (s : State) : State :=
  s.setIku { s.iku with unsubscribed := min 65535 (s.iku.unsubscribed + 1) }

/-- A well-formed CUE is matched against the subscription table (R95). -/
def State.takeCue (origin : StationId) (c : CueContent) (s : State) : State :=
  match s.iku.hitFor c.topic with
  | some hit => s.arrive (s.iku.subscriptions[hit].arrival origin hit c)
  | none => s.countUnsubscribed

/-! ## The steps of R87 -/

/-- An id clash: the station's own id without the own mark, while LISTENING or JOINED (R28, R87). -/
def State.isClash (a : Accepted) (s : State) : Bool :=
  !a.own && decide (a.frame.station = s.stc.config.id) && decide (s.stc.station ≠ .offline)

/-- Whether a frame makes a heard report (R48). -/
def State.isHeard (a : Accepted) (s : State) : Bool :=
  !a.own && decide (1 ≤ a.frame.station.toNat ∧ a.frame.station.toNat ≤ 126)
    && decide (a.frame.station ≠ s.stc.config.id)
    && match s.stc.station with
      | .joined => true
      | .listening => decide (a.frame.cls = .beat)
      | .offline => false

/-- A MALFORMED frame is counted, and noticed once between two rounds (R91). -/
def State.malformed (station : StationId) (s : State) : State :=
  let counted := s.setIku { s.iku with malformed := min 65535 (s.iku.malformed + 1), noticed := true }
  counted.postIf (!s.iku.noticed) (.peer .malformed station)

/-- A well-formed frame goes to the owner of its class (R92). -/
def State.dispatch (a : Accepted) (content : Content) (s : State) : State :=
  match content with
  | .beatContent stamp interval sync _ sequence =>
    if a.own then s
    else
      match a.capture with
      | some capture => s.beatSample a.frame.station stamp capture interval sync sequence
      | none => s
  | .recallContent what => s.recallEntries what
  | .markContent m =>
    if a.own then s
    else s.react { source := a.frame.station, input := m.input, edge := m.edge, capture := m.capture }
  | .cueContent c => s.takeCue a.frame.station c

/-- Validity, then dispatch (R87, steps 4 and 5). -/
def State.validate (a : Accepted) (s : State) : State :=
  match parseFrame a.frame with
  | none => s.malformed a.frame.station
  | some content => s.dispatch a content

/-- The gate by station state: in LISTENING only a BEAT goes on (R87, R88). -/
def State.gate (a : Accepted) (s : State) : State :=
  match s.stc.station with
  | .joined => s.validate a
  | .listening => if a.frame.cls = .beat then s.validate a else s
  | .offline => s

/-- The IKU handles an accepted frame (R87). -/
def State.intake (a : Accepted) (s : State) : State :=
  let clashed := if s.isClash a then s.idClash else s
  (if clashed.isHeard a then clashed.heard a.frame.station else clashed).gate a

/-- RESTART at the IKU: counts and flag cleared, the table kept (R96). -/
def IkuState.restarted (u : IkuState) : IkuState := { u with malformed := 0, unsubscribed := 0, noticed := false }

end Sys2Proof.Machine
end

