-- ==== Sys2Proof/Machine/Transactions.lean ====
section
/-! DEFINITION. The local port's transactions (11.1): the taking of a command, its reply, and the ends of the SEL-low period. -/

namespace Sys2Proof.Machine

/-- The progress of the present SEL-low period set. -/
def State.setTransaction (t : Transaction) (s : State) : State := s.setLpu { s.lpu with transaction := t }

/-- A command is handed to its owner, and its whole reply latched with the previous-truncated flag, which is cleared in the same event (R149, R150). This holds for RESTART too, whose own effect leaves the flag as it is (assumption 33). -/
def State.answered (handle : State → State × Reply) (s : State) : State :=
  let r := handle s
  r.1.setLpu { r.1.lpu with reply := r.2.bytes s.lpu.truncated, truncated := false }

/-- A command reaches the port (R149). A transaction carries one command, and bytes after it are ignored; a command that comes while SEL is high stands for its whole transaction (assumption 11). -/
def State.takeCommand (handle : State → State × Reply) (s : State) : State :=
  match s.lpu.transaction with
  | .idle => s.answered handle
  | .receiving => (s.answered handle).setTransaction .replying
  | .replying => s
  | .ignoring => s

/-- SEL rises: a command not yet taken is lost, and the previous-truncated flag set (R149, R150). -/
def State.selRises (s : State) : State :=
  match s.lpu.transaction with
  | .idle => s
  | .receiving => s.setLpu { s.lpu with transaction := .idle, truncated := true }
  | .replying => s.setTransaction .idle
  | .ignoring => s.setTransaction .idle

/-- TRANSACTION_BEGIN: SEL falls (R149). -/
def execTransactionBegin (s : State) : Host.Outcome State Fault Refusal :=
  .next (if s.lpu.transaction = .idle then s.setTransaction .receiving else s)

/-- TRANSACTION_END: SEL rises, after the command has been taken (R149). -/
def execTransactionEnd (s : State) : Host.Outcome State Fault Refusal := .next s.selRises

/-- TRANSACTION_TRUNCATED: SEL rises before the command is taken (R150); from SEL high it stands for a whole truncated transaction (assumption 11). -/
def execTransactionTruncated (s : State) : Host.Outcome State Fault Refusal :=
  .next
    (if s.lpu.transaction = .idle then s.setLpu { s.lpu with truncated := true } else s.selRises)

/-- BAD_COMMAND: a code that R159 does not assign has no effect but its reply (R151). A code that is assigned is no BAD_COMMAND, and nothing happens (assumption 26). -/
def execBadCommand (code : Byte) (s : State) : Host.Outcome State Fault Refusal :=
  .next (if assignedCodes.contains code then s else s.takeCommand fun s => (s, .only .badCommand))

end Sys2Proof.Machine
end

