-- ==== Sys2Proof/Machine/Station.lean ====
section
/-! DEFINITION. Station control (10): configuration commands, JOIN, RESTART, pin reset, and the end of a drain. -/

namespace Sys2Proof.Machine

/-! ## Configuration commands (R144) -/

/-- A configuration command: refused outside OFFLINE, refused for a value out of range, and otherwise carried out (R144). -/
def State.configure {α : Type} (values : Option α) (write : α → State → State) (s : State) : State × Reply :=
  if s.stc.station ≠ .offline then (s, .only .refusedState)
  else
    match values with
    | none => (s, .only .refusedRange)
    | some v => (write v s, .only .ok)

/-- The station settings written (R144). -/
def State.writeStation (c : StationConfig) (s : State) : State := s.setStc { s.stc with config := c }

/-- One subscription entry written (R94, R144). -/
def State.writeSubscription (v : Fin 16 × Subscription) (s : State) : State :=
  s.setIku { s.iku with subscriptions := s.iku.subscriptions.set v.1 v.2 }

/-- One reaction entry written (R137, R144). -/
def State.writeReaction (v : Fin 8 × Reaction) (s : State) : State :=
  s.setMku { s.mku with reactions := s.mku.reactions.set v.1 v.2 }

/-- SET_STATION (R144). -/
def execSetStation (a : StationArgs) (s : State) : Host.Outcome State Fault Refusal :=
  .next (s.takeCommand (State.configure (configOf a) State.writeStation))

/-- SET_LINE (R129, R144). -/
def execSetLine (a : LineArgs) (s : State) : Host.Outcome State Fault Refusal :=
  .next (s.takeCommand (State.configure (indexOf 8 a.line) fun line s => s.configureLine line a))

/-- SET_INPUT (R131, R144). -/
def execSetInput (a : InputArgs) (s : State) : Host.Outcome State Fault Refusal :=
  .next (s.takeCommand (State.configure (indexOf 4 a.input) fun input s => s.configureInput input a))

/-- SET_SUBSCRIPTION (R94, R144). -/
def execSetSubscription (a : SubscriptionArgs) (s : State) : Host.Outcome State Fault Refusal :=
  .next (s.takeCommand (State.configure (subscriptionOf a) State.writeSubscription))

/-- SET_REACTION (R137, R144). -/
def execSetReaction (a : ReactionArgs) (s : State) : Host.Outcome State Fault Refusal :=
  .next (s.takeCommand (State.configure (reactionOf a) State.writeReaction))

/-! ## JOIN -/

/-- The end of a listen window that begins now: two beat intervals (R145). -/
def State.windowEndFrom (s : State) : Micros := laterBy s.micros (2 * s.beatMicros)

/-- What a JOIN that passes does (R145): the LIU takes its settings (R1) and integrates, its bit timing from the start of a bit (assumption 35); the window end is set, and the station is LISTENING. -/
def State.startListening (s : State) : State :=
  (s.setLiu
      { s.liu with state := .integrating, settings := s.stc.config.settings, timing := BitTiming.start }).setStc
    { s.stc with station := .listening, windowEnd := some s.windowEndFrom }

/-- The reply of a JOIN refused for its configuration: reason 1 is ID_UNSET, 2 is LOCK_VS_STEP (R145, R159). -/
def configInvalid (reason : Byte) : Reply := { status := .configInvalid, body := [reason] }

/-- JOIN: the first check that fails decides the reply (R145). -/
def State.join (s : State) : State × Reply :=
  if s.stc.station ≠ .offline then (s, .only .refusedState)
  else if s.stc.draining then (s, .only .busy)
  else if stationOfNat s.stc.config.id.toNat = none then (s, configInvalid 1)
  else if s.stc.config.threshold * 16 ≤ s.stc.config.lockBound then (s, configInvalid 2)
  else (s.startListening, .only .ok)

/-- JOIN (R145). -/
def execJoin (s : State) : Host.Outcome State Fault Refusal := .next (s.takeCommand State.join)

/-! ## The drain -/

/-- Whether RESTART finds the LIU sending, or signalling an error detected as sender (R19). -/
def LiuState.drains : LiuState → Bool
  | .sending => true
  | .flagging _ .sender => true
  | .flagging _ .receiver => false
  | .delimiting .sender => true
  | .delimiting .receiver => false
  | .stopped | .integrating | .idle | .receiving | .spacing => false

/-- The LIU stopped, with nothing held (R2). It keeps its settings, which JOIN replaces (R1, assumption 18), and its bit timing stands (assumption 35). -/
def LiuBlock.halted (l : LiuBlock) : LiuBlock :=
  { l with state := .stopped, attempt := none, ownEnded := false, holdOff := false }

/-- The drained frame ends: the LIU is STOPPED, its capture is dropped, and STC clears the draining flag (R19, R40, R147). -/
def State.endDrain (s : State) : State :=
  ((s.setLiu s.liu.halted).setBtu { s.btu with capture := none }).setStc { s.stc with draining := false }

/-- DRAIN_END (R19). -/
def execDrainEnd (s : State) : Host.Outcome State Fault Refusal := .next (if s.stc.draining then s.endDrain else s)

/-! ## RESTART -/

/-- RESTART at the LIU: it drains a frame it is sending, and stops otherwise; hold-off and its marker are gone (R2, R19, R30). -/
def LiuBlock.restarted (l : LiuBlock) : LiuBlock :=
  if l.state.drains then { l with ownEnded := false, holdOff := false } else l.halted

/-- RESTART at the BTU: bus time runs on, the correction is 0, and the capture is kept only for a drain (R45). -/
def BtuState.restarted (drains : Bool) (b : BtuState) : BtuState :=
  { b with trim := 0, slew := 0, acc := 0, capture := if drains then b.capture else none }

/-- RESTART at STC (R147). -/
def StcState.restarted (drains : Bool) (c : StcState) : StcState :=
  { c with station := .offline, draining := drains, windowEnd := none }

/-- Every block at its RESTART values, with the notice queue empty (R147). -/
def State.restartBlocks (s : State) : State :=
  let drains := s.liu.state.drains
  { s with
    stc := s.stc.restarted drains
    liu := s.liu.restarted
    fcu := FcuState.restarted
    btu := s.btu.restarted drains
    agu := AguState.restarted
    sq := SqState.restarted
    iku := s.iku.restarted
    csu := CsuState.restarted
    clu := s.clu.restarted
    mku := s.mku.restarted
    lpu := { s.lpu with notices := [], lost := 0 }
    spent := []
    posted := { s.posted with recent := 0, shut := [] } }

/-- RESTART: every block at its RESTART values, and RESTARTED alone in the notice queue, in front of any notice that comes later (R147, R155). -/
def State.restart (s : State) : State := (s.restartBlocks.post .restarted).settlePosts

/-- RESTART (R147). -/
def execRestart (s : State) : Host.Outcome State Fault Refusal :=
  .next (s.takeCommand fun s => (s.restart, .only .ok))

/-! ## Pin reset -/

/-- What a pin reset leaves of the transaction: a SEL that is low is ignored until it rises (R149). -/
def Transaction.afterReset : Transaction → Transaction
  | .idle => .idle
  | .receiving => .ignoring
  | .replying => .ignoring
  | .ignoring => .ignoring

/-- Every block at its pin-reset values (R148); the queue of waiting commands and the draws are the model's own. -/
def State.pinReset (s : State) : State :=
  (((State.reset.setPending s.pending).setDraws s.draws).setPosted s.settlePosts.posted).setTransaction
    s.lpu.transaction.afterReset

/-- PIN_RESET: RESET held low and released (R148). -/
def execPinReset (s : State) : Host.Outcome State Fault Refusal := .next s.pinReset

end Sys2Proof.Machine
end

