-- ==== Sys2Proof/Machine/Bus.lean ====
section
/-! DEFINITION. The events of the station bus at the line interface unit (01): starts of frames, offers, arbitration, errors and their signalling, acceptance, spacing. -/

namespace Sys2Proof.Machine

/-! ## Shared operations -/

/-- The LIU in another state. -/
def State.setLiuState (l : LiuState) (s : State) : State := s.setLiu { s.liu with state := l }

/-- The LIU holds no attempt. -/
def State.dropAttempt (s : State) : State := s.setLiu { s.liu with attempt := none }

/-- An attempt of this station ended in acceptance or in an error (R24). -/
def State.markOwnEnded (s : State) : State := s.setLiu { s.liu with ownEnded := true }

/-- The SOF capture dropped (R40). -/
def State.dropCapture (s : State) : State := s.setBtu { s.btu with capture := none }

/-- The SOF edge captured and confirmed (R3, R40). -/
def State.captureSof (s : State) : State :=
  s.setBtu { s.btu with capture := some { time := s.btu.time, confirmed := true } }

/-- The SQ is told how the attempt ended, and the LIU holds it no longer (R8, R11, R14). -/
def State.endAttempt (how : AttemptEnd) (s : State) : State :=
  match s.liu.attempt with
  | some a => (s.attemptEnded how a.place).dropAttempt
  | none => s

/-- The LIU state after an error, by the fault state in force (R12). -/
def signalling (state : FaultState) (role : Role) : LiuState :=
  match state with
  | .active => .flagging true role
  | .guarded => .flagging false role
  | .silenced => .delimiting role
  | .barred => .delimiting role

/-- Error signalling begins (R12). -/
def State.signal (role : Role) (s : State) : State := s.setLiuState (signalling s.fcu.state role)

/-! ## Start of a frame -/

/-- A SOF driven by another station: the capture is confirmed and the frame received; an offer not yet driven is returned as lost arbitration, and a hold-off ends (R3, R4, R24). -/
def State.receiveSof (s : State) : State :=
  let returned := s.captureSof.endAttempt .lost
  returned.setLiu { returned.liu with state := .receiving, holdOff := false }

/-- An error detected in a frame, in the last of the bits sampled: FCU, SQ, BTU, and the flag (R11, R12). A drain reports to no block (R19). The order of the notices of the FCU and the SQ is free (R155, assumption 34). -/
def State.frameError (role : Role) (sampled : List Bool) (s : State) : State :=
  if s.stc.draining then (s.dropCapture).signal role
  else
    let reported := ((s.reportError role sampled).endAttempt .error).dropCapture
    match role with
    | .sender => reported.markOwnEnded.signal .sender
    | .receiver => reported.signal .receiver

/-- An error in the interframe space: the role is receiver, and no capture is discarded (R11, R15). -/
def State.spacingError (sampled : List Bool) (s : State) : State := (s.reportError .receiver sampled).signal .receiver

/-- The bit of a SOF as the FCU samples it: a dominant bit ends its run of recessive ones (R26). A recessive one leaves the LIU in IDLE, where the clock counts it. -/
def State.sofBit (sampledDominant : Bool) (s : State) : State := if sampledDominant then s.sampled [false] else s

/-- The bit that an edge in IDLE begins, or in which this station drove SOF, sampled (R3). Without an attempt held no SOF is this station's (R4): one reported as driven by it is taken as another station's (assumption 8). -/
def State.sampleSof (sampledDominant drove : Bool) (s : State) : State :=
  match drove && s.liu.attempt.isSome, sampledDominant with
  | true, true => s.captureSof.setLiuState .sending
  | true, false => s.frameError .sender [true]
  | false, true => s.receiveSof
  | false, false => s

/-- SOF: an edge on BRX while IDLE, or the bit in which this station drove SOF; the bit timing is hard-synchronised, and the bit sampled (R1, R3, R26). Edge and sample are one event (assumption 9); what a SOF driven without an attempt is, is assumption 8. -/
def execSof (sampledDominant drove : Bool) (s : State) : Host.Outcome State Fault Refusal :=
  .next (if s.liu.state = .idle then (s.hardSync.sofBit sampledDominant).sampleSof sampledDominant drove else s)

/-! ## Offers -/

/-- Whether the SQ may make an offer (R73). -/
def State.mayOffer (s : State) : Bool :=
  decide (s.liu.state = .idle) && s.liu.attempt.isNone && decide (s.stc.station = .joined)
    && s.fcu.state.mayDrive && !s.liu.holdOff

/-- The record at a place is put in flight, and the LIU builds the frame from it (R4, R73). -/
def State.takeOffer (p : Place) (s : State) : State :=
  match s.buildFrame p with
  | some frame =>
    let marked := (s.markInFlight p).drawn
    marked.setLiu { marked.liu with attempt := some { place := p, frame := frame, stamp := none } }
  | none => s

/-- The offer (R73): stale records leave, and the least of those WAITING is put in flight. -/
def State.offer (s : State) : State :=
  let cleared := s.removeStale
  match leastCandidate cleared.candidates with
  | some c => cleared.takeOffer c.1
  | none => cleared

/-- OFFER: an offer moment (R4, R73). -/
def execOffer (s : State) : Host.Outcome State Fault Refusal := .next (if s.mayOffer then s.offer else s)

/-! ## Arbitration and errors -/

/-- LOST_ARBITRATION: the station becomes a receiver and its record's attempt is lost; a drain ends (R8, R19). -/
def execLostArbitration (s : State) : Host.Outcome State Fault Refusal :=
  .next
    (if s.liu.state = .sending then
      if s.stc.draining then s.endDrain else (s.endAttempt .lost).setLiuState .receiving
    else s)

/-- Whether an error of a kind can be detected now, and in which role (R3, R9, R10). -/
def State.errorRole (kind : ErrorKind) (s : State) : Option Role :=
  match s.liu.state, kind with
  | .idle, .bit => if s.liu.attempt.isSome then some .sender else none
  | .sending, .bit => some .sender
  | .sending, .form => some .sender
  | .sending, .ack => if 0 < s.presentPeers then some .sender else none
  | .receiving, .stuff => some .receiver
  | .receiving, .form => some .receiver
  | .receiving, .crc => some .receiver
  | _, _ => none

/-- ERROR_DETECTED (R10, R11, R15, R26). -/
def execErrorDetected (kind : ErrorKind) (s : State) (sampled : List Bool := [false]) :
    Host.Outcome State Fault Refusal :=
  .next
    (if s.liu.state = .spacing ∧ kind = .form then s.spacingError sampled
    else
      match s.errorRole kind with
      | some role => s.frameError role sampled
      | none => s)

/-- ERROR_FLAG_END: the flag completes (R13). -/
def execErrorFlagEnd (s : State) : Host.Outcome State Fault Refusal :=
  .next
    (match s.liu.state with
    | .flagging _ role => s.setLiuState (.delimiting role)
    | _ => s)

/-- STUCK_LINE_ERROR: a further error of the same role; a drain reports none (R13, R19, R26). -/
def execStuckLineError (s : State) (sampled : List Bool := List.replicate 16 false) :
    Host.Outcome State Fault Refusal :=
  .next
    (match s.liu.state with
    | .delimiting role => if s.stc.draining then s else s.reportError role sampled
    | _ => s)

/-- ERROR_DELIMITER_END: 8 recessive bits, and the LIU spaces; a drain ends (R13, R19, R26). -/
def execErrorDelimiterEnd (s : State) (sampled : List Bool := List.replicate 8 true) :
    Host.Outcome State Fault Refusal :=
  .next
    (match s.liu.state with
    | .delimiting _ =>
      if s.stc.draining then s.endDrain else (s.setLiuState .spacing).sampled sampled
    | _ => s)

/-! ## Acceptance -/

/-- The payload of a BEAT with its stamp inserted: the stamp fills the first 36 bits (R16, R159). -/
def stampPayload (stamp : BusTime) : List Byte → List Byte
  | b0 :: b1 :: b2 :: b3 :: b4 :: b5 :: rest =>
    bytesBe 6 (stamp.toNat * 4096 + natOfBytes [b0, b1, b2, b3, b4, b5] % 4096) ++ rest
  | short => short

/-- The frame as this station sent it: a BEAT carries the stamp copied, or else the capture of its own SOF (R16, R41). -/
def Attempt.sentFrame (capture : Option Capture) (a : Attempt) : Frame :=
  match a.place, a.stamp, capture with
  | .beat, some stamp, _ => { a.frame with payload := stampPayload stamp a.frame.payload }
  | .beat, none, some c => { a.frame with payload := stampPayload c.time a.frame.payload }
  | _, _, _ => a.frame

/-- The capture handed on with the frame (R14, R40). -/
def State.captureTime (s : State) : Option BusTime := s.btu.capture.map Capture.time

/-- The LIU spaces after an acceptance, and the capture has been handed on (R14, R15, R40). -/
def State.afterAcceptance (s : State) : State := s.dropCapture.setLiuState .spacing

/-- This station's own frame is accepted: FCU, SQ, and its own IKU (R14). The order among their notices is free (R155, assumption 34). -/
def State.acceptOwn (a : Attempt) (unheard : Bool) (s : State) : State :=
  let accepted : Accepted :=
    { frame := a.sentFrame s.btu.capture, own := true, capture := s.captureTime }
  let reported := s.reportAcceptance.endAttempt (.sent unheard)
  reported.markOwnEnded.afterAcceptance.intake accepted

/-- The acceptance of a frame being sent. A recessive ack slot while a peer is PRESENT is an ACK error, and no acceptance follows (R9, assumption 8); a drain ends unreported (R19). -/
def State.acceptSending (ackDominant : Bool) (s : State) : State :=
  if s.stc.draining then s.endDrain
  else if !ackDominant && decide (0 < s.presentPeers) then s
  else
    match s.liu.attempt with
    | some a => s.acceptOwn a (!ackDominant)
    | none => s

/-- The acceptance of another station's frame: FCU, which has sampled its bits, and IKU (R14, R26). -/
def State.acceptReceived (frame : Frame) (ackDominant : Bool) (s : State) : State :=
  ((s.sampled (lineBits frame ackDominant)).reportAcceptance).afterAcceptance.intake
    { frame := frame, own := false, capture := s.captureTime }

/-- ACCEPTANCE (R14). -/
def execAcceptance (frame : Frame) (ackDominant : Bool) (s : State) : Host.Outcome State Fault Refusal :=
  .next
    (match s.liu.state with
    | .sending => s.acceptSending ackDominant
    | .receiving => s.acceptReceived frame ackDominant
    | _ => s)

/-! ## The row for the bits -/

/-- The row in which this station's LIU reports bits it has sampled, the last of them the one that completes the row. -/
def State.rowAt (sampled : List Bool) (s : State) : Option Instr :=
  match s.liu.state, s.liu.attempt with
  | .sending, some a => (senderEnd s.presentPeers (a.sentFrame s.btu.capture) sampled).row sampled
  | .receiving, _ => (receiverEnd sampled).row sampled
  | .spacing, _ => spacingRow sampled
  | .integrating, _ => quietRow 11 .integrationComplete 0 sampled
  | .flagging _ _, _ => if 8 ≤ sampled.length then some .errorFlagEnd else none
  | .delimiting _, _ => delimiterRow (.errorDelimiterEnd sampled) (.stuckLineError sampled) 0 0 sampled
  | .idle, _ => if s.liu.holdOff then quietRow 8 .holdOffEnd 0 sampled else none
  | .sending, none => none
  | .stopped, _ => none

/-- The first row that bits sampled bring: from SOF on in a frame this station sends or receives, also one it lost arbitration in; from the first bit on in its flag, its interframe space, integration and a hold-off; and from the first bit or since STUCK_LINE_ERROR in its error delimiter. None while they are incomplete, and none in other states. The idle spans that the bits complete are spanRows (R2, R8, R9, R10, R12 to R15, R24, assumption 7). -/
def State.rowFor (sampled : List Bool) (s : State) : Option Instr :=
  (List.range (sampled.length + 1)).findSome? fun k => s.rowAt (sampled.take k)

/-! ## Idle -/

/-- The LIU enters IDLE, and a GUARDED station whose own attempt has ended starts a hold-off (R15, R24). -/
def State.enterIdle (s : State) : State :=
  s.setLiu
    { s.liu with
      state := .idle, ownEnded := false
      holdOff := s.liu.ownEnded && decide (s.fcu.state = .guarded) }

/-- INTERFRAME_SPACE_END: 3 recessive bits, and the LIU enters IDLE (R15, R24, R26). -/
def execInterframeSpaceEnd (s : State) : Host.Outcome State Fault Refusal :=
  .next (if s.liu.state = .spacing then s.enterIdle.sampled (List.replicate 3 true) else s)

/-- INTEGRATION_COMPLETE (R2). -/
def execIntegrationComplete (s : State) : Host.Outcome State Fault Refusal :=
  .next (if s.liu.state = .integrating then s.setLiuState .idle else s)

/-- HOLD_OFF_END (R24). -/
def execHoldOffEnd (s : State) : Host.Outcome State Fault Refusal :=
  .next (if s.liu.state = .idle then s.setLiu { s.liu with holdOff := false } else s)

/-- IDLE_SPAN: a span is counted, but for one that the clock has counted in this reference cycle (R26, R27, assumption 38). -/
def execIdleSpan (s : State) : Host.Outcome State Fault Refusal :=
  .next (if s.spent.contains .idleSpan then s.setSpent (s.spent.erase .idleSpan) else s.countSpan)

end Sys2Proof.Machine
end

