-- ==== Sys2Proof/Machine/Clock.lean ====
section
/-! DEFINITION. Stored times and their expiry (R34): which are armed, which comes first, and what has come due in the present µs. -/

namespace Sys2Proof.Machine

/-! ## The stored times that can expire -/

/-- The due time the CSU has armed (R99). -/
def State.armedDue (s : State) : Option Micros := s.csu.schedule.head?.map Entry.due

/-- The round boundary, while JOINED (R55). -/
def State.roundTime (s : State) : Option Micros := if s.stc.station = .joined then s.agu.boundary else none

/-- The recovery time, while SILENCED and until it has been reached (R27, assumption 37). -/
def State.recoveryTime (s : State) : Option Micros :=
  if s.fcu.state = .silenced ∧ s.fcu.timeReached = false then s.fcu.recovery else none

/-- The places of the send queue. -/
def allPlaces : List Place := allSlots.map Place.slot ++ [Place.beat]

/-- One stored time as a timer: the command of its expiry, and the time. -/
def timer (command : Instr) (t : Option Micros) : List (Instr × Micros) := t.toList.map fun t => (command, t)

/-- Every armed time, with the command of its expiry (R34). -/
def State.timers (s : State) : List (Instr × Micros) :=
  timer .syncRound s.roundTime ++ timer .listenWindowEnd s.stc.windowEnd
    ++ timer .recoveryTimeExpiry s.recoveryTime ++ timer .scheduleExpiry s.armedDue
    ++ (allPlaces.map fun p => timer (.staleTimeExpiry p) (s.waitingStale p)).flatten
    ++ ((List.finRange 8).map fun i => timer (.pulseEnd i) s.clu.lines[i].pulse).flatten
    ++ ((List.finRange 4).map fun i => timer (.spacingEnd i) s.mku.inputs[i].spacingEnd).flatten

/-! ## The passing of time -/

/-- n reference cycles of the whole part. -/
def State.passCycles (n : Nat) (s : State) : State :=
  ((s.cyclesPassed n).setBtu (s.btu.advance n)).countIdle (s.liu.idleBits n)

/-- One reference cycle of the whole part. -/
def State.tick (s : State) : State := s.passCycles 1

/-- Time passes until the µs part of bus time first equals t, and no event of the table happens meanwhile (assumption 3) but the idle spans of an idle line, and the return that the last of them may bring (R26, R27, assumption 38). -/
def State.runTo (t : Micros) (s : State) : State :=
  if s.micros = t then s
  else
    let ready := s.settleSpans
    let n := ready.btu.cyclesTo t
    let first := ready.untilReturn n
    let there := ready.passCycles first
    (if first < n then there.passCycles (n - first) else there).setBtu (s.btu.runTo t)

/-! ## The expiry of a stored time -/

/-- A stored time that bus time has not passed (R34). -/
def State.notPassed (t : Micros) (s : State) : Bool := decide (distance t s.micros < 2 ^ 31)

/-- No armed time expires before t. -/
def State.comesFirst (t : Micros) (s : State) : Bool :=
  s.timers.all fun x => decide (distance t s.micros ≤ distance x.2 s.micros)

/-- The expiry of a stored time as a command: bus time runs on to it, if no other armed time expires before it, and the owner acts (R34, assumption 3). The word of a step that waits at the CSU is taken first, since it belongs to an instant already here (R39, assumption 5). -/
def State.expire (stored : State → Option Micros) (event : State → State) (s : State) : State :=
  let ready := s.takeWord
  match stored ready with
  | some t => if ready.notPassed t && ready.comesFirst t then event (ready.runTo t) else s
  | none => s

/-- An expiry whose reached time an action or an edge of this reference cycle has already ended does nothing (R125, R134, assumption 36). An action can be that of a step handling whose word still waits: it is made first, as before every expiry (assumption 5). -/
def State.unlessSpent (c : Instr) (event : State → State) (s : State) : State :=
  let ready := s.takeWord
  if ready.spent.contains c then ready.setSpent (ready.spent.erase c) else event s

/-! ## What has come due -/

/-- The expiries due in the present µs. -/
def State.dueNow (s : State) : List Instr := (s.timers.filter fun x => x.2 = s.micros).map Prod.fst

/-- The expiry taken next, and the state with its free value drawn: where several are due, which of them is open (R34, assumption 4). -/
def State.nextDue (s : State) : Option (Instr × State) :=
  match s.dueNow with
  | [] => none
  | [c] => some (c, s)
  | cs => (cs[Config.expiryChoice s.draws % cs.length]?).map fun c => (c, s.drawn)

end Sys2Proof.Machine
end

