-- ==== Sys2Proof/Machine/Expiry.lean ====
section
/-! DEFINITION. The expiries of stored times, one command each (R34). -/

namespace Sys2Proof.Machine

/-- RECOVERY_TIME_EXPIRY (R27). -/
def execRecoveryTimeExpiry (s : State) : Host.Outcome State Fault Refusal :=
  .next (s.expire State.recoveryTime (State.recoverBy true))

/-- SYNC_ROUND (R55). -/
def execSyncRound (s : State) : Host.Outcome State Fault Refusal :=
  .next (s.expire State.roundTime State.syncRound)

/-- The end of the listen window: the acquisition, JOINED, and its notice (R146). -/
def State.endWindow (s : State) : State :=
  let acquired := s.acquire
  (acquired.setStc { acquired.stc with station := .joined, windowEnd := none }).post (.joined acquired.agu.sync)

/-- LISTEN_WINDOW_END (R146). -/
def execListenWindowEnd (s : State) : Host.Outcome State Fault Refusal :=
  .next (s.expire (fun s => s.stc.windowEnd) State.endWindow)

/-- SCHEDULE_EXPIRY (R109). -/
def execScheduleExpiry (s : State) : Host.Outcome State Fault Refusal :=
  .next (s.expire State.armedDue State.expireFirst)

/-- STALE_TIME_EXPIRY of the WAITING record at a place (R79). -/
def execStaleTimeExpiry (p : Place) (s : State) : Host.Outcome State Fault Refusal :=
  .next (s.expire (State.waitingStale p) (State.expireStale p))

/-- PULSE_END of a line (R124, R125). -/
def execPulseEnd (line : Fin 8) (s : State) : Host.Outcome State Fault Refusal :=
  .next (s.unlessSpent (.pulseEnd line) (State.expire (fun s => s.clu.lines[line].pulse) (State.endPulse line)))

/-- SPACING_END of a mark input (R134). -/
def execSpacingEnd (input : Fin 4) (s : State) : Host.Outcome State Fault Refusal :=
  .next
    (s.unlessSpent (.spacingEnd input)
      (State.expire (fun s => s.mku.inputs[input].spacingEnd) (State.endSpacing input)))

end Sys2Proof.Machine
end

