-- ==== Sys2Proof/Machine/Posts.lean ====
section
/-! DEFINITION. The commands that post and withdraw work: POST_CUE, POST_RECALL and WITHDRAW (R69, R70, R81, R101, R112). -/

namespace Sys2Proof.Machine

/-- The target of a LOCAL post: that of the first subscription entry that matches, or NONE (R101). -/
def State.localTarget (topic : Topic) (s : State) : Target :=
  match s.iku.hitFor topic with
  | some hit => s.iku.subscriptions[hit].target
  | none => none

/-- The arrival a LOCAL post makes (R101). -/
def State.localCue (notify : Bool) (c : CueContent) (s : State) : Entry :=
  { key := { origin := s.stc.config.id, number := c.number }, source := .localPort, topic := some c.topic
    hit := none, target := s.localTarget c.topic, action := c.action, width := c.width, rpt := c.rpt, due := c.due
    notify := notify, late := false }

/-- The reply of a LOCAL post: no tag when it is taken, its refusal otherwise (R101, R159). -/
def localReply : Status → Reply
  | .ok => .untagged
  | status => .only status

/-- POST_CUE with LOCAL scope (R101). -/
def State.postLocal (a : CueArgs) (s : State) : State × Reply :=
  if s.stc.station ≠ .joined then (s, .only .refusedState)
  else
    match cueOf a s.micros with
    | none => (s, .only .refusedRange)
    | some c =>
      let arrived := s.arriveLocal (s.localCue a.notify c)
      (arrived.1, localReply arrived.2)

/-- POST_RECALL with LOCAL scope (R112). -/
def State.recallLocal (a : RecallArgs) (s : State) : State × Reply :=
  if s.stc.station ≠ .joined then (s, .only .refusedState)
  else
    match recallOf a with
    | none => (s, .only .refusedRange)
    | some what => (s.recallEntries what, .untagged)

/-- POST_CUE, SHARED (R69). -/
def execPostCueShared (a : CueArgs) (s : State) : Host.Outcome State Fault Refusal :=
  .next (s.takeCommand (State.postShared a))

/-- POST_CUE, LOCAL (R101). -/
def execPostCueLocal (a : CueArgs) (s : State) : Host.Outcome State Fault Refusal :=
  .next (s.takeCommand (State.postLocal a))

/-- POST_RECALL, SHARED (R70). -/
def execPostRecallShared (a : RecallArgs) (s : State) : Host.Outcome State Fault Refusal :=
  .next (s.takeCommand (State.recallShared a))

/-- POST_RECALL, LOCAL (R112). -/
def execPostRecallLocal (a : RecallArgs) (s : State) : Host.Outcome State Fault Refusal :=
  .next (s.takeCommand (State.recallLocal a))

/-- WITHDRAW (R81). -/
def execWithdraw (tag : Tag) (s : State) : Host.Outcome State Fault Refusal :=
  .next (s.takeCommand (State.withdraw tag))

end Sys2Proof.Machine
end

