-- ==== Sys2Proof/Machine/Reads.lean ====
section
/-! DEFINITION. The commands that read: READ_NOTICE, READ_STATUS, READ_TIME, READ_PEER, READ_ENTRY, READ_RECORD (R156, R154, R44, R65, R118, R85). -/

namespace Sys2Proof.Machine

/-! ## READ_NOTICE -/

/-- The notices lost so far are reported at the back of the queue, behind all that the LPU has taken, and their count returns to 0 (R156). -/
def State.reportLost (s : State) : State :=
  if s.lpu.lost = 0 then s
  else ((s.setLpu { s.lpu with lost := 0 }).settlePosts.post (.lost s.lpu.lost)).settlePosts

/-- READ_NOTICE: the oldest notice is removed and returned (R156). -/
def State.takeNotice (s : State) : State × Reply :=
  match s.lpu.notices with
  | [] => (s, .only .empty)
  | oldest :: rest =>
    ((s.setLpu { s.lpu with notices := rest }).reportLost, { status := .ok, body := oldest.bytes })

/-! ## What the other reads carry -/

/-- The sync state shown: NONE while the station is not JOINED (R44, R65). -/
def State.shownSync (s : State) : SyncState := if s.stc.station = .joined then s.agu.sync else .nosync

/-- READ_STATUS's body (R154, R159). -/
def State.statusBody (s : State) : List Byte :=
  [BitVec.ofNat 8 (s.stc.station.code + flagAt 2 s.stc.draining + s.fcu.state.code * 16)]
    ++ bytesBe 1 s.fcu.score ++ bytesBe 1 s.shownSync.code ++ bytesBe 1 s.agu.fresh
    ++ bytesBe 1 s.sq.records.length ++ bytesBe 1 s.csu.schedule.length
    ++ bytesBe 1 s.lpu.notices.length ++ bytesBe 1 s.lpu.lost
    ++ bytesBe 2 s.iku.malformed ++ bytesBe 2 s.iku.unsubscribed

/-- READ_TIME's body (R44, R159). -/
def State.timeBody (s : State) : List Byte :=
  bytesBe 4 s.micros.toNat ++ bytesBe 1 (fractionOf s.btu.time).toNat ++ signedBytes 2 s.btu.trim
    ++ signedBytes 2 s.btu.slew ++ bytesBe 1 s.shownSync.code

/-- READ_PEER's reply (R65). -/
def State.peerReply (index : Byte) (s : State) : Reply :=
  match indexOf 32 index with
  | none => .only .refusedRange
  | some i =>
    match s.agu.peers[i] with
    | none => .only .empty
    | some p => { status := .ok, body := p.replyBody }

/-- READ_ENTRY's reply (R118). -/
def State.entryReply (position : Byte) (s : State) : Reply :=
  match indexOf 32 position with
  | none => .only .refusedRange
  | some i =>
    match s.csu.schedule[i.val]? with
    | none => .only .empty
    | some e => { status := .ok, body := e.replyBody }

/-- READ_RECORD's reply (R85). -/
def State.recordReply (tag : Tag) (s : State) : Reply :=
  match s.sq.named tag with
  | none => .only .unknownTag
  | some r => { status := .ok, body := r.replyBody (s.urgencyNow r) }

/-! ## The commands -/

/-- READ_NOTICE (R156). -/
def execReadNotice (s : State) : Host.Outcome State Fault Refusal := .next (s.takeCommand State.takeNotice)

/-- READ_STATUS (R154). -/
def execReadStatus (s : State) : Host.Outcome State Fault Refusal :=
  .next (s.takeCommand fun s => (s, { status := .ok, body := s.statusBody }))

/-- READ_TIME (R44). -/
def execReadTime (s : State) : Host.Outcome State Fault Refusal :=
  .next (s.takeCommand fun s => (s, { status := .ok, body := s.timeBody }))

/-- READ_PEER (R65). -/
def execReadPeer (index : Byte) (s : State) : Host.Outcome State Fault Refusal :=
  .next (s.takeCommand fun s => (s, s.peerReply index))

/-- READ_ENTRY (R118). -/
def execReadEntry (position : Byte) (s : State) : Host.Outcome State Fault Refusal :=
  .next (s.takeCommand fun s => (s, s.entryReply position))

/-- READ_RECORD (R85). -/
def execReadRecord (tag : Tag) (s : State) : Host.Outcome State Fault Refusal :=
  .next (s.takeCommand fun s => (s, s.recordReply tag))

end Sys2Proof.Machine
end

