-- ==== Sys2Proof/Machine/Dispatch.lean ====
section
/-! DEFINITION. exec: one arm for each command of spec/opcode_table.json. -/

namespace Sys2Proof.Machine

/-- The effect of one command on everything but the queue. -/
def exec (i : Instr) (s : State) : Host.Outcome State Fault Refusal :=
  match i with
  | .setStation args => Sys2Proof.Machine.execSetStation args s
  | .setLine args => Sys2Proof.Machine.execSetLine args s
  | .setInput args => Sys2Proof.Machine.execSetInput args s
  | .setSubscription args => Sys2Proof.Machine.execSetSubscription args s
  | .setReaction args => Sys2Proof.Machine.execSetReaction args s
  | .join => Sys2Proof.Machine.execJoin s
  | .restart => Sys2Proof.Machine.execRestart s
  | .postCueShared args => Sys2Proof.Machine.execPostCueShared args s
  | .postCueLocal args => Sys2Proof.Machine.execPostCueLocal args s
  | .postRecallShared args => Sys2Proof.Machine.execPostRecallShared args s
  | .postRecallLocal args => Sys2Proof.Machine.execPostRecallLocal args s
  | .withdraw tag => Sys2Proof.Machine.execWithdraw tag s
  | .readNotice => Sys2Proof.Machine.execReadNotice s
  | .readStatus => Sys2Proof.Machine.execReadStatus s
  | .readTime => Sys2Proof.Machine.execReadTime s
  | .readPeer index => Sys2Proof.Machine.execReadPeer index s
  | .readEntry position => Sys2Proof.Machine.execReadEntry position s
  | .readRecord tag => Sys2Proof.Machine.execReadRecord tag s
  | .badCommand code => Sys2Proof.Machine.execBadCommand code s
  | .transactionTruncated => Sys2Proof.Machine.execTransactionTruncated s
  | .pinReset => Sys2Proof.Machine.execPinReset s
  | .markEdge input edge => Sys2Proof.Machine.execMarkEdge input edge s
  | .sof sampledDominant drove => Sys2Proof.Machine.execSof sampledDominant drove s
  | .offer => Sys2Proof.Machine.execOffer s
  | .lostArbitration => Sys2Proof.Machine.execLostArbitration s
  | .errorDetected kind sampled => Sys2Proof.Machine.execErrorDetected kind s sampled
  | .acceptance frame ackDominant => Sys2Proof.Machine.execAcceptance frame ackDominant s
  | .errorFlagEnd => Sys2Proof.Machine.execErrorFlagEnd s
  | .stuckLineError sampled => Sys2Proof.Machine.execStuckLineError s sampled
  | .errorDelimiterEnd sampled => Sys2Proof.Machine.execErrorDelimiterEnd s sampled
  | .interframeSpaceEnd => Sys2Proof.Machine.execInterframeSpaceEnd s
  | .integrationComplete => Sys2Proof.Machine.execIntegrationComplete s
  | .holdOffEnd => Sys2Proof.Machine.execHoldOffEnd s
  | .drainEnd => Sys2Proof.Machine.execDrainEnd s
  | .idleSpan => Sys2Proof.Machine.execIdleSpan s
  | .recoveryTimeExpiry => Sys2Proof.Machine.execRecoveryTimeExpiry s
  | .syncRound => Sys2Proof.Machine.execSyncRound s
  | .listenWindowEnd => Sys2Proof.Machine.execListenWindowEnd s
  | .scheduleExpiry => Sys2Proof.Machine.execScheduleExpiry s
  | .staleTimeExpiry place => Sys2Proof.Machine.execStaleTimeExpiry place s
  | .pulseEnd line => Sys2Proof.Machine.execPulseEnd line s
  | .spacingEnd input => Sys2Proof.Machine.execSpacingEnd input s
  | .transactionBegin => Sys2Proof.Machine.execTransactionBegin s
  | .transactionEnd => Sys2Proof.Machine.execTransactionEnd s

end Sys2Proof.Machine
end

