-- ==== Sys2Proof/Machine/Step.lean ====
section
/-! DEFINITION. One step: the command at the front of the queue; on an empty queue the word of a step that waits, idle spans not yet counted, an expiry that is due, or else one reference cycle (assumption 2). -/

namespace Sys2Proof.Machine

/-- A step on an empty queue (R26, R32, R34, R39, assumption 2). -/
def State.idleStep (s : State) : Host.Outcome State Fault Refusal :=
  if s.csu.word.isSome then .next s.takeWord
  else if s.owesSpans then .next s.settleSpans
  else
    match s.nextDue with
    | some due => exec due.1 due.2
    | none => .next s.tick

/-- One step of the block. -/
def step (s : State) : Host.Outcome State Fault Refusal :=
  match s.pending with
  | c :: rest => exec c (s.setPending rest)
  | [] => s.idleStep

/-- A command put at the front of the queue. -/
def State.withCommand (c : Instr) (s : State) : State := s.setPending (c :: s.pending)

/-- The command a table word spells put at the front of the queue; the state unchanged where it spells none. -/
def State.withFetchWord (s : State) (nbits w : Nat) : State :=
  match decodeTableWord nbits w with
  | some c => s.withCommand c
  | none => s

end Sys2Proof.Machine
end

