-- ==== Sys2Proof/Machine/Pins.lean ====
section
/-! DEFINITION. Views: what the pins show and what the spec names but the state already determines (assumption 19). -/

namespace Sys2Proof.Machine

/-- What the LIU drives on BTX (01, table of 1.2; R12). -/
inductive BusDrive where
  | recessive
  | frame
  | dominantFlag
  deriving DecidableEq, Repr

/-- BTX by LIU state; a recessive flag drives recessive, and the ack bit of a receiver is acksSoundFrame. -/
def State.btx (s : State) : BusDrive :=
  match s.liu.state with
  | .sending => .frame
  | .flagging true _ => .dominantFlag
  | .flagging false _ => .recessive
  | .stopped | .integrating | .idle | .receiving | .delimiting _ | .spacing => .recessive

/-- Whether this station drives the ack slot of a sound frame (R9). -/
def State.acksSoundFrame (s : State) : Bool :=
  decide (s.liu.state = .receiving) && decide (s.stc.station ≠ .offline) && s.fcu.state.mayDrive

/-- A sender that samples a recessive ack slot detects an ACK error exactly when a peer is PRESENT (R9). -/
def State.ackSlotIsError (ackDominant : Bool) (s : State) : Bool := !ackDominant && decide (0 < s.presentPeers)

/-- NOTE is asserted exactly when a notice waits (R155). -/
def State.noteAsserted (s : State) : Bool := !s.lpu.notices.isEmpty

/-- The pin of a line in the present reference cycle, true for high, where no later event of the cycle moves the line: the pin shows the level after the last (R120). -/
def State.cuePin (line : Fin 8) (s : State) : Bool := s.clu.lines[line].pinHigh

/-- What the pin of a line showed in the last complete reference cycle: no gap between two events of one cycle appears in it (R120). -/
def State.drivenPin (line : Fin 8) (s : State) : Bool := s.clu.pins[line]

/-- SDO in the n-th byte after the one that completed the command; none is high impedance, with SEL high (R149). In a SEL-low period that pin reset found, in which no transaction is recognised, it is 0x00 as while a command is clocked in (assumption 32). -/
def State.sdoByte (n : Nat) (s : State) : Option Byte :=
  match s.lpu.transaction with
  | .idle => none
  | .receiving => some 0
  | .replying => some (s.lpu.reply.getD n 0)
  | .ignoring => some 0

/-- The bits SDO shifts out for those bytes, each most significant bit first: bit i of the bits after the edge that completed the command (R149). -/
def State.sdoBit (i : Nat) (s : State) : Option Bool := (s.sdoByte (i / 8)).map fun b => b.getMsbD (i % 8)

/-- The configuration store is frozen while LISTENING or JOINED (R143). -/
def State.frozen (s : State) : Bool := decide (s.stc.station ≠ .offline)

end Sys2Proof.Machine
end

