-- ==== Sys2Proof/Safety.lean ====
section
/-! DEFINITION. What every step keeps: invariants of the machine, each a property the spec states of a block's own state; and the words in which the statements speak of replies. -/

namespace Sys2Proof.Machine

/-! ## Words of the statements -/

/-- The port takes a command: none has been taken in the present SEL-low period (R149). That a command which comes while SEL is high stands for its whole transaction is the model's choice: assumption 11. -/
def State.PortOpen (s : State) : Prop := s.lpu.transaction = .idle ∨ s.lpu.transaction = .receiving

/-- A state whose port has latched a reply of a status code and a body: the previous-truncated flag joins the status byte and is cleared, and a command received within a SEL-low period is being replied to (R149, R150, R151). -/
def State.replied (code : Nat) (body : List Byte) (s : State) : State :=
  s.setLpu
    { s.lpu with
      transaction := if s.lpu.transaction = .receiving then .replying else s.lpu.transaction
      reply := BitVec.ofNat 8 ((if s.lpu.truncated then 128 else 0) + code) :: body
      truncated := false }

/-- Two states agree in station control, configuration, subscriptions and reactions, and in the queue of commands. -/
def State.SameSettings (s t : State) : Prop :=
  t.stc.config = s.stc.config ∧ t.iku.subscriptions = s.iku.subscriptions ∧ t.mku.reactions = s.mku.reactions
    ∧ t.pending = s.pending

/-! ## Invariants -/

/-- The score a fault state stands with (R20, R22, R25, R28). -/
def scoreFits : FaultState → Nat → Prop
  | .active, score => score ≤ 95
  | .guarded, score => 96 ≤ score ∧ score ≤ 191
  | .silenced, score => 192 ≤ score ∧ score ≤ 199
  | .barred, score => score ≤ 199

/-- Fault confinement: the score fits the fault state, at most 64 spans are counted, a run is below 12, spans, run and recovery time are held only while SILENCED, and with 64 spans counted no expiry and no step has reached the recovery time (R20 to R28). -/
def State.FaultOk (s : State) : Prop :=
  scoreFits s.fcu.state s.fcu.score ∧ s.fcu.spans ≤ 64 ∧ s.fcu.run < 12
    ∧ (s.fcu.state = .silenced ↔ s.fcu.recovery.isSome)
    ∧ (s.fcu.state ≠ .silenced → s.fcu.spans = 0 ∧ s.fcu.run = 0 ∧ s.fcu.owed = 0 ∧ s.fcu.timeReached = false)
    ∧ (s.fcu.spans = 64 → s.fcu.timeReached = false)

/-- Notices: at most 32 wait, the lost count is at most 255, and it is above 0 only while 32 wait (R155, R156). -/
def State.NoticesOk (s : State) : Prop :=
  s.lpu.notices.length ≤ 32 ∧ s.lpu.lost ≤ 255 ∧ (0 < s.lpu.lost → s.lpu.notices.length = 32)

/-- One line: a guarded line outside LOCKED is at its safe level with no pulse, and a line with a pulse is asserted (R123, R126). -/
def Line.Ok (told : SyncState) (l : Line) : Prop :=
  (l.guarded = true → told ≠ .locked → l.level = l.safe ∧ l.pulse = none) ∧ (l.pulse.isSome → l.level = true)

/-- Cue lines: every line is as R126 leaves it, and the CLU is told the sync state the AGU holds (R54, R121). -/
def State.LinesOk (s : State) : Prop :=
  s.clu.told = s.agu.sync ∧ ∀ i : Fin 8, s.clu.lines[i].Ok s.clu.told

/-- The schedule: at most 32 entries, no two with one key (R98). -/
def State.ScheduleOk (s : State) : Prop :=
  s.csu.schedule.length ≤ 32 ∧ (s.csu.schedule.map Entry.key).Nodup

/-- How far ahead of bus time an entry lies: 0 where its due time has just been reached, up to the horizon otherwise; behind, or beyond the horizon, only between a step and the CSU's handling of it (R39, R99, R114, R115). -/
def dueInBounds (word : Option StepWord) (now due : Micros) : Prop :=
  match word with
  | none => (due - now).toNat ≤ 2 ^ 30
  | some .forward => (due - now).toInt ≤ 2 ^ 30
  | some .backward => (due - now).toNat ≤ 2 ^ 30 + 2 ^ 31

/-- One entry stands before another: its due time is nearer; of two equal ones the lower origin id, then the lower cue number comes first (R99). -/
def standsBefore (word : Option StepWord) (now : Micros) (a b : Entry) : Prop :=
  let ahead : Micros → Int := fun due => if word = some .forward then (due - now).toInt else (due - now).toNat
  ahead a.due < ahead b.due
    ∨ ahead a.due = ahead b.due
      ∧ (a.key.origin < b.key.origin ∨ a.key.origin = b.key.origin ∧ a.key.number < b.key.number)

/-- The schedule stands in schedule order, every entry within its bounds ahead of bus time, and a period is 1 … 2^24 − 1 µs (R98, R99). -/
def State.ScheduleOrdered (s : State) : Prop :=
  s.csu.schedule.Pairwise (standsBefore s.csu.word s.micros)
    ∧ ∀ e ∈ s.csu.schedule, dueInBounds s.csu.word s.micros e.due
      ∧ ∀ r, e.rpt = some r → 1 ≤ r.period ∧ r.period < 2 ^ 24

/-- The peer table: an OFFLINE station holds no entry; an entry is of a valid station id that is not this station's own, with an offset that is a signed 36-bit difference; and no two entries are of one station (R33, R47, R48, R50, R66). -/
def State.PeersOk (s : State) : Prop :=
  (∀ (i : Fin 32) (p : Peer), s.agu.peers[i] = some p →
      s.stc.station ≠ .offline ∧ 1 ≤ p.station.toNat ∧ p.station.toNat ≤ 126 ∧ p.station ≠ s.stc.config.id
        ∧ ∀ o, p.offset = some o → -2 ^ 35 ≤ o ∧ o < 2 ^ 35)
    ∧ ∀ (i j : Fin 32) (p q : Peer), s.agu.peers[i] = some p → s.agu.peers[j] = some q → p.station = q.station →
      i = j

/-- The rate correction lies in its ranges (R35, R36, R52, R57, R58). -/
def State.RatesOk (s : State) : Prop :=
  (-200 ≤ s.btu.trim ∧ s.btu.trim ≤ 200) ∧ (-8000 ≤ s.btu.slew ∧ s.btu.slew ≤ 8000)
    ∧ s.btu.acc < Config.accumulatorModulus ∧ (-127 ≤ s.agu.residue ∧ s.agu.residue ≤ 127)
    ∧ s.agu.good ≤ 3 ∧ s.agu.fresh ≤ 32

/-- A station that is not JOINED holds no work and no agreement (R52, R66, R86, R119). -/
def State.Empty (s : State) : Prop :=
  s.agu.sync = .nosync ∧ s.agu.boundary = none ∧ s.agu.pendingBeat = none ∧ s.csu.schedule = []
    ∧ s.csu.word = none
    ∧ s.sq.records = [] ∧ s.sq.beat = none

/-- Station state: the LIU is STOPPED exactly while OFFLINE and not draining, a drain is of a frame being sent, the listen window is held exactly while LISTENING, and outside JOINED nothing is held (R2, R19, R142, R146). -/
def State.StationOk (s : State) : Prop :=
  (s.liu.state = .stopped ↔ s.stc.station = .offline ∧ s.stc.draining = false)
    ∧ (s.stc.draining = true → s.stc.station = .offline ∧ s.liu.state.drains = true)
    ∧ (s.stc.windowEnd.isSome ↔ s.stc.station = .listening)
    ∧ (s.stc.station ≠ .joined → s.Empty)

/-- The place of the attempt the LIU holds. -/
def State.attemptPlace (s : State) : Option Place := s.liu.attempt.map Attempt.place

/-- The cue number of a CUE record (R67). -/
def Record.cueNumber (r : Record) : Option CueNumber :=
  match r.body with
  | .cueBody c => some c.number
  | .recallBody _ => none
  | .markBody _ => none

/-- The send queue: the records stand in slot order, each in a slot of its own, and no two are CUE records of one cue number; only a RECALL is HELD; a record or BEAT in flight is the one whose attempt the LIU holds, so at most one is; and a BEAT is pending only behind one in flight that it supersedes (R4, R62, R67, R72, R73). -/
def State.QueueOk (s : State) : Prop :=
  s.sq.records.Pairwise (fun a b => a.tag.slot < b.tag.slot)
    ∧ (s.sq.records.filterMap Record.cueNumber).Nodup
    ∧ (∀ r ∈ s.sq.records, ∀ behind, r.state = .held behind → ∃ what, r.body = .recallBody what)
    ∧ (s.agu.pendingBeat.isSome → ∃ b, s.sq.beat = some b ∧ b.inFlight = true ∧ b.superseded = true)
    ∧ (∀ r ∈ s.sq.records, r.state = .inFlight → s.attemptPlace = some (.slot r.tag.slot))
    ∧ (∀ b, s.sq.beat = some b → b.inFlight = true → s.attemptPlace = some .beat)

end Sys2Proof.Machine
end

