-- ==== Sys2Proof/Certificates/Slice0/Obligations.lean ====
section
/-! DEFINITION. The statements for the provers, in the order of the spec's chapters: the queue and the step, the local port, configuration, posts, reads, marks, the station bus, times, and the invariants every step keeps. -/

open Sys2Proof Sys2Proof.Machine

/-! ## The queue and the step -/

/-- A step takes the command at the front of the queue, whole and indivisible as the spec's steps are (95). That commands wait in one queue, first in, first out, is the model's choice: assumption 1. -/
def Obligations.StepRunsFrontCommand : Prop :=
  ∀ (c : Instr) (rest : List Instr) (s : State), s.pending = c :: rest → step s = exec c (s.setPending rest)

/-- Reference cycles per quantum (R1). -/
def Claims.quantum : BitRate → Nat
  | .k125 => 8
  | .k250 => 4
  | .k500 => 2
  | .k1000 => 1

/-- One reference cycle of the counter. The cycle of a step has the step in place of its advance, and leaves the accumulator (R37, assumption 2). Every other cycle adds the magnitude of the combined correction to the accumulator: below 16 000 000 bus time advances by one sixteenth; from there on 16 000 000 is taken off, and it advances by two or by none, by the correction's sign; and without a correction it advances by one and the accumulator stays (R32, R36). The cycle that ends is kept as the cycle before, for the edges seen in it (R135). -/
def Claims.CounterTicks : Prop :=
  ∀ b : BtuState,
    let c := b.trim * 16 + b.slew
    let gained := b.acc + c.natAbs
    let passed : BtuState := { b with latch := b.time, latchFrom := b.stepFrom, stepFrom := none }
    (b.stepFrom.isSome → b.tick = passed)
    ∧ (b.stepFrom = none →
      (c = 0 → b.tick = { passed with time := b.time + 1 })
      ∧ (c ≠ 0 → gained < 16000000 → b.tick = { passed with time := b.time + 1, acc := gained })
      ∧ (0 < c → 16000000 ≤ gained → b.tick = { passed with time := b.time + 2, acc := gained - 16000000 })
      ∧ (c < 0 → 16000000 ≤ gained → b.tick = { passed with time := b.time, acc := gained - 16000000 }))

/-- The bits of a frame on the line before its payload: SOF, class, urgency, station and length, with their stuff bits (R5, R6). -/
def Claims.payloadStart (f : Frame) : Nat :=
  (stuff (false :: arbitrationField f ++ bitsOf 4 f.payload.length)).length

/-- The payload of the frame being sent began in a reference cycle before the present one: its first bit is behind, or running and not just begun (R41). -/
def Claims.payloadBegun (a : Attempt) (t : BitTiming) : Bool :=
  decide (Claims.payloadStart a.frame < t.bit ∨ t.bit = Claims.payloadStart a.frame ∧ 0 < t.cycle)

/-- An attempt whose stamp is copied from the capture of its own SOF where a condition holds: of a BEAT, and once (R16, R41). -/
def Claims.stampedBy (capture : Option Capture) (due : Attempt → Bool) (a : Attempt) : Attempt :=
  match a.place, a.stamp, capture with
  | .beat, none, some c => if due a then { a with stamp := some c.time } else a
  | _, _, _ => a

/-- A sample point in a bit of 16 quanta that no edge has moved, and a run below 12: what every state that runs reach has in IDLE (R1, R3, R26). -/
def Claims.IdleTiming (s : State) : Prop :=
  1 ≤ s.liu.settings.samplePoint ∧ s.liu.settings.samplePoint ≤ 16 ∧ s.liu.timing.shift = 0
    ∧ s.liu.timing.cycle < 16 * Claims.quantum s.liu.settings.bitRate ∧ s.fcu.run < 12

/-- The FCU outside SILENCED, ACTIVE with a score of 0: after a reset, and after the return from SILENCED (R27, R30). -/
def Claims.fcuAtRest : FcuState :=
  { score := 0, state := .active, spans := 0, run := 0, owed := 0, recovery := none, timeReached := false }

/-- Idle spans counted while SILENCED, up to 64, by an FCU that has taken the bits of them: the 64th returns the station with score 0 and FAULT_STATE where the recovery time has been reached (R22, R24, R26, R27). -/
def Claims.spansCounted (spans : Nat) (timeReached : Bool) (f : FcuState) (s : State) : State :=
  if s.fcu.spans < 64 ∧ 64 ≤ s.fcu.spans + spans ∧ timeReached then
    ((s.setFcu Claims.fcuAtRest).setLiu { s.liu with holdOff := false }).post (.faultState .silenced .active)
  else s.setFcu { f with spans := min 64 (s.fcu.spans + spans) }

/-- Whether the recovery time has been reached: noted before, or not ahead of bus time (R27, R33, assumption 37). -/
def Claims.recoveryReached (s : State) : Bool :=
  s.fcu.timeReached
    || s.fcu.recovery.any fun t => decide (¬(1 ≤ (t - s.micros).toNat ∧ (t - s.micros).toNat < 2 ^ 31))

/-- No idle span whose bits have been reported waits for its IDLE_SPAN (assumption 38). -/
def Claims.noSpanWaits (s : State) : Prop := s.fcu.state = .silenced → s.fcu.owed ≤ 0

/-- One reference cycle on an empty queue: the counter, the pins, the bit timing, the stamp copied, and the bit of an idle line that passes its sample point, with the span it completes and the return that this may bring; nothing else moves (R1, R16, R26, R27, R36, R37, R41, R120, R155). That such a span is the clock's, so that an IDLE_SPAN of the same cycle counts no other, is assumption 38. -/
def Claims.CyclePasses : Prop :=
  ∀ s : State, s.pending = [] → s.csu.word = none → Claims.noSpanWaits s → (∀ x ∈ s.timers, x.2 ≠ s.micros) →
    (s.fcu.state = .silenced → s.liu.state = .idle → Claims.IdleTiming s) →
    let q := Claims.quantum s.liu.settings.bitRate
    let bit := decide (s.fcu.state = .silenced ∧ s.liu.state = .idle
      ∧ s.liu.timing.cycle + 1 = s.liu.settings.samplePoint * q)
    let span := bit && decide (s.fcu.run = 11)
    ∃ t u : State, step s = .next t
      ∧ t = (if bit then Claims.spansCounted (if span then 1 else 0) u.fcu.timeReached
          { u.fcu with run := (u.fcu.run + 1) % 12 } u else u)
      ∧ u.btu = s.btu.tick ∧ u.clu = { s.clu with pins := u.clu.pins }
      ∧ u.spent = (if span then [.idleSpan] else [])
      ∧ u.liu = { s.liu with timing := u.liu.timing, attempt := s.liu.attempt.map (Claims.stampedBy s.btu.capture
          fun a => decide (s.liu.state = .sending) && Claims.payloadBegun a u.liu.timing) }
      ∧ (∀ i : Fin 8, u.clu.pins[i] = (s.clu.lines[i].level != s.clu.lines[i].lowTrue))
      ∧ (s.liu.state = .stopped → u.liu.timing = s.liu.timing)
      ∧ (s.liu.state ≠ .stopped → s.liu.timing.shift = 0 → s.liu.timing.cycle < 16 * q →
        let gone := s.liu.timing.cycle + 1
        u.liu.timing.cycle = gone % (16 * q) ∧ u.liu.timing.bit = s.liu.timing.bit + gone / (16 * q))
      ∧ u.fcu = s.fcu ∧ u.stc = s.stc ∧ u.agu = s.agu ∧ u.sq = s.sq ∧ u.iku = s.iku ∧ u.csu = s.csu
      ∧ u.mku = s.mku ∧ u.lpu = s.lpu ∧ u.pending = s.pending ∧ u.draws = s.draws
      ∧ u.posted = { s.posted with recent := 0, shut := [] }

/-- On an empty queue a step makes the step handling whose word waits at the CSU, counts idle spans whose bits have been reported, takes an expiry that is due in the present µs, or passes one reference cycle where none is due: the counter advances, or has advanced by the step of this cycle, the pins show the lines as the cycle leaves them, the LIU's bit timing runs on and the stamp of a BEAT whose payload has begun is copied, and a SILENCED station counts a bit of the idle line that passes its sample point, and the idle span and the return that it completes (R1, R16, R26, R27, R32, R36, R37, R41, R120). The counter's cycle is stated in full, with the doubled, the dropped and the step's sixteenths. Which of several expiries due is taken is a free value (R34, assumption 4). What an empty queue does, the word of a step first and a step in place of an advance, is the model's choice: assumptions 2 and 5; that the bit timing runs free is assumption 7, what is kept of the cycle before is assumption 27, and when a span is counted is assumption 38. -/
def Obligations.EmptyQueueStepTakesExpiryOrCycle : Prop :=
  Claims.CounterTicks
    ∧ (∀ (w : StepWord) (s : State), s.pending = [] → s.csu.word = some w → step s = .next s.takeWord)
    ∧ (∀ s : State, s.pending = [] → s.csu.word = none → s.fcu.state = .silenced → 0 < s.fcu.owed →
      step s = .next
        (Claims.spansCounted s.fcu.owed.toNat (Claims.recoveryReached s) { s.fcu with owed := 0 } s))
    ∧ Claims.CyclePasses
    ∧ (∀ (c : Instr) (s : State), s.pending = [] → s.csu.word = none → Claims.noSpanWaits s → s.dueNow = [c] →
      step s = exec c s)
    ∧ ∀ s : State, s.pending = [] → s.csu.word = none → Claims.noSpanWaits s →
      (∃ x ∈ s.timers, x.2 = s.micros) →
      ∃ c : Instr, (c, s.micros) ∈ s.timers
        ∧ ∃ u : State, (u = s ∨ u = s.setDraws (s.draws + 1)) ∧ step s = exec c u

/-- The machine right after pin reset (R30, R45, R66, R86, R96, R119, R130, R141, R143, R148, R157). The LIU's settings before the first JOIN, and the reading of the cycle before the first, are the model's choices: assumptions 18 and 27. -/
def Claims.ResetValues : Prop :=
  State.reset.stc = { station := .offline, draining := false, windowEnd := none, config :=
      { id := 0, bitRate := .k500, samplePoint := 12, jump := 2, beatMs := 100, threshold := 1000, lockBound := 32
        quorum := 1, lateWindow := 100, sendMargin := 500, urgencyStep := 1000, markMs := 10 } }
    ∧ State.reset.liu.state = .stopped ∧ State.reset.liu.attempt = none ∧ State.reset.liu.holdOff = false
    ∧ State.reset.liu.settings = { id := 0, bitRate := .k500, samplePoint := 12, jump := 2 }
    ∧ State.reset.fcu = Claims.fcuAtRest
    ∧ State.reset.btu =
        { time := 0, trim := 0, slew := 0, acc := 0, capture := none, stepFrom := none, latch := 0, latchFrom := none }
    ∧ (∀ i : Fin 32, State.reset.agu.peers[i] = none) ∧ State.reset.agu.sync = .nosync
    ∧ State.reset.agu.good = 0 ∧ State.reset.agu.boundary = none ∧ State.reset.agu.fresh = 0
    ∧ State.reset.agu.residue = 0 ∧ State.reset.agu.sequence = 0 ∧ State.reset.agu.pendingBeat = none
    ∧ State.reset.agu.fullNotice = false
    ∧ State.reset.sq.records = [] ∧ State.reset.sq.beat = none ∧ (∀ i : Fin 16, State.reset.sq.generations[i] = 0)
    ∧ (∀ i : Fin 16, State.reset.iku.subscriptions[i] =
        { enabled := false, code := 0, mask := 0, target := none, notify := false })
    ∧ State.reset.iku.malformed = 0 ∧ State.reset.iku.unsubscribed = 0 ∧ State.reset.iku.noticed = false
    ∧ State.reset.csu.schedule = [] ∧ State.reset.csu.word = none
    ∧ (∀ i : Fin 8, State.reset.clu.pins[i] = false)
    ∧ (∀ i : Fin 8, State.reset.clu.lines[i] =
        { level := false, pulse := none, lowTrue := false, guarded := false, safe := false })
    ∧ State.reset.clu.told = .nosync
    ∧ (∀ i : Fin 4, State.reset.mku.inputs[i] =
        { select := .off, announce := false, notify := false, spacing := 0, spacingEnd := none, sequence := 0 })
    ∧ (∀ i : Fin 8, State.reset.mku.reactions[i] =
        { enabled := false, source := 0, input := 0, edge := .either, offset := 0, action := .note
          target := none, width := none, notify := false })
    ∧ State.reset.lpu.truncated = false ∧ State.reset.lpu.notices = [] ∧ State.reset.lpu.lost = 0
    ∧ State.reset.pending = [] ∧ State.reset.spent = []
    ∧ State.reset.posted.recent = 0 ∧ State.reset.posted.shut = []

/-! ## The local port -/

/-- The kind byte of a notice, and bytes 5 to 11 of its record (R158, R159). -/
def Claims.noticeFields : NoticeBody → Byte × List Byte
  | .schedule kind key line skipped =>
    (match kind with
      | .fired => 1 | .firedLate => 2 | .missed => 3 | .suppressed => 4 | .overlap => 5 | .revised => 6
      | .evicted => 7 | .dropped => 8 | .outOfRange => 9 | .recalled => 10,
      [BitVec.ofNat 8 key.origin.toNat, BitVec.ofNat 8 (key.number.toNat / 256), BitVec.ofNat 8 key.number.toNat,
        match line with | some i => BitVec.ofNat 8 i.val | none => 255,
        BitVec.ofNat 8 (skipped / 256), BitVec.ofNat 8 skipped, 0])
  | .sendQueue kind tag unheard late =>
    (match kind with | .sent => 16 | .stale => 17 | .withdrawn => 18 | .failed => 19,
      [BitVec.ofNat 8 (tag.slot.val * 16 + tag.generation.toNat),
        BitVec.ofNat 8 ((if unheard then 1 else 0) + if late then 2 else 0), 0, 0, 0, 0, 0])
  | .mark kind input edge sequence =>
    (match kind with | .captured => 24 | .markLost => 25,
      [BitVec.ofNat 8 input.val, match edge with | .rising => 0 | .falling => 1, sequence, 0, 0, 0, 0])
  | .syncState old new =>
    let code : SyncState → Byte := fun y =>
      match y with | .nosync => 0 | .alone => 1 | .seeking => 2 | .locked => 3 | .adrift => 4
    (32, [code old, code new, 0, 0, 0, 0, 0])
  | .faultState old new =>
    let code : FaultState → Byte := fun y =>
      match y with | .active => 0 | .guarded => 1 | .silenced => 2 | .barred => 3
    (33, [code old, code new, 0, 0, 0, 0, 0])
  | .peerState peer change =>
    (34, [BitVec.ofNat 8 peer.toNat, match change with | .present => 0 | .silent => 1 | .freed => 2, 0, 0, 0, 0, 0])
  | .peer kind peer =>
    (match kind with | .peersFull => 35 | .idClash => 36 | .malformed => 40,
      [BitVec.ofNat 8 peer.toNat, 0, 0, 0, 0, 0, 0])
  | .joined sync =>
    (48, [match sync with | .nosync => 0 | .alone => 1 | .seeking => 2 | .locked => 3 | .adrift => 4, 0, 0, 0, 0, 0, 0])
  | .restarted => (49, [0, 0, 0, 0, 0, 0, 0])
  | .lost count => (50, [BitVec.ofNat 8 count, 0, 0, 0, 0, 0, 0])

/-- The block that posts a notice of a kind (R22, R28, R47, R49, R54, R84, R91, R117, R135, R146, R147, R156). -/
def Claims.poster : NoticeBody → Poster
  | .schedule _ _ _ _ => .csu
  | .sendQueue _ _ _ _ => .sq
  | .mark _ _ _ _ => .mku
  | .peerState _ _ | .peer .peersFull _ | .syncState _ _ => .agu
  | .faultState _ _ | .peer .idClash _ => .fcu
  | .peer .malformed _ => .iku
  | .joined _ | .restarted => .stc
  | .lost _ => .lpu

/-- A posted notice joins the back of the queue, with the µs part of bus time at its posting. It may stand in front of notices that other blocks posted in the same reference cycle, and behind every one of its own block's: which is a free value (assumption 34). Where 32 wait the last of the 33 is lost and counted, to at most 255, and what its block posts next in this cycle comes after it (R155). -/
def Claims.PostJoinsQueue : Prop :=
  ∀ (body : NoticeBody) (s : State),
    let n : Notice := { posted := s.micros, body := body }
    ∃ (front back : List Notice) (drawn : Nat), s.lpu.notices = front ++ back
      ∧ (∀ x ∈ back, Claims.poster x.body ≠ Claims.poster body) ∧ back.length ≤ s.posted.recent
      ∧ (Claims.poster body ∈ s.posted.shut → back = [])
      ∧ (s.lpu.notices.length < 32 →
        s.post body =
          (s.setLpu { s.lpu with notices := front ++ n :: back }).setPosted
            { recent := s.posted.recent + 1, shut := s.posted.shut, drawn := drawn })
      ∧ ∀ last, 32 ≤ s.lpu.notices.length → (front ++ n :: back).getLast? = some last →
        s.post body =
          (s.setLpu
              { s.lpu with notices := (front ++ n :: back).dropLast, lost := min 255 (s.lpu.lost + 1) }).setPosted
            { recent := s.posted.recent, shut := Claims.poster last.body :: s.posted.shut, drawn := drawn }

/-- A posted notice joins the back of the queue with the µs part of bus time, or is counted as lost where 32 wait; among the notices of different blocks in one reference cycle its place is free; NOTE is asserted exactly while a notice waits; and a notice's record is its kind, its posting time and its kind's fields, the bytes that no field uses 0 (R155, R158, R159). How the model holds the free order is assumption 34. -/
def Obligations.NoticePosted : Prop :=
  (∀ n : Notice,
      n.bytes = (Claims.noticeFields n.body).1
        :: [BitVec.ofNat 8 (n.posted.toNat / 16777216), BitVec.ofNat 8 (n.posted.toNat / 65536),
          BitVec.ofNat 8 (n.posted.toNat / 256), BitVec.ofNat 8 n.posted.toNat]
        ++ (Claims.noticeFields n.body).2)
    ∧ Claims.PostJoinsQueue
    ∧ ∀ s : State, s.noteAsserted = true ↔ s.lpu.notices ≠ []

/-- The notices of some kinds, all of one block, that an event posts: they stand behind those of the same kinds that waited, in the order the block posts them; the order among different blocks is free (R155, assumption 34). Where the queue has come to hold 32 a notice may have been lost, and nothing is said. -/
def Claims.posts (kinds : NoticeBody → Bool) (s t : State) (expected : List Notice) : Prop :=
  t.lpu.notices.length < 32 →
    (t.lpu.notices.filter fun n => kinds n.body) = (s.lpu.notices.filter fun n => kinds n.body) ++ expected

/-- Notices with one posting time. -/
def Claims.noticesAt (now : Micros) (bodies : List NoticeBody) : List Notice :=
  bodies.map fun body => { posted := now, body := body }

/-- The completion notices of the SQ (R84). -/
def Claims.isCompletion (body : NoticeBody) : Bool :=
  match body with
  | .sendQueue _ _ _ _ => true
  | _ => false

/-- FAULT_STATE (R22). -/
def Claims.isFaultState (body : NoticeBody) : Bool :=
  match body with
  | .faultState _ _ => true
  | _ => false

/-- FAULT_STATE and ID_CLASH (R22, R28). -/
def Claims.isFaultOrClash (body : NoticeBody) : Bool :=
  match body with
  | .faultState _ _ => true
  | .peer .idClash _ => true
  | _ => false

/-- The notices of the AGU (R47, R49, R54). -/
def Claims.isAgreement (body : NoticeBody) : Bool :=
  match body with
  | .peerState _ _ => true
  | .peer .peersFull _ => true
  | .syncState _ _ => true
  | _ => false

/-- The schedule notices of the CSU (R117). -/
def Claims.isSchedule (body : NoticeBody) : Bool :=
  match body with
  | .schedule _ _ _ _ => true
  | _ => false

/-- The notices of STC (R146, R147). -/
def Claims.isStation (body : NoticeBody) : Bool :=
  match body with
  | .joined _ => true
  | .restarted => true
  | _ => false

/-- What SDO shifts out: high impedance while SEL is high; 0x00 while the command is clocked in; then the reply, byte by byte, and 0x00 after its last; each byte most significant bit first (R149). In a SEL-low period that pin reset found, 0x00 is the model's choice: assumption 32. -/
def Claims.SdoShiftsReply : Prop :=
  (∀ (n : Nat) (s : State),
      (s.lpu.transaction = .idle → s.sdoByte n = none)
      ∧ (s.lpu.transaction = .receiving ∨ s.lpu.transaction = .ignoring → s.sdoByte n = some 0)
      ∧ (s.lpu.transaction = .replying →
        (∀ b, s.lpu.reply[n]? = some b → s.sdoByte n = some b) ∧ (s.lpu.reply.length ≤ n → s.sdoByte n = some 0)))
    ∧ ∀ (n i : Nat) (s : State), i < 8 →
      s.sdoBit (8 * n + i) = (s.sdoByte n).map fun b => decide (b.toNat / 2 ^ (7 - i) % 2 = 1)

/-- SEL falls and rises: a transaction begins, ends after its command was taken, or is truncated, which sets the previous-truncated flag and does nothing else; and what SDO shifts out meanwhile (R149, R150). What TRANSACTION_END does before the command is taken, each of them in a state the spec does not give it for, and SDO in a SEL-low period that pin reset found, are the model's choices: assumptions 8, 11 and 32. -/
def Obligations.TransactionsBeginAndEnd : Prop :=
  (∀ s : State, s.lpu.transaction = .idle →
      exec .transactionBegin s = .next (s.setLpu { s.lpu with transaction := .receiving }))
    ∧ (∀ s : State, s.lpu.transaction ≠ .idle → exec .transactionBegin s = .next s)
    ∧ (∀ s : State, s.lpu.transaction = .replying ∨ s.lpu.transaction = .ignoring →
      exec .transactionEnd s = .next (s.setLpu { s.lpu with transaction := .idle })
        ∧ exec .transactionTruncated s = .next (s.setLpu { s.lpu with transaction := .idle }))
    ∧ (∀ s : State, s.PortOpen →
      exec .transactionTruncated s = .next (s.setLpu { s.lpu with transaction := .idle, truncated := true }))
    ∧ (∀ s : State, s.lpu.transaction = .receiving →
      exec .transactionEnd s = .next (s.setLpu { s.lpu with transaction := .idle, truncated := true }))
    ∧ (∀ s : State, s.lpu.transaction = .idle → exec .transactionEnd s = .next s)
    ∧ Claims.SdoShiftsReply

/-- A transaction carries one command: a command that comes after one was taken, or in a SEL-low period that pin reset found, is ignored (R149). -/
def Claims.CommandAfterTakingIgnored : Prop :=
  ∀ (c : Instr) (s : State), (commandBytes c).isSome →
    s.lpu.transaction = .replying ∨ s.lpu.transaction = .ignoring → exec c s = .next s

/-- A command code that R159 does not assign is answered with BAD_COMMAND, status code 11, and has no other effect (R151, R159). -/
def Claims.BadCommandHasNoEffect : Prop :=
  ∀ (code : Byte) (s : State), s.PortOpen →
    code ∉ ([0x01, 0x02, 0x03, 0x04, 0x05, 0x08, 0x09, 0x10, 0x11, 0x12, 0x20, 0x21, 0x22, 0x23, 0x24, 0x25] : List Byte) →
    exec (.badCommand code) s = .next (s.replied 11 [])

/-- A command after the one a transaction carries is ignored, and an unassigned code is answered with BAD_COMMAND and has no other effect (R149, R151). -/
def Obligations.PortIgnoresAndRejects : Prop :=
  Claims.CommandAfterTakingIgnored
    ∧ Claims.BadCommandHasNoEffect

/-! ## Configuration and station life -/

/-- SET_STATION while OFFLINE, with every value in the range of R143, writes the twelve station settings and nothing else (R144). -/
def Obligations.SetStationWritesSettings : Prop :=
  ∀ (a : StationArgs) (rate : BitRate) (s : State), s.PortOpen → s.stc.station = .offline →
    1 ≤ a.id.toNat → a.id.toNat ≤ 126 →
    (a.bitRate = 0 ∧ rate = .k125 ∨ a.bitRate = 1 ∧ rate = .k250 ∨ a.bitRate = 2 ∧ rate = .k500
      ∨ a.bitRate = 3 ∧ rate = .k1000) →
    10 ≤ a.samplePoint.toNat → a.samplePoint.toNat ≤ 14 → 1 ≤ a.jump.toNat → a.jump.toNat ≤ 4 →
    10 ≤ a.beatMs.toNat → a.beatMs.toNat ≤ 1000 → 1 ≤ a.threshold.toNat → 1 ≤ a.lockBound.toNat →
    a.quorum.toNat ≤ 31 → 100 ≤ a.sendMargin.toNat → 100 ≤ a.urgencyStep.toNat →
    1 ≤ a.markMs.toNat → a.markMs.toNat ≤ 1000 →
    exec (.setStation a) s = .next
      ((s.setStc
          { s.stc with
            config :=
              { id := BitVec.ofNat 7 a.id.toNat, bitRate := rate, samplePoint := a.samplePoint.toNat
                jump := a.jump.toNat, beatMs := a.beatMs.toNat, threshold := a.threshold.toNat
                lockBound := a.lockBound.toNat, quorum := a.quorum.toNat, lateWindow := a.lateWindow.toNat
                sendMargin := a.sendMargin.toNat, urgencyStep := a.urgencyStep.toNat
                markMs := a.markMs.toNat } }).replied 0 [])

/-- SET_LINE while OFFLINE writes the named line's polarity, guarded flag and safe level and moves the line to its new safe level, which its pin shows through the new polarity; no other line changes (R120, R129, R144). -/
def Obligations.SetLineMovesLineToSafeLevel : Prop :=
  ∀ (a : LineArgs) (line : Fin 8) (s : State), s.PortOpen → s.stc.station = .offline → a.line.toNat = line.val →
    exec (.setLine a) s = .next
        ((s.setClu
          { s.clu with
            lines := s.clu.lines.set line
              { level := a.safe, pulse := none, lowTrue := a.lowTrue, guarded := a.guarded
                safe := a.safe } }).replied 0 [])
      ∧ ∀ t, exec (.setLine a) s = .next t → t.cuePin line = (a.safe != a.lowTrue)

/-- SET_INPUT while OFFLINE replaces the named input's four configuration fields and leaves its spacing end and mark sequence (R131, R144). -/
def Claims.SetInputWritesConfiguration : Prop :=
  ∀ (a : InputArgs) (input : Fin 4) (select : EdgeSelect) (s : State), s.PortOpen → s.stc.station = .offline →
    a.input.toNat = input.val →
    (a.select = 0 ∧ select = .off ∨ a.select = 1 ∧ select = .rising ∨ a.select = 2 ∧ select = .falling
      ∨ a.select = 3 ∧ select = .either) →
    exec (.setInput a) s = .next
      ((s.setMku
          { s.mku with
            inputs := s.mku.inputs.set input
              { select := select, announce := a.announce, notify := a.notify, spacing := a.spacing.toNat
                spacingEnd := s.mku.inputs[input].spacingEnd
                sequence := s.mku.inputs[input].sequence } }).replied 0 [])

/-- SET_SUBSCRIPTION while OFFLINE replaces every field of the named entry (R94, R144). -/
def Claims.SetSubscriptionWritesEntry : Prop :=
  ∀ (a : SubscriptionArgs) (entry : Fin 16) (target : Target) (s : State), s.PortOpen →
    s.stc.station = .offline → a.entry.toNat = entry.val →
    (a.target = 0xFF ∧ target = none ∨ ∃ line : Fin 8, a.target.toNat = line.val ∧ target = some line) →
    exec (.setSubscription a) s = .next
      ((s.setIku
          { s.iku with
            subscriptions := s.iku.subscriptions.set entry
              { enabled := a.enabled, code := a.code, mask := a.mask, target := target
                notify := a.notify } }).replied 0 [])

/-- SET_REACTION while OFFLINE replaces every field of the named entry; the width is checked and kept only for PULSE (R137, R144). -/
def Claims.SetReactionWritesEntry : Prop :=
  ∀ (a : ReactionArgs) (entry : Fin 8) (input : Fin 4) (edge : EdgeMatch) (action : Action) (target : Target)
    (s : State), s.PortOpen → s.stc.station = .offline → a.entry.toNat = entry.val → a.source.toNat ≤ 126 →
    a.input.toNat = input.val →
    (a.edge = 1 ∧ edge = .rising ∨ a.edge = 2 ∧ edge = .falling ∨ a.edge = 3 ∧ edge = .either) →
    a.offset.toNat ≤ 1048575 → a.action.toNat = action.code →
    (a.target = 0xFF ∧ target = none ∨ ∃ line : Fin 8, a.target.toNat = line.val ∧ target = some line) →
    (action = .pulse → 1 ≤ a.width.toNat) →
    exec (.setReaction a) s = .next
      ((s.setMku
          { s.mku with
            reactions := s.mku.reactions.set entry
              { enabled := a.enabled, source := BitVec.ofNat 7 a.source.toNat, input := input, edge := edge
                offset := a.offset.toNat, action := action, target := target
                width := if action = .pulse then some a.width else none, notify := a.notify } }).replied 0 [])

/-- SET_INPUT, SET_SUBSCRIPTION and SET_REACTION while OFFLINE, with their values in range, each replace the configuration of the named input or entry and nothing else (R94, R131, R137, R144). -/
def Obligations.SetTablesWriteNamedEntry : Prop :=
  Claims.SetInputWritesConfiguration
    ∧ Claims.SetSubscriptionWritesEntry
    ∧ Claims.SetReactionWritesEntry

/-- A configuration command outside OFFLINE is refused with REFUSED_STATE (code 4), and one with a value out of its range with REFUSED_RANGE (code 6); a refused command changes no field (R144). -/
def Obligations.ConfigurationRefused : Prop :=
  (∀ (c : Instr) (s : State), s.PortOpen → s.stc.station ≠ .offline →
      ((∃ a, c = .setStation a) ∨ (∃ a, c = .setLine a) ∨ (∃ a, c = .setInput a) ∨ (∃ a, c = .setSubscription a)
        ∨ ∃ a, c = .setReaction a) →
      exec c s = .next (s.replied 4 []))
    ∧ (∀ (a : StationArgs) (s : State), s.PortOpen → s.stc.station = .offline →
      (a.id.toNat = 0 ∨ 126 < a.id.toNat ∨ 3 < a.bitRate.toNat ∨ a.samplePoint.toNat < 10 ∨ 14 < a.samplePoint.toNat
        ∨ a.jump.toNat = 0 ∨ 4 < a.jump.toNat ∨ a.beatMs.toNat < 10 ∨ 1000 < a.beatMs.toNat ∨ a.threshold.toNat = 0
        ∨ a.lockBound.toNat = 0 ∨ 31 < a.quorum.toNat ∨ a.sendMargin.toNat < 100 ∨ a.urgencyStep.toNat < 100
        ∨ a.markMs.toNat = 0 ∨ 1000 < a.markMs.toNat) →
      exec (.setStation a) s = .next (s.replied 6 []))
    ∧ (∀ (a : LineArgs) (s : State), s.PortOpen → s.stc.station = .offline → 8 ≤ a.line.toNat →
      exec (.setLine a) s = .next (s.replied 6 []))
    ∧ (∀ (a : InputArgs) (s : State), s.PortOpen → s.stc.station = .offline → 4 ≤ a.input.toNat →
      exec (.setInput a) s = .next (s.replied 6 []))
    ∧ (∀ (a : SubscriptionArgs) (s : State), s.PortOpen → s.stc.station = .offline →
      (16 ≤ a.entry.toNat ∨ 8 ≤ a.target.toNat ∧ a.target ≠ 0xFF) →
      exec (.setSubscription a) s = .next (s.replied 6 []))
    ∧ ∀ (a : ReactionArgs) (s : State), s.PortOpen → s.stc.station = .offline →
      (8 ≤ a.entry.toNat ∨ 126 < a.source.toNat ∨ 4 ≤ a.input.toNat ∨ a.edge = 0 ∨ 1048575 < a.offset.toNat
        ∨ 5 ≤ a.action.toNat ∨ 8 ≤ a.target.toNat ∧ a.target ≠ 0xFF ∨ a.action = 3 ∧ a.width = 0) →
      exec (.setReaction a) s = .next (s.replied 6 [])

/-- JOIN: the four checks in order, each with its refusal, and what a JOIN that passes does in its one event (R145). That the bit timing begins at the start of a bit is the model's choice: assumption 35. -/
def Obligations.JoinChecksAndStarts : Prop :=
  (∀ s : State, s.PortOpen → s.stc.station ≠ .offline → exec .join s = .next (s.replied 4 []))
    ∧ (∀ s : State, s.PortOpen → s.stc.station = .offline → s.stc.draining = true →
      exec .join s = .next (s.replied 9 []))
    ∧ (∀ s : State, s.PortOpen → s.stc.station = .offline → s.stc.draining = false →
      s.stc.config.id.toNat = 0 ∨ 126 < s.stc.config.id.toNat → exec .join s = .next (s.replied 10 [1]))
    ∧ (∀ s : State, s.PortOpen → s.stc.station = .offline → s.stc.draining = false →
      1 ≤ s.stc.config.id.toNat → s.stc.config.id.toNat ≤ 126 →
      s.stc.config.threshold * 16 ≤ s.stc.config.lockBound → exec .join s = .next (s.replied 10 [2]))
    ∧ ∀ s : State, s.PortOpen → s.stc.station = .offline → s.stc.draining = false →
      1 ≤ s.stc.config.id.toNat → s.stc.config.id.toNat ≤ 126 → s.stc.config.lockBound < s.stc.config.threshold * 16 →
      exec .join s = .next
        (((s.setLiu
              { s.liu with
                state := .integrating
                settings :=
                  { id := s.stc.config.id, bitRate := s.stc.config.bitRate
                    samplePoint := s.stc.config.samplePoint, jump := s.stc.config.jump }
                timing := { bit := 0, cycle := 0, shift := 0, resynced := false } }).setStc
            { s.stc with
              station := .listening
              windowEnd := some (s.micros + BitVec.ofNat 32 (2 * (s.stc.config.beatMs * 1000))) }).replied 0 [])

/-- Whether RESTART finds the LIU SENDING, or FLAGGING or DELIMITING after an error detected as sender (R19). -/
def Claims.draining (l : LiuState) : Prop :=
  l = .sending ∨ l = .flagging true .sender ∨ l = .flagging false .sender ∨ l = .delimiting .sender

/-- RESTART in any state: every block at its RESTART values, RESTARTED alone in the notice queue, and a drain exactly where the LIU is SENDING, or FLAGGING or DELIMITING after an error detected as sender; in a drain the LIU keeps to its frame and the capture is kept, and otherwise the LIU is STOPPED and holds no attempt (R1, R2, R19, R30, R40, R45, R66, R86, R96, R119, R130, R141, R147). What the MKU, the CLU and the IKU keep is named. The model's choices: an offer not yet driven is dropped (assumption 29), a STOPPED LIU keeps its settings (18) and its bit timing (35), the reply reports and clears the previous-truncated flag (33), and the model's own counters (17). -/
def Obligations.RestartResetsEveryBlock : Prop :=
  ∀ s : State, s.PortOpen → ∃ t : State, exec .restart s = .next (t.replied 0 [])
    ∧ t.stc = { s.stc with station := .offline, windowEnd := none, draining := t.stc.draining }
    ∧ (Claims.draining s.liu.state → t.stc.draining = true
        ∧ t.liu = { s.liu with ownEnded := false, holdOff := false } ∧ t.btu.capture = s.btu.capture)
    ∧ (¬Claims.draining s.liu.state → t.stc.draining = false
        ∧ t.liu = { s.liu with state := .stopped, attempt := none, ownEnded := false, holdOff := false }
        ∧ t.btu.capture = none)
    ∧ t.fcu = Claims.fcuAtRest
    ∧ t.btu = { s.btu with trim := 0, slew := 0, acc := 0, capture := t.btu.capture }
    ∧ (∀ i : Fin 32, t.agu.peers[i] = none) ∧ t.agu.sync = .nosync ∧ t.agu.boundary = none ∧ t.agu.good = 0
    ∧ t.agu.fresh = 0 ∧ t.agu.residue = 0 ∧ t.agu.sequence = 0 ∧ t.agu.pendingBeat = none
    ∧ t.agu.fullNotice = false
    ∧ t.sq.records = [] ∧ t.sq.beat = none ∧ (∀ i : Fin 16, t.sq.generations[i] = 0) ∧ t.sq.nextOrder = 0
    ∧ t.iku = { s.iku with malformed := 0, unsubscribed := 0, noticed := false }
    ∧ t.csu = { schedule := [], word := none }
    ∧ t.clu = { s.clu with lines := t.clu.lines, told := .nosync }
    ∧ (∀ i : Fin 8, t.clu.lines[i] = { s.clu.lines[i] with level := s.clu.lines[i].safe, pulse := none })
    ∧ (∀ i : Fin 4, t.mku.inputs[i] = { s.mku.inputs[i] with spacingEnd := none, sequence := 0 })
    ∧ t.mku.reactions = s.mku.reactions
    ∧ t.lpu = { s.lpu with notices := [{ posted := s.micros, body := .restarted }], lost := 0 }
    ∧ t.pending = s.pending ∧ t.spent = [] ∧ t.draws = s.draws
    ∧ t.posted = { s.posted with recent := 0, shut := [] }

/-- PIN_RESET: every block at its pin-reset values, and no transaction recognised until SEL falls again (R148, R149). The model's: SEL keeps its level (assumption 13), the reply is empty (12), the queue and the draws stay (30), and the values of the LIU's settings (18) and bit timing (35). -/
def Claims.PinResetRestoresEveryDefault : Prop :=
  ∀ s : State, exec .pinReset s = .next
    { State.reset with
      lpu := { State.reset.lpu with transaction := if s.lpu.transaction = .idle then .idle else .ignoring }
      pending := s.pending
      posted := { s.posted with recent := 0, shut := [] }
      draws := s.draws }

/-- The values after pin reset, and PIN_RESET in any state, which puts every block at those values and recognises no transaction until SEL falls again (R148, R149). The model's choices: SEL keeps its level (assumption 13), the reply is empty (12), the LIU's settings and bit timing (18, 35), the reading of the cycle before the first (27), and the queue and the draws stay (30). -/
def Obligations.ResetAndPinReset : Prop :=
  Claims.ResetValues
    ∧ Claims.PinResetRestoresEveryDefault

/-! ## Posts, recalls, withdrawal -/

/-- The CUE record a SHARED post creates (R67, R68, R69), at the next place of the entry order. -/
def Claims.cueRecord (a : CueArgs) (action : Action) (slot : Fin 16) (s : State) : Record :=
  { tag := { slot := slot, generation := s.sq.generations[slot] }
    body := .cueBody
      { number := BitVec.ofNat 12 a.cue.toNat, action := action, topic := a.topic
        due := if a.lead then s.micros + a.due else a.due
        width := if action = .pulse then some a.width else none
        rpt := if a.repeatPresent then some { period := a.period.toNat, count := a.count.toNat } else none }
    stale := some ((if a.lead then s.micros + a.due else a.due) - BitVec.ofNat 32 s.stc.config.sendMargin)
    state := .waiting, withdrawPending := false, errors := 0, order := s.sq.nextOrder }

/-- POST_CUE, SHARED: a post that passes the five checks creates one CUE record, WAITING, in the lowest free slot, with stale time due less send margin, and replies with its tag; nothing else changes (R68, R69, R152). -/
def Obligations.SharedPostCreatesCueRecord : Prop :=
  ∀ (a : CueArgs) (action : Action) (slot : Fin 16) (s : State), s.PortOpen → s.stc.station = .joined →
    a.cue.toNat ≤ 3967 → a.action.toNat = action.code → (action = .pulse → 1 ≤ a.width.toNat) →
    (a.repeatPresent = true → 1 ≤ a.period.toNat) →
    s.stc.config.sendMargin < ((if a.lead then s.micros + a.due else a.due) - s.micros).toNat →
    ((if a.lead then s.micros + a.due else a.due) - s.micros).toNat ≤ 2 ^ 30 →
    (∀ r ∈ s.sq.records, ∀ c, r.body = .cueBody c → c.number.toNat ≠ a.cue.toNat) →
    (∀ r ∈ s.sq.records, r.tag.slot ≠ slot) → (∀ j : Fin 16, j < slot → ∃ r ∈ s.sq.records, r.tag.slot = j) →
    exec (.postCueShared a) s = .next
      ((s.setSq
          { s.sq with
            records := insertRecord (Claims.cueRecord a action slot s) s.sq.records
            nextOrder := s.sq.nextOrder + 1 }).replied 0
        [1, BitVec.ofNat 8 (slot.val * 16 + (s.sq.generations[slot]).toNat)])

/-- POST_CUE, SHARED, refused by the first check of R69 that fails; a refused post creates nothing and posts no notice. -/
def Obligations.SharedPostRefusedInOrder : Prop :=
  ∀ (a : CueArgs) (s : State), s.PortOpen →
    (s.stc.station ≠ .joined → exec (.postCueShared a) s = .next (s.replied 4 []))
    ∧ (s.stc.station = .joined →
      (3967 < a.cue.toNat ∨ 4 < a.action.toNat ∨ a.action = 3 ∧ a.width = 0 ∨ a.repeatPresent = true ∧ a.period = 0 →
        exec (.postCueShared a) s = .next (s.replied 6 []))
      ∧ (¬(3967 < a.cue.toNat ∨ 4 < a.action.toNat ∨ a.action = 3 ∧ a.width = 0
          ∨ a.repeatPresent = true ∧ a.period = 0) →
        let ahead := ((if a.lead then s.micros + a.due else a.due) - s.micros).toNat
        (ahead ≤ s.stc.config.sendMargin ∨ 2 ^ 30 < ahead → exec (.postCueShared a) s = .next (s.replied 6 []))
        ∧ (s.stc.config.sendMargin < ahead → ahead ≤ 2 ^ 30 →
          ((∃ r ∈ s.sq.records, ∃ c, r.body = .cueBody c ∧ c.number.toNat = a.cue.toNat) →
            exec (.postCueShared a) s = .next (s.replied 7 []))
          ∧ ((∀ r ∈ s.sq.records, ∀ c, r.body = .cueBody c → c.number.toNat ≠ a.cue.toNat) →
            (∀ j : Fin 16, ∃ r ∈ s.sq.records, r.tag.slot = j) →
            exec (.postCueShared a) s = .next (s.replied 5 [])))))

/-- Whether a subscription entry matches a topic (R95). -/
def Claims.subscribes (x : Subscription) (topic : Topic) : Prop :=
  x.enabled = true ∧ topic &&& x.mask = x.code &&& x.mask

/-- The target of a LOCAL post: that of the first enabled entry that matches, or NONE where none does (R101). -/
def Claims.localTarget (topic : Topic) (s : State) (target : Target) : Prop :=
  (∃ hit : Fin 16, Claims.subscribes s.iku.subscriptions[hit] topic
      ∧ (∀ i : Fin 16, i < hit → ¬Claims.subscribes s.iku.subscriptions[i] topic)
      ∧ target = s.iku.subscriptions[hit].target)
    ∨ (∀ i : Fin 16, ¬Claims.subscribes s.iku.subscriptions[i] topic) ∧ target = none

/-- The entry a LOCAL post offers to the schedule (R101). -/
def Claims.localEntry (a : CueArgs) (action : Action) (target : Target) (s : State) : Entry :=
  { key := { origin := s.stc.config.id, number := BitVec.ofNat 12 a.cue.toNat }, source := .localPort
    topic := some a.topic, hit := none, target := target, action := action
    width := if action = .pulse then some a.width else none
    rpt := if a.repeatPresent then some { period := a.period.toNat, count := a.count.toNat } else none
    due := if a.lead then s.micros + a.due else a.due, notify := a.notify, late := false }

/-- POST_CUE, LOCAL, with its fields in range and its due time ahead within the horizon: its target is that of the first subscription entry that matches its topic, or NONE; it is inserted where there is room, a revision or a repeat of the entry of its key, and refused with REFUSED_FULL where the schedule is full and it would stand last; a due time reached or beyond the horizon is refused with REFUSED_RANGE (R101 to R106). The post is taken as an arrival also where the word of a step waits, and what the two then make of each other is in ArrivalDecided; where none waits the outcome is stated in full. -/
def Obligations.LocalPostDecidedAsArrival : Prop :=
  ∀ (a : CueArgs) (action : Action) (target : Target) (s : State), s.PortOpen → s.stc.station = .joined →
    a.cue.toNat ≤ 3967 →
    a.action.toNat = action.code → (action = .pulse → 1 ≤ a.width.toNat) →
    (a.repeatPresent = true → 1 ≤ a.period.toNat) → Claims.localTarget a.topic s target →
    let e := Claims.localEntry a action target s
    let ahead := (e.due - s.micros).toNat
    let u := s.arriveLocal e
    (u.2 = .ok ∧ exec (.postCueLocal a) s = .next (u.1.replied 0 [0, 0])
      ∨ u.2 = .refusedRange ∧ exec (.postCueLocal a) s = .next (u.1.replied 6 [])
      ∨ u.2 = .refusedFull ∧ exec (.postCueLocal a) s = .next (u.1.replied 5 []))
    ∧ (s.csu.word = none → (ahead = 0 ∨ 2 ^ 30 < ahead) → exec (.postCueLocal a) s = .next (s.replied 6 []))
    ∧ (s.csu.word = none → 1 ≤ ahead → ahead ≤ 2 ^ 30 →
      ((∀ x ∈ s.csu.schedule, x.key ≠ e.key) → s.csu.schedule.length < 32 →
        exec (.postCueLocal a) s = .next
          ((s.setCsu { s.csu with schedule := insertEntry s.aheadNow e s.csu.schedule }).replied 0 [0, 0]))
      ∧ (∀ last, (∀ x ∈ s.csu.schedule, x.key ≠ e.key) → 32 ≤ s.csu.schedule.length →
        s.csu.schedule.getLast? = some last →
        (standsBefore none s.micros e last → exec (.postCueLocal a) s = .next
          ((((s.setCsu { s.csu with schedule := s.csu.schedule.dropLast }).post
              (.schedule .evicted last.key last.target 0)).setCsu
              { s.csu with schedule := insertEntry s.aheadNow e s.csu.schedule.dropLast }).replied 0 [0, 0]))
        ∧ (¬standsBefore none s.micros e last → exec (.postCueLocal a) s = .next (s.replied 5 [])))
      ∧ ∀ old, s.csu.schedule.find? (fun x => x.key = e.key) = some old →
        ({ old with late := false } = e → exec (.postCueLocal a) s = .next (s.replied 0 [0, 0]))
        ∧ ({ old with late := false } ≠ e →
          let revised := s.setCsu
            { s.csu with schedule := insertEntry s.aheadNow e (s.csu.schedule.filter fun x => x.key ≠ e.key) }
          exec (.postCueLocal a) s = .next
            ((if old.notify || a.notify then revised.post (.schedule .revised e.key e.target 0) else revised).replied
              0 [0, 0])))

/-- POST_CUE, LOCAL, refused outside JOINED with REFUSED_STATE, and with a field out of its range with REFUSED_RANGE (R101). -/
def Claims.LocalPostRefused : Prop :=
  ∀ (a : CueArgs) (s : State), s.PortOpen →
    (s.stc.station ≠ .joined → exec (.postCueLocal a) s = .next (s.replied 4 []))
    ∧ (s.stc.station = .joined →
      (3967 < a.cue.toNat ∨ 4 < a.action.toNat ∨ a.action = 3 ∧ a.width = 0 ∨ a.repeatPresent = true ∧ a.period = 0) →
      exec (.postCueLocal a) s = .next (s.replied 6 []))

/-- The recall a POST_RECALL names, its fields in their ranges (R153). -/
def Claims.recallNamed (a : RecallArgs) (what : Recall) : Prop :=
  match a with
  | .byKey origin cue =>
    1 ≤ origin.toNat ∧ origin.toNat ≤ 126 ∧ cue.toNat ≤ 4095
      ∧ what = .byKey { origin := BitVec.ofNat 7 origin.toNat, number := BitVec.ofNat 12 cue.toNat }
  | .byTopic code mask => what = .byTopic code mask

/-- Whether a recall matches a record: a CUE record of this station, by key or by topic (R70). -/
def Claims.recallMatchesRecord (own : StationId) (what : Recall) (r : Record) : Bool :=
  match r.body, what with
  | .cueBody c, .byKey key => decide (key.origin = own ∧ key.number = c.number)
  | .cueBody c, .byTopic code mask => decide (c.topic &&& mask = code &&& mask)
  | .recallBody _, _ => false
  | .markBody _, _ => false

/-- A record leaves: its slot's generation counts on, RECALLs held behind it wait, and its completion notice is posted (R68, R82, R84). -/
def Claims.recordLeft (r : Record) (how : Completion) (unheard late : Bool) (s : State) : State :=
  (s.setSq
    { s.sq with
      records := (s.sq.records.filter fun x => x.tag ≠ r.tag).map fun x =>
        if x.state = .held r.tag then { x with state := .waiting } else x
      generations := s.sq.generations.set r.tag.slot (s.sq.generations[r.tag.slot] + 1) }).post
    (.sendQueue how r.tag unheard late)

/-- The records that which names leave in one event: each posts its completion notice, in slot order, its slot's generation counts on, and every RECALL held behind it waits (R68, R82, R84). -/
def Claims.allLeft (which : Record → Bool) (how : Completion) (s : State) : State :=
  let gone := s.sq.records.filter which
  (gone.foldl (fun s r => s.post (.sendQueue how r.tag false false)) s).setSq
    { s.sq with
      records := (s.sq.records.filter fun x => !which x).map fun x =>
        if gone.any fun r => decide (x.state = .held r.tag) then { x with state := .waiting } else x
      generations := Vector.ofFn fun j : Fin 16 =>
        s.sq.generations[j] + if gone.any fun r => decide (r.tag.slot = j) then 1 else 0 }

/-- POST_RECALL, SHARED, with room: every WAITING CUE record that matches leaves as WITHDRAWN, in slot order; a matching record in flight has its withdraw-pending flag set; and a RECALL record of the recall is created in the lowest free slot, last in the entry order, WAITING, or HELD behind the matching record in flight; the reply carries its tag, and nothing else changes (R68, R70, R82). -/
def Obligations.SharedRecallWithdrawsAndCreatesRecall : Prop :=
  ∀ (a : RecallArgs) (what : Recall) (slot : Fin 16) (state : RecordState) (s : State), s.PortOpen →
    s.stc.station = .joined → s.QueueOk → Claims.recallNamed a what →
    let matching := Claims.recallMatchesRecord s.stc.config.id what
    let u := Claims.allLeft (fun r => decide (r.state = .waiting) && matching r) .withdrawn s
    (∀ r ∈ u.sq.records, r.tag.slot ≠ slot) → (∀ j : Fin 16, j < slot → ∃ r ∈ u.sq.records, r.tag.slot = j) →
    ((∃ x ∈ s.sq.records, x.state = .inFlight ∧ matching x = true ∧ state = .held x.tag)
      ∨ (∀ x ∈ s.sq.records, x.state = .inFlight → matching x = false) ∧ state = .waiting) →
    exec (.postRecallShared a) s = .next
      ((u.setSq
          { u.sq with
            records := insertRecord
              { tag := { slot := slot, generation := u.sq.generations[slot] }, body := .recallBody what
                stale := none, state := state, withdrawPending := false, errors := 0, order := s.sq.nextOrder }
              (u.sq.records.map fun x =>
                if x.state = .inFlight ∧ matching x = true then { x with withdrawPending := true } else x)
            nextOrder := s.sq.nextOrder + 1 }).replied 0
        [1, BitVec.ofNat 8 (slot.val * 16 + (u.sq.generations[slot]).toNat)])

/-- POST_RECALL refused, SHARED or LOCAL: outside JOINED, out of range, and for a SHARED one where all slots are taken and no WAITING record matches (R70, R112, R153). -/
def Claims.RecallRefused : Prop :=
  (∀ (a : RecallArgs) (s : State), s.PortOpen → s.stc.station ≠ .joined →
      exec (.postRecallShared a) s = .next (s.replied 4 []) ∧ exec (.postRecallLocal a) s = .next (s.replied 4 []))
    ∧ (∀ (origin : Byte) (cue : BitVec 16) (s : State), s.PortOpen → s.stc.station = .joined →
      (origin.toNat = 0 ∨ 126 < origin.toNat ∨ 4095 < cue.toNat) →
      exec (.postRecallShared (.byKey origin cue)) s = .next (s.replied 6 [])
        ∧ exec (.postRecallLocal (.byKey origin cue)) s = .next (s.replied 6 []))
    ∧ ∀ (a : RecallArgs) (what : Recall) (s : State), s.PortOpen → s.stc.station = .joined →
      Claims.recallNamed a what → (∀ j : Fin 16, ∃ r ∈ s.sq.records, r.tag.slot = j) →
      (∀ r ∈ s.sq.records, r.state = .waiting → ¬Claims.recallMatchesRecord s.stc.config.id what r) →
      exec (.postRecallShared a) s = .next (s.replied 5 [])

/-- LOCAL posts and recalls of both scopes refused: outside JOINED with REFUSED_STATE, out of range with REFUSED_RANGE, and a SHARED recall without room with REFUSED_FULL; a refused command changes nothing (R70, R101, R112, R153). -/
def Obligations.PostsAndRecallsRefused : Prop :=
  Claims.LocalPostRefused
    ∧ Claims.RecallRefused

/-- Whether a recall names a schedule entry: by key whatever its source, by topic only an entry from the bus (R111). -/
def Claims.recallNamesEntry (what : Recall) (e : Entry) : Bool :=
  match what with
  | .byKey key => decide (e.key = key)
  | .byTopic code mask =>
    decide (e.source = .bus) && e.topic.any fun topic => decide (topic &&& mask = code &&& mask)

/-- POST_RECALL, LOCAL: the entries the recall names leave the schedule, with RECALLED in schedule order for those that notify; the reply is OK without a tag, and nothing else changes (R111, R112). The recall is taken also where the word of a step waits, and what the two then make of each other is in ArrivalDecided; where none waits the outcome is stated in full. -/
def Obligations.LocalRecallRemovesNamedEntries : Prop :=
  ∀ (a : RecallArgs) (what : Recall) (s : State), s.PortOpen → s.stc.station = .joined →
    Claims.recallNamed a what →
    exec (.postRecallLocal a) s = .next ((s.recallEntries what).replied 0 [0, 0])
    ∧ (s.csu.word = none → exec (.postRecallLocal a) s = .next
      (((s.csu.schedule.filter fun e => Claims.recallNamesEntry what e && e.notify).foldl
          (fun s e => s.post (.schedule .recalled e.key e.target 0))
          (s.setCsu
            { s.csu with
              schedule := s.csu.schedule.filter fun e => !Claims.recallNamesEntry what e })).replied 0 [0, 0]))

/-- WITHDRAW by what the tag names: an unknown tag; a WAITING or HELD record, which leaves as WITHDRAWN, its slot's generation counted on and every RECALL held behind it released; a record in flight, which is flagged (R68, R81, R82). -/
def Obligations.WithdrawByRecordState : Prop :=
  ∀ (tag : Tag) (s : State), s.PortOpen → (s.sq.records.map fun r => r.tag.slot).Nodup →
    ((∀ r ∈ s.sq.records, r.tag ≠ tag) → exec (.withdraw tag) s = .next (s.replied 8 []))
    ∧ (∀ r ∈ s.sq.records, r.tag = tag → r.state ≠ .inFlight →
      exec (.withdraw tag) s = .next
        (((s.setSq
            { s.sq with
              records := (s.sq.records.filter fun x => x.tag ≠ tag).map fun x =>
                if x.state = .held tag then { x with state := .waiting } else x
              generations := s.sq.generations.set tag.slot (s.sq.generations[tag.slot] + 1) }).post
            (.sendQueue .withdrawn tag false false)).replied 1 []))
    ∧ ∀ r ∈ s.sq.records, r.tag = tag → r.state = .inFlight →
      exec (.withdraw tag) s = .next
        ((s.setSq
            { s.sq with
              records := s.sq.records.map fun x =>
                if x.tag = tag then { r with withdrawPending := true } else x }).replied 2 [])

/-! ## Reads -/

/-- READ_NOTICE: the oldest notice is removed and replied; notices lost are reported behind those waiting, and an empty queue is answered with EMPTY (R156). That a notice posted after LOST in the same cycle stands behind it is kept in the model's own field: assumption 34. -/
def Obligations.ReadNoticeTakesOldest : Prop :=
  (∀ s : State, s.PortOpen → s.lpu.notices = [] → exec .readNotice s = .next (s.replied 3 []))
    ∧ ∀ (n : Notice) (rest : List Notice) (s : State), s.PortOpen → s.NoticesOk → s.lpu.notices = n :: rest →
      (s.lpu.lost = 0 →
        exec .readNotice s = .next ((s.setLpu { s.lpu with notices := rest }).replied 0 n.bytes))
      ∧ (0 < s.lpu.lost →
        exec .readNotice s = .next
          (((s.setLpu
              { s.lpu with
                notices := rest ++ [{ posted := s.micros, body := .lost s.lpu.lost }]
                lost := 0 }).setPosted { s.posted with recent := 0, shut := [] }).replied 0 n.bytes))

/-- READ_STATUS in every state: OK with the values every owner holds at that moment, and nothing is cleared but the port's own flag (R154, R159). -/
def Obligations.ReadStatusShowsOwnersValues : Prop :=
  ∀ s : State, s.PortOpen →
    exec .readStatus s = .next
      (s.replied 0
        ([BitVec.ofNat 8
            ((match s.stc.station with | .offline => 0 | .listening => 1 | .joined => 2)
              + (if s.stc.draining then 4 else 0)
              + 16 * (match s.fcu.state with | .active => 0 | .guarded => 1 | .silenced => 2 | .barred => 3)),
          BitVec.ofNat 8 s.fcu.score,
          (if s.stc.station = .joined then
            match s.agu.sync with | .nosync => 0 | .alone => 1 | .seeking => 2 | .locked => 3 | .adrift => 4
          else 0),
          BitVec.ofNat 8 s.agu.fresh, BitVec.ofNat 8 s.sq.records.length, BitVec.ofNat 8 s.csu.schedule.length,
          BitVec.ofNat 8 s.lpu.notices.length, BitVec.ofNat 8 s.lpu.lost,
          BitVec.ofNat 8 (s.iku.malformed / 256), BitVec.ofNat 8 s.iku.malformed,
          BitVec.ofNat 8 (s.iku.unsubscribed / 256), BitVec.ofNat 8 s.iku.unsubscribed]))

/-- READ_TIME in every state: OK with bus time, trim, slew and sync state at the latch, NONE outside JOINED; signed fields are two's complement (R44, R159). -/
def Obligations.ReadTimeShowsBusTime : Prop :=
  ∀ s : State, s.PortOpen →
    exec .readTime s = .next
      (s.replied 0
        (bytesBe 4 (s.btu.time.toNat / 16) ++ [BitVec.ofNat 8 (s.btu.time.toNat % 16)]
          ++ bytesBe 2 (BitVec.ofInt 16 s.btu.trim).toNat ++ bytesBe 2 (BitVec.ofInt 16 s.btu.slew).toNat
          ++ ([if s.stc.station = .joined then
              match s.agu.sync with | .nosync => 0 | .alone => 1 | .seeking => 2 | .locked => 3 | .adrift => 4
            else 0] : List Byte)))

/-- READ_PEER in every state: REFUSED_RANGE above index 31, EMPTY at a free index, and the entry's fields otherwise, absent ones reading 0 (R65, R159; that absent fields read 0 is assumption 24). -/
def Claims.ReadPeerShowsEntry : Prop :=
  ∀ (index : Byte) (s : State), s.PortOpen →
    (32 ≤ index.toNat → exec (.readPeer index) s = .next (s.replied 6 []))
    ∧ ∀ i : Fin 32, index.toNat = i.val →
      (s.agu.peers[i] = none → exec (.readPeer index) s = .next (s.replied 3 []))
      ∧ ∀ p, s.agu.peers[i] = some p → exec (.readPeer index) s = .next
        (s.replied 0
          ([BitVec.ofNat 8 p.station.toNat,
              BitVec.ofNat 8
                ((if p.presence = .silent then 1 else 0) + (if p.fresh then 2 else 0) + (if p.mismatch then 4 else 0)
                  + (if p.offset.isSome then 8 else 0) + (if p.sequence.isSome then 16 else 0)),
              BitVec.ofNat 8 p.rounds]
            ++ bytesBe 5 (BitVec.ofInt 40 (p.offset.getD 0)).toNat
            ++ [(match p.sync with
                | none => 0
                | some .nosync => 0
                | some .alone => 1
                | some .seeking => 2
                | some .locked => 3
                | some .adrift => 4), p.sequence.getD 0]))

/-- READ_ENTRY in every state: REFUSED_RANGE above position 31, EMPTY beyond the last entry, and the entry's fields otherwise, absent ones reading 0 or 0xFF (R118, R159; that an absent hit or target reads 0xFF is R159's, that other absent fields read 0 is assumption 24). -/
def Claims.ReadEntryShowsEntry : Prop :=
  ∀ (position : Byte) (s : State), s.PortOpen →
    (32 ≤ position.toNat → exec (.readEntry position) s = .next (s.replied 6 []))
    ∧ (position.toNat < 32 → s.csu.schedule[position.toNat]? = none →
      exec (.readEntry position) s = .next (s.replied 3 []))
    ∧ ∀ e, position.toNat < 32 → s.csu.schedule[position.toNat]? = some e →
      exec (.readEntry position) s = .next
        (s.replied 0
          ([BitVec.ofNat 8 e.key.origin.toNat] ++ bytesBe 2 e.key.number.toNat
            ++ [BitVec.ofNat 8
                ((match e.source with | .bus => 0 | .localPort => 1 | .reaction => 2) + (if e.notify then 4 else 0)
                  + (if e.late then 8 else 0) + (if e.rpt.isSome then 16 else 0))]
            ++ bytesBe 2 ((e.topic.getD 0).toNat)
            ++ [(match e.hit with | some i => BitVec.ofNat 8 i.val | none => 0xFF),
              (match e.target with | some i => BitVec.ofNat 8 i.val | none => 0xFF),
              (match e.action with | .set => 0 | .clear => 1 | .toggle => 2 | .pulse => 3 | .note => 4)]
            ++ bytesBe 2 ((e.width.getD 0).toNat)
            ++ (match e.rpt with
              | some r => bytesBe 3 r.period ++ [BitVec.ofNat 8 r.count]
              | none => [0, 0, 0, 0])
            ++ bytesBe 4 e.due.toNat))

/-- READ_RECORD in every state: UNKNOWN_TAG, or the record's fields, with the urgency of a CUE record at that moment and 0 once its stale time is reached (R85, R159; that absent fields read 0 is assumption 24). -/
def Claims.ReadRecordShowsRecord : Prop :=
  ∀ (tag : Tag) (s : State), s.PortOpen → (s.sq.records.map fun r => r.tag.slot).Nodup →
    ((∀ r ∈ s.sq.records, r.tag ≠ tag) → exec (.readRecord tag) s = .next (s.replied 8 []))
    ∧ ∀ r ∈ s.sq.records, r.tag = tag → exec (.readRecord tag) s = .next
      (s.replied 0
        (([(match r.body with | .recallBody _ => 1 | .markBody _ => 2 | .cueBody _ => 3),
              BitVec.ofNat 8
                ((match r.state with | .waiting => 0 | .held _ => 17 | .inFlight => 2)
                  + (if r.withdrawPending then 4 else 0) + (if r.stale.isSome then 8 else 0)),
              BitVec.ofNat 8 r.errors] : List Byte)
          ++ bytesBe 4 ((r.stale.getD 0).toNat)
          ++ ([match r.state with
              | .held g => BitVec.ofNat 8 (g.slot.val * 16 + g.generation.toNat)
              | _ => 0] : List Byte)
          ++ (match r.body with | .cueBody c => bytesBe 2 c.number.toNat | _ => [0, 0])
          ++ ([match r.body, r.stale with
              | .cueBody _, some stale =>
                if 1 ≤ (stale - s.micros).toNat ∧ (stale - s.micros).toNat < 2 ^ 31 then
                  BitVec.ofNat 8 (min 15 ((stale - s.micros).toNat / s.stc.config.urgencyStep))
                else 0
              | _, _ => 0] : List Byte)))

/-- READ_PEER, READ_ENTRY and READ_RECORD in every state: out of range, empty or unknown, and otherwise the entry's fields; reading changes nothing (R65, R85, R118, R159). That absent fields read 0 is the model's reading: assumption 24. -/
def Obligations.ReadsOfTablesShowEntries : Prop :=
  Claims.ReadPeerShowsEntry
    ∧ Claims.ReadEntryShowsEntry
    ∧ Claims.ReadRecordShowsRecord

/-! ## Marks and reactions -/

/-- Whether an input with this edge select takes this kind of edge (R131, R132). -/
def Claims.selectTakes (select : EdgeSelect) (edge : Edge) : Prop :=
  select = .either ∨ select = .rising ∧ edge = .rising ∨ select = .falling ∧ edge = .falling

/-- A time is ahead of another (R33). -/
def Claims.ahead (t now : Micros) : Prop := 1 ≤ (t - now).toNat ∧ (t - now).toNat < 2 ^ 31

/-- Whether a reaction entry matches a mark (R138). -/
def Claims.reactionMatches (x : Reaction) (source : StationId) (input : Fin 4) (edge : Edge) : Prop :=
  x.enabled = true ∧ (x.source = 0 ∨ x.source = source) ∧ x.input = input
    ∧ (x.edge = .either ∨ x.edge = .rising ∧ edge = .rising ∨ x.edge = .falling ∧ edge = .falling)

/-- MARK_EDGE is ignored outside JOINED, where the edge select does not name the edge, and while the spacing end is present and not reached: nothing changes (R132). -/
def Claims.MarkEdgeIgnored : Prop :=
  ∀ (input : Fin 4) (edge : Edge) (s : State),
    (s.stc.station ≠ .joined ∨ ¬Claims.selectTakes s.mku.inputs[input].select edge
      ∨ ∃ stop, s.mku.inputs[input].spacingEnd = some stop ∧ Claims.ahead stop s.micros) →
    exec (.markEdge input edge) s = .next s

/-- The state of the MKU, and the CAPTURED notice, after an edge is taken (R133, steps 2 to 4). A spacing end still present has been reached: its expiry, should it come in this cycle too, has nothing left to end (R134, assumption 36). -/
def Claims.edgeCounted (input : Fin 4) (edge : Edge) (s : State) : State :=
  let i := s.mku.inputs[input]
  let ended := if i.spacingEnd.isSome then s.setSpent (.spacingEnd input :: s.spent) else s
  let counted := ended.setMku
    { s.mku with
      inputs := s.mku.inputs.set input
        { i with
          sequence := i.sequence + 1
          spacingEnd := if 1 ≤ i.spacing then some (s.micros + BitVec.ofNat 32 i.spacing) else i.spacingEnd } }
  if i.notify then counted.post (.mark .captured input edge (i.sequence + 1)) else counted

/-- What bus time read in the reference cycle before, in which the BTU saw the edge; where a step was made in that cycle, what it read before the step or after it, which is a free value (R43, R135, assumption 27), and every edge taken after it in this cycle has the same reading, so that the captures are equal (R42). -/
def Claims.edgeSeen (s : State) (seen : BusTime) (start : State) : Prop :=
  (s.btu.latchFrom = none ∧ seen = s.btu.latch ∧ start = s)
    ∨ ∃ old, s.btu.latchFrom = some old ∧ (seen = s.btu.latch ∨ seen = old)
      ∧ start = (s.setDraws (s.draws + 1)).setBtu { s.btu with latch := seen, latchFrom := none }

/-- MARK_EDGE taken, an edge seen in the reference cycle before: sequence and spacing end, CAPTURED where the input notifies, then the mark matched against the reaction table with the capture 3 sixteenths before bus time as it read when the edge was seen, and last, where the input announces, a MARK record in the lowest free slot with that capture and the stale time one mark window later, which leaves at once as STALE where that time is already reached, or MARK_LOST where no slot is free (R42, R71, R84, R133, R135, R136, R138). What a matching reaction makes is in ReactionsMakeCuesInIndexOrder; where none matches the schedule and the lines stay. That one row stands for the sight and the taking is the model's (assumption 27); the order of an edge and a step of one cycle (27), and of the notices of the MKU, the CSU and the SQ (34), are free values. -/
def Obligations.MarkEdgeTakenCountsAndAnnounces : Prop :=
  ∀ (input : Fin 4) (edge : Edge) (s : State), s.stc.station = .joined →
    Claims.selectTakes s.mku.inputs[input].select edge →
    (∀ stop, s.mku.inputs[input].spacingEnd = some stop → ¬Claims.ahead stop s.micros) →
    let i := s.mku.inputs[input]
    ∃ (seen : BusTime) (start : State), Claims.edgeSeen s seen start ∧
    let capture : BusTime := seen - 3
    let u := (Claims.edgeCounted input edge start).react
      { source := s.stc.config.id, input := input, edge := edge, capture := capture }
    ((∀ r : Fin 8, ¬Claims.reactionMatches s.mku.reactions[r] s.stc.config.id input edge) →
      u = Claims.edgeCounted input edge start)
    ∧ (i.announce = false → exec (.markEdge input edge) s = .next u)
    ∧ (i.announce = true → (∀ j : Fin 16, ∃ r ∈ s.sq.records, r.tag.slot = j) →
      exec (.markEdge input edge) s = .next (u.post (.mark .markLost input edge (i.sequence + 1))))
    ∧ ∀ slot : Fin 16, i.announce = true → (∀ r ∈ s.sq.records, r.tag.slot ≠ slot) →
      (∀ j : Fin 16, j < slot → ∃ r ∈ s.sq.records, r.tag.slot = j) →
      let stale := microsOf capture + BitVec.ofNat 32 (s.stc.config.markMs * 1000)
      let r : Record :=
        { tag := { slot := slot, generation := s.sq.generations[slot] }
          body := .markBody { input := input, edge := edge, sequence := i.sequence + 1, capture := capture }
          stale := some stale, state := .waiting, withdrawPending := false, errors := 0, order := s.sq.nextOrder }
      let created := u.setSq
        { s.sq with records := insertRecord r s.sq.records, nextOrder := s.sq.nextOrder + 1 }
      (Claims.ahead stale s.micros → exec (.markEdge input edge) s = .next created)
      ∧ (¬Claims.ahead stale s.micros →
        exec (.markEdge input edge) s = .next (Claims.recordLeft r .stale false false created))

/-- MARK_EDGE taken, whatever reacts and is announced: its input's sequence and spacing end, and nothing of the other inputs, the reaction table, station control, the LIU, the FCU, the AGU, the IKU or the queue; of the BTU only which reading the edges of this cycle have, where a step was made in the cycle they were seen in (R42, R43, R132, R133, assumption 27). -/
def Claims.MarkEdgeTakenFrame : Prop :=
  ∀ (input : Fin 4) (edge : Edge) (s : State), s.stc.station = .joined →
    Claims.selectTakes s.mku.inputs[input].select edge →
    (∀ stop, s.mku.inputs[input].spacingEnd = some stop → ¬Claims.ahead stop s.micros) →
    ∃ t : State, exec (.markEdge input edge) s = .next t ∧ t.mku = (Claims.edgeCounted input edge s).mku
      ∧ t.stc = s.stc ∧ t.liu = s.liu ∧ t.fcu = s.fcu ∧ t.agu = s.agu ∧ t.iku = s.iku
      ∧ t.btu = { s.btu with latch := t.btu.latch, latchFrom := none }
      ∧ (s.btu.latchFrom = none → t.btu = s.btu)
      ∧ t.pending = s.pending

/-- Edges on different inputs that were seen in one reference cycle have equal captures: what the first one taken reads, every later one of the cycle reads, also where a step was made in the cycle they were seen in (R42, assumption 27). -/
def Claims.CapturesOfOneCycleEqual : Prop :=
  ∀ s : State,
    s.edgeSeen.2.edgeSeen = s.edgeSeen
    ∧ ∀ (first second : Fin 4) (e g : Edge) (t : State), s.takesEdge first e = true →
      exec (.markEdge first e) s = .next t →
      t.edgeSeen.1 = s.edgeSeen.1 ∧ t.takeEdge second g = t.takeSeenEdge second g (s.edgeSeen.1 - 3)

/-- MARK_EDGE ignored changes nothing, MARK_EDGE taken moves its own input and touches no other block but those that react, announce and notify, and edges seen in one cycle have equal captures (R42, R132, R133). Which of two readings they have where a step was made in that cycle is a free value: assumption 27. -/
def Obligations.MarkEdgeIgnoredOrTaken : Prop :=
  Claims.MarkEdgeIgnored
    ∧ Claims.MarkEdgeTakenFrame
    ∧ Claims.CapturesOfOneCycleEqual

/-- The reaction table is tried in index order, and every entry that matches hands the CSU a cue of its own key, due at the capture's µs part plus its offset (R100, R138, R139). -/
def Obligations.ReactionsMakeCuesInIndexOrder : Prop :=
  (∀ (m : SeenMark) (s : State), s.react m = ([0, 1, 2, 3, 4, 5, 6, 7] : List (Fin 8)).foldl (State.tryReaction m) s)
    ∧ ∀ (m : SeenMark) (r : Fin 8) (s : State),
      (¬Claims.reactionMatches s.mku.reactions[r] m.source m.input m.edge → s.tryReaction m r = s)
      ∧ (Claims.reactionMatches s.mku.reactions[r] m.source m.input m.edge →
        s.tryReaction m r = s.arrive
          { key := { origin := s.stc.config.id, number := BitVec.ofNat 12 (3968 + r.val) }, source := .reaction
            topic := none, hit := none, target := s.mku.reactions[r].target, action := s.mku.reactions[r].action
            width := s.mku.reactions[r].width, rpt := none
            due := microsOf m.capture + BitVec.ofNat 32 s.mku.reactions[r].offset
            notify := s.mku.reactions[r].notify, late := false })

/-! ## The cue schedule and the cue lines -/

/-- Schedule order, and the place an entry is put at: before every entry behind it and behind every entry it does not stand before (R98, R99, R106). -/
def Claims.EntryPutInScheduleOrder : Prop :=
  ∀ (e : Entry) (schedule : List Entry) (s : State),
    (∀ a b, before s.aheadNow a b = true ↔ standsBefore s.csu.word s.micros a b)
    ∧ ∃ front back, schedule = front ++ back ∧ insertEntry s.aheadNow e schedule = front ++ e :: back
      ∧ (∀ x ∈ front, ¬standsBefore s.csu.word s.micros e x)
      ∧ ∀ x, back.head? = some x → standsBefore s.csu.word s.micros e x

/-- An arrival, a LOCAL post or a recall that meets the word of a step in one instant is taken before the step handling or after it; which is a free value (R116, assumption 5). Where no word waits it is taken at once. -/
def Claims.ArrivalMeetsStep : Prop :=
  (∀ s : State, s.csu.word = none →
      (∀ e, s.arrive e = s.decideArrival e ∧ s.arriveLocal e = s.decideLocal e)
        ∧ ∀ r, s.recallEntries r = s.removeNamed r)
    ∧ ∀ (w : StepWord) (s : State), s.csu.word = some w →
      ∃ u : State, (u = s.setDraws (s.draws + 1) ∨ u = (s.setDraws (s.draws + 1)).takeWord)
        ∧ (∀ e, s.arrive e = u.decideArrival e ∧ s.arriveLocal e = u.decideLocal e)
        ∧ ∀ r, s.recallEntries r = u.removeNamed r

/-- An arrival from the bus or a reaction whose due time lies ahead: OUT_OF_RANGE beyond the horizon, insertion where there is room, eviction of the last entry or DROPPED where there is none, and revision of the entry of its key, or nothing where every field agrees (R102, R104, R105, R106). -/
def Claims.ArrivalAheadDecided : Prop :=
  ∀ (e : Entry) (s : State), e.late = false → Claims.ahead e.due s.micros →
    (2 ^ 30 < (e.due - s.micros).toNat → s.decideArrival e = s.post (.schedule .outOfRange e.key e.target 0))
    ∧ ((e.due - s.micros).toNat ≤ 2 ^ 30 →
      ((∀ x ∈ s.csu.schedule, x.key ≠ e.key) → s.csu.schedule.length < 32 →
        s.decideArrival e = s.setCsu { s.csu with schedule := insertEntry s.aheadNow e s.csu.schedule })
      ∧ (∀ last, (∀ x ∈ s.csu.schedule, x.key ≠ e.key) → 32 ≤ s.csu.schedule.length →
        s.csu.schedule.getLast? = some last →
        (standsBefore s.csu.word s.micros e last → s.decideArrival e =
          ((s.setCsu { s.csu with schedule := s.csu.schedule.dropLast }).post
            (.schedule .evicted last.key last.target 0)).setCsu
            { s.csu with schedule := insertEntry s.aheadNow e s.csu.schedule.dropLast })
        ∧ (¬standsBefore s.csu.word s.micros e last →
          s.decideArrival e = s.post (.schedule .dropped e.key e.target 0)))
      ∧ ∀ old, s.csu.schedule.find? (fun x => x.key = e.key) = some old →
        ({ old with late := false } = e → s.decideArrival e = s)
        ∧ ({ old with late := false } ≠ e →
          let revised := s.setCsu
            { s.csu with schedule := insertEntry s.aheadNow e (s.csu.schedule.filter fun x => x.key ≠ e.key) }
          s.decideArrival e =
            if old.notify || e.notify then revised.post (.schedule .revised e.key e.target 0) else revised))

/-- An occurrence fired, on time or late: handed to its line where its action moves one, with FIRED where it notifies or FIRED_LATE whatever its notify flag, SUPPRESSED or OVERLAP in its place; an action that ends a reached pulse leaves the pulse-end event nothing to do (R107, R108, R125, assumption 36). -/
def Claims.fired (late : Bool) (e : Entry) (s : State) : State :=
  let acted : State × LineResult :=
    match e.target with
    | some line =>
      if e.action = .note then (s, .applied)
      else
        let l := s.clu.lines[line]
        let r := l.act s.clu.told s.micros e.action e.width
        let reachedEnd := l.pulse.any fun stop =>
          decide ((stop - s.micros).toNat = 0 ∨ 2 ^ 31 ≤ (stop - s.micros).toNat)
        ((s.setClu { s.clu with lines := s.clu.lines.set line r.1 }).setSpent
            (if r.2 ≠ .suppressed ∧ reachedEnd = true then .pulseEnd line :: s.spent else s.spent),
          r.2)
    | none => (s, .applied)
  match acted.2 with
  | .applied =>
    if late then acted.1.post (.schedule .firedLate e.key e.target 0)
    else if e.notify then acted.1.post (.schedule .fired e.key e.target 0)
    else acted.1
  | .suppressed => acted.1.post (.schedule .suppressed e.key e.target 0)
  | .overlap => acted.1.post (.schedule .overlap e.key e.target 0)

/-- An occurrence due lateness µs ago: fired late within the late window and not made beyond it; MISSED for the occurrences not made; and the entry as it re-enters at its first occurrence ahead, if one is left (R103, R110, R114). -/
def Claims.lateHandled (e : Entry) (lateness : Nat) (s : State) : State × Option Entry :=
  let made := decide (lateness ≤ s.stc.config.lateWindow)
  let done := if made then Claims.fired true e s else s
  match e.rpt with
  | none => (if made then done else done.post (.schedule .missed e.key e.target 1), none)
  | some r =>
    let k := lateness / r.period + 1
    let c := if r.count ≠ 0 ∧ r.count < k then r.count else k
    let missed := if made then c - 1 else c
    (if 1 ≤ missed then done.post (.schedule .missed e.key e.target (min 65535 missed)) else done,
      if r.count ≠ 0 ∧ r.count ≤ k then none
      else
        some
          { e with
            due := e.due + BitVec.ofNat 32 (k * r.period), rpt := some { r with count := r.count - k }
            late := made || e.late })

/-- An entry put where there is room: EVICTED for the last entry where the schedule is full and it stands before that, DROPPED where it does not (R105, R106). -/
def Claims.placed (e : Entry) (s t : State) : Prop :=
  (s.csu.schedule.length < 32 → t = s.setCsu { s.csu with schedule := insertEntry s.aheadNow e s.csu.schedule })
    ∧ ∀ last, 32 ≤ s.csu.schedule.length → s.csu.schedule.getLast? = some last →
      (standsBefore s.csu.word s.micros e last →
        t = ((s.setCsu { s.csu with schedule := s.csu.schedule.dropLast }).post
            (.schedule .evicted last.key last.target 0)).setCsu
            { s.csu with schedule := insertEntry s.aheadNow e s.csu.schedule.dropLast })
      ∧ (¬standsBefore s.csu.word s.micros e last → t = s.post (.schedule .dropped e.key e.target 0))

/-- An arrival from the bus or a reaction whose due time has been reached: it supersedes the entry of its key, with REVISED where one of them notifies; its occurrence is fired late or not made by its lateness; and with a repeat it re-enters where there is room (R103, R105, R107, R108, R110). That REVISED carries the arrival's target is assumption 25. -/
def Claims.ArrivalPastDueDecided : Prop :=
  ∀ (e : Entry) (s u : State), ¬Claims.ahead e.due s.micros →
    ((∀ x ∈ s.csu.schedule, x.key ≠ e.key) ∧ u = s
      ∨ ∃ old, s.csu.schedule.find? (fun x => x.key = e.key) = some old ∧
        let cleared := s.setCsu { s.csu with schedule := s.csu.schedule.filter fun x => x.key ≠ e.key }
        u = if old.notify || e.notify then cleared.post (.schedule .revised e.key e.target 0) else cleared) →
    let done := Claims.lateHandled e (s.micros - e.due).toNat u
    (done.2 = none → s.decideArrival e = done.1)
    ∧ ∀ again, done.2 = some again → Claims.placed again done.1 (s.decideArrival e)

/-- Schedule order, and an arrival from the bus or a reaction, its due time ahead or reached, also where it meets the word of a step (R98, R99, R102 to R108, R110, R116). Which of an arrival and a step handling of one instant is taken first is a free value: assumption 5; assumption 25 names the line of a REVISED. -/
def Obligations.ArrivalDecided : Prop :=
  Claims.EntryPutInScheduleOrder
    ∧ Claims.ArrivalMeetsStep
    ∧ Claims.ArrivalAheadDecided
    ∧ Claims.ArrivalPastDueDecided

/-- What an action does to a line: suppressed on a guarded line outside LOCKED; SET, CLEAR and TOGGLE cancel a pulse and set the level; PULSE starts a pulse or returns OVERLAP; a pulse whose end has been reached is ended first (R121, R122, R123, R125). -/
def Claims.LineActionTable : Prop :=
  ∀ (told : SyncState) (now : Micros) (width : BitVec 16) (l : Line),
    (l.guarded = true → told ≠ .locked → ∀ action w, l.act told now action w = (l, .suppressed))
    ∧ ((l.guarded = false ∨ told = .locked) →
      l.act told now .set none = ({ l with level := true, pulse := none }, .applied)
      ∧ l.act told now .clear none = ({ l with level := false, pulse := none }, .applied)
      ∧ (l.pulse = none →
        l.act told now .toggle none = ({ l with level := !l.level }, .applied)
        ∧ l.act told now .pulse (some width) =
          ({ l with level := true, pulse := some (now + BitVec.ofNat 32 width.toNat) }, .applied))
      ∧ (∀ stop, l.pulse = some stop → Claims.ahead stop now →
        l.act told now .toggle none = ({ l with level := false, pulse := none }, .applied)
        ∧ l.act told now .pulse (some width) = (l, .overlap))
      ∧ ∀ stop, l.pulse = some stop → ¬Claims.ahead stop now →
        l.act told now .toggle none = ({ l with level := true, pulse := none }, .applied)
        ∧ l.act told now .pulse (some width) =
          ({ l with level := true, pulse := some (now + BitVec.ofNat 32 width.toNat) }, .applied))

/-- Leaving LOCKED takes every guarded line to its safe level with its pulse cancelled and touches no unguarded line; any other change of the sync state as told moves no line (R126, R127). -/
def Claims.LeavingLockedGuardsLines : Prop :=
  ∀ (sync : SyncState) (s : State) (i : Fin 8),
    (s.tellClu sync).clu.told = sync
    ∧ (s.tellClu sync).clu.lines[i] =
      if s.clu.told = .locked ∧ sync ≠ .locked ∧ s.clu.lines[i].guarded = true then
        { s.clu.lines[i] with level := s.clu.lines[i].safe, pulse := none }
      else s.clu.lines[i]

/-- What an action does to a line, and what a change of the sync state as told does to every line (R121 to R123, R125 to R127). -/
def Obligations.LineActionsAndGuarding : Prop :=
  Claims.LineActionTable
    ∧ Claims.LeavingLockedGuardsLines

/-! ## The station bus -/

/-- How long the run of recessive bits is behind bits, on top of the run before: those since the last dominant one among them, or all (R26). -/
def Claims.runBehind (run : Nat) (bits : List Bool) : Nat :=
  if false ∈ bits then (bits.reverse.takeWhile id).length else run + bits.length

/-- The idle spans that bits complete, on top of the run before: one at each bit at which the run is a multiple of 12 long (R26). -/
def Claims.spansWithin (run : Nat) (bits : List Bool) : Nat :=
  ((List.range bits.length).filter fun k =>
    let long := Claims.runBehind run (bits.take (k + 1))
    decide (0 < long ∧ long % 12 = 0)).length

/-- The FCU after bits that a row reports, while SILENCED: its run, which at 12 starts again from 0, and the spans they complete, which wait for their IDLE_SPAN unless that came before (R26, assumption 38). -/
def Claims.fcuSampled (bits : List Bool) (s : State) : FcuState :=
  if s.fcu.state = .silenced then
    { s.fcu with
      run := if bits = [] then s.fcu.run else Claims.runBehind s.fcu.run bits % 12
      owed := max 0 (s.fcu.owed + Claims.spansWithin s.fcu.run bits) }
  else s.fcu

/-- The FCU after an error in a role: score, fault state, and on entry to SILENCED the span count, the run and the recovery time; in SILENCED the bits of the row sampled (R20, R22, R25, R26). -/
def Claims.fcuAfterError (role : Role) (sampled : List Bool) (s : State) : FcuState :=
  let counted :=
    match s.fcu.state with
    | .active | .guarded =>
      match role with
      | .sender => min 255 (s.fcu.score + 8)
      | .receiver => max s.fcu.score (min 191 (s.fcu.score + 1))
    | .silenced | .barred => s.fcu.score
  match s.fcu.state with
  | .active => { s.fcu with score := counted, state := if counted < 96 then .active else .guarded }
  | .guarded =>
    if counted < 96 then { s.fcu with score := counted, state := .active }
    else if counted < 192 then { s.fcu with score := counted, state := .guarded }
    else
      { score := counted, state := .silenced, spans := 0, run := 0, owed := 0
        recovery := some (s.micros + BitVec.ofNat 32 (s.stc.config.beatMs * 1000)), timeReached := false }
  | .silenced => Claims.fcuSampled sampled s
  | .barred => s.fcu

/-- The FCU after an acceptance (R21, R22). -/
def Claims.fcuAfterAcceptance (s : State) : FcuState :=
  match s.fcu.state with
  | .active => { s.fcu with score := s.fcu.score - 1, state := if s.fcu.score - 1 < 96 then .active else .guarded }
  | .guarded =>
    if s.fcu.score - 1 < 96 then { s.fcu with score := s.fcu.score - 1, state := .active }
    else { s.fcu with score := s.fcu.score - 1 }
  | .silenced => s.fcu
  | .barred => s.fcu

/-- The FCU while SILENCED, n recessive bits after a dominant one: its run, and the spans that wait for their IDLE_SPAN (R26, assumption 38). -/
def Claims.runSince (n : Nat) (s : State) : FcuState :=
  if s.fcu.state = .silenced then { s.fcu with run := n % 12, owed := max 0 (s.fcu.owed + (n / 12 : Nat)) } else s.fcu

/-- What the LIU does after an error, by the fault state (R12). -/
def Claims.signalling (state : FaultState) (role : Role) : LiuState :=
  match state with
  | .active => .flagging true role
  | .guarded => .flagging false role
  | .silenced | .barred => .delimiting role

/-- A record in flight in its slot, whose attempt the LIU holds. -/
def Claims.attemptOf (a : Attempt) (r : Record) (s : State) : Prop :=
  s.liu.attempt = some a ∧ a.place = .slot r.tag.slot ∧ r ∈ s.sq.records ∧ r.state = .inFlight

/-- Whether a stale time is out of date: reached, or beyond the horizon (R79); that the distance alone is read, and no step that caused it, is assumption 21. -/
def Claims.staleNow (stale : Option Micros) (now : Micros) : Prop :=
  ∃ t, stale = some t ∧ (¬Claims.ahead t now ∨ 2 ^ 30 < (t - now).toNat)

/-- The BEAT leaves the beat slot: the AGU places its pending BEAT, unless that one's stale time is reached, and holds none pending then (R62, R72, R78). -/
def Claims.beatLeft (s : State) : State :=
  match s.agu.pendingBeat with
  | none => s.setSq { s.sq with beat := none }
  | some next =>
    if 1 ≤ (next.stale - s.micros).toNat ∧ (next.stale - s.micros).toNat < 2 ^ 31 then
      (s.setSq
        { s.sq with
          beat := some { beat := next, inFlight := false, superseded := false, errors := 0, order := s.sq.nextOrder }
          nextOrder := s.sq.nextOrder + 1 }).setAgu { s.agu with pendingBeat := none }
    else (s.setSq { s.sq with beat := none }).setAgu { s.agu with pendingBeat := none }

/-- Resynchronisation: an edge in quantum 1 of the bit moves nothing, a late one moves the bit's sample point and end later by the lesser of its lateness and the jump, one after the sample point ends the bit sooner by the lesser of its earliness and the jump, and only one in a bit does either. A bit is sampled in the last cycle of the quantum that the sample point names, moved by a late edge, and ends after its 16 quanta, moved by either; an edge is a recessive level and then a dominant one (R1). That an edge which ends the bit at once falls in quantum 1 of the next is assumption 7. -/
def Claims.EdgesResynchronise : Prop :=
  ∀ (c : LiuSettings) (t : BitTiming),
    let q := Claims.quantum c.bitRate
    let e := t.cycle / q + 1
    let late := min (e - 1) c.jump
    let early := min (17 - e) c.jump
    (t.resynced = true ∨ e = 1 → t.edge c = t)
    ∧ (t.resynced = false → 1 < e → e ≤ c.samplePoint → e ≤ 16 → 1 ≤ c.jump →
      t.edge c = { t with shift := late, resynced := true })
    ∧ (t.resynced = false → 1 < e → c.samplePoint < e → e ≤ 16 → 1 ≤ c.jump →
      (e + early ≤ 16 → t.edge c = { t with shift := -early, resynced := true })
      ∧ (16 < e + early → t.edge c = { bit := t.bit + 1, cycle := t.cycle % q, shift := 0, resynced := false }))
    ∧ (∀ before : Bool, sampledBits c t before [] = [])
    ∧ ∀ (before level : Bool) (rest : List Bool),
      let u := if before = true ∧ level = false then t.edge c else t
      let bit := (16 + u.shift).toNat * q
      let next : BitTiming :=
        if u.cycle + 1 < bit then { u with cycle := u.cycle + 1 }
        else
          { bit := u.bit + 1 + (u.cycle + 1 - bit) / (16 * q), cycle := (u.cycle + 1 - bit) % (16 * q), shift := 0
            resynced := false }
      sampledBits c t before (level :: rest) =
        (if u.cycle = (c.samplePoint + u.shift.toNat) * q - 1 then [level] else []) ++ sampledBits c next level rest

/-- An offer not driven when another station's SOF comes is returned as lost arbitration: a record leaves as WITHDRAWN, as STALE, or waits again with its error attempts and its place in the order; a BEAT leaves where it is superseded or out of date, and waits again otherwise (R3, R4, R62, R72, R76, R78, R79; the reading of R79 is assumption 21). -/
def Claims.OfferReturnedAtSof : Prop :=
  ∀ (a : Attempt) (s : State), s.liu.state = .idle →
    let out := fun t : State =>
      (((t.setBtu { s.btu with capture := some { time := s.btu.time, confirmed := true } }).setLiu
        { s.liu with
          state := .receiving, timing := { bit := 0, cycle := 0, shift := 0, resynced := false }, attempt := none
          holdOff := false }).setFcu (Claims.runSince 0 s))
    (∀ r : Record, (s.sq.records.map fun r => r.tag.slot).Nodup → Claims.attemptOf a r s →
      (r.withdrawPending = true →
        exec (.sof true false) s = .next (out (Claims.recordLeft r .withdrawn false false s)))
      ∧ (r.withdrawPending = false → Claims.staleNow r.stale s.micros →
        exec (.sof true false) s = .next (out (Claims.recordLeft r .stale false false s)))
      ∧ (r.withdrawPending = false → ¬Claims.staleNow r.stale s.micros →
        exec (.sof true false) s = .next
          (out (s.setSq
            { s.sq with
              records := s.sq.records.map fun x => if x.tag = r.tag then { r with state := .waiting } else x }))))
    ∧ ∀ b : BeatRecord, s.liu.attempt = some a → a.place = .beat → s.sq.beat = some b → b.inFlight = true →
      (b.superseded = false → ¬Claims.staleNow (some b.beat.stale) s.micros →
        exec (.sof true false) s = .next (out (s.setSq { s.sq with beat := some { b with inFlight := false } })))
      ∧ (b.superseded = true ∨ Claims.staleNow (some b.beat.stale) s.micros →
        exec (.sof true false) s = .next (out (Claims.beatLeft s)))

/-- SOF in IDLE: the bit timing is hard-synchronised; the edge is captured and the frame sent or received by whether this station drove it, and the LIU stays IDLE where the edge was too short; receiving ends a hold-off; a dominant bit ends a run of recessive ones; a SOF driven and sampled recessive is a BIT error as sender. Outside IDLE there is none (R1, R3, R4, R24, R26, R40, assumptions 8 and 9). -/
def Claims.SofTaken : Prop :=
  let start : BitTiming := { bit := 0, cycle := 0, shift := 0, resynced := false }
  (∀ (drove : Bool) (s : State), s.liu.state = .idle → s.liu.attempt = none →
      exec (.sof false drove) s = .next (s.setLiu { s.liu with timing := start })
      ∧ exec (.sof true drove) s = .next
        (((s.setBtu { s.btu with capture := some { time := s.btu.time, confirmed := true } }).setLiu
          { s.liu with state := .receiving, timing := start, holdOff := false }).setFcu (Claims.runSince 0 s)))
    ∧ (∀ (a : Attempt) (s : State), s.liu.state = .idle → s.liu.attempt = some a →
      exec (.sof true true) s = .next
        (((s.setBtu { s.btu with capture := some { time := s.btu.time, confirmed := true } }).setLiu
          { s.liu with state := .sending, timing := start }).setFcu (Claims.runSince 0 s))
      ∧ exec (.sof false false) s = .next (s.setLiu { s.liu with timing := start })
      ∧ exec (.sof false true) s = exec (.errorDetected .bit [true]) (s.setLiu { s.liu with timing := start })
      ∧ ∃ t : State, exec (.sof true false) s = .next t
        ∧ t.btu = { s.btu with capture := some { time := s.btu.time, confirmed := true } }
        ∧ t.liu = { s.liu with state := .receiving, timing := start, attempt := none, holdOff := false }
        ∧ t.fcu = Claims.runSince 0 s
        ∧ t.stc = s.stc ∧ t.iku = s.iku ∧ t.csu = s.csu ∧ t.clu = s.clu ∧ t.mku = s.mku ∧ t.pending = s.pending)
    ∧ ∀ (sampled drove : Bool) (s : State), s.liu.state ≠ .idle → exec (.sof sampled drove) s = .next s

/-- SOF: the bit timing is hard-synchronised; the edge is captured and the frame sent or received by whether this station drove it, and the LIU stays IDLE where the edge was too short; receiving ends a hold-off and returns an offer not driven as lost arbitration, its record or BEAT left, STALE, WITHDRAWN or waiting again; a SOF driven and sampled recessive is a BIT error as sender; and edges inside a frame resynchronise the bit timing (R1, R3, R4, R24, R26, R40, R62, R72, R76, R78). That edge and sample are one event is the model's choice (assumption 9), what SOF does outside IDLE, or as driven by a station that holds no attempt (8), that a stale time is out of date by its distance alone (21), and that the edges inside a frame reach no row (7). -/
def Obligations.SofBeginsFrame : Prop :=
  Claims.SofTaken
    ∧ Claims.OfferReturnedAtSof
    ∧ Claims.EdgesResynchronise

/-- LOST_ARBITRATION of a general record: the station receives from the lost bit on and keeps its capture, and the record leaves as WITHDRAWN, as STALE, or returns to WAITING with its error attempts and its place in the order (R8, R76). -/
def Claims.LostArbitrationReturnsRecord : Prop :=
  ∀ (a : Attempt) (r : Record) (s : State), s.liu.state = .sending → s.stc.draining = false →
    (s.sq.records.map fun r => r.tag.slot).Nodup → Claims.attemptOf a r s →
    let out := fun t : State => t.setLiu { s.liu with state := .receiving, attempt := none }
    (r.withdrawPending = true →
      exec .lostArbitration s = .next (out (Claims.recordLeft r .withdrawn false false s)))
    ∧ (r.withdrawPending = false → Claims.staleNow r.stale s.micros →
      exec .lostArbitration s = .next (out (Claims.recordLeft r .stale false false s)))
    ∧ (r.withdrawPending = false → ¬Claims.staleNow r.stale s.micros →
      exec .lostArbitration s = .next
        (out (s.setSq
          { s.sq with
            records := s.sq.records.map fun x => if x.tag = r.tag then { r with state := .waiting } else x })))

/-- A BEAT that loses arbitration leaves the slot where it is superseded or its stale time is out of date, and returns to WAITING otherwise (R62, R72, R78). -/
def Claims.LostBeatReturnsOrMakesRoom : Prop :=
  ∀ (a : Attempt) (b : BeatRecord) (s : State), s.liu.state = .sending → s.stc.draining = false →
    s.liu.attempt = some a → a.place = .beat → s.sq.beat = some b → b.inFlight = true →
    let out := fun t : State => t.setLiu { s.liu with state := .receiving, attempt := none }
    (b.superseded = false → ¬Claims.staleNow (some b.beat.stale) s.micros →
      exec .lostArbitration s = .next (out (s.setSq { s.sq with beat := some { b with inFlight := false } })))
    ∧ (b.superseded = true ∨ Claims.staleNow (some b.beat.stale) s.micros →
      exec .lostArbitration s = .next (out (Claims.beatLeft s)))

/-- LOST_ARBITRATION of a general record, which leaves as WITHDRAWN, as STALE or waits again, and of a BEAT, which leaves where it is superseded or out of date and waits again otherwise (R8, R62, R72, R76, R78, R79). That a stale time is out of date by its distance alone is the model's reading: assumption 21. -/
def Obligations.LostArbitrationReturnsRecordOrBeat : Prop :=
  Claims.LostArbitrationReturnsRecord
    ∧ Claims.LostBeatReturnsOrMakesRoom

/-- Whether a stale time is out of date, as a check: reached, or more than 2^30 µs ahead (R79, assumption 21). -/
def Claims.outOfDate (now t : Micros) : Bool := decide ((t - now).toNat = 0 ∨ 2 ^ 30 < (t - now).toNat)

/-- What an offer removes first: every WAITING record whose stale time is out of date leaves as STALE, in slot order, and then a BEAT whose stale time is (R73, R78, R79). -/
def Claims.staleLeft (s : State) : State :=
  let u := Claims.allLeft
    (fun r => decide (r.state = .waiting) && r.stale.any (Claims.outOfDate s.micros)) .stale s
  u.setSq { u.sq with beat := s.sq.beat.filter fun b => b.inFlight || !Claims.outOfDate s.micros b.beat.stale }

/-- What the selection compares of a record (R74). -/
structure Claims.Candidate where
  cls     : Nat
  urgency : Nat
  stale   : Option Micros
  order   : Nat

/-- A record's class, its urgency now, which is 0 but for a CUE, its stale time, and its place in the entry order (R74). -/
def Claims.candidate (r : Record) (s : State) : Claims.Candidate :=
  { cls := match r.body with | .recallBody _ => 1 | .markBody _ => 2 | .cueBody _ => 3
    urgency :=
      match r.body, r.stale with
      | .cueBody _, some t => min 15 ((t - s.micros).toNat / s.stc.config.urgencyStep)
      | _, _ => 0
    stale := r.stale, order := r.order }

/-- One candidate stands before another: by class, then by urgency, then by the stale time that expires sooner, then by entry order (R74). -/
def Claims.selectedBefore (now : Micros) (a b : Claims.Candidate) : Prop :=
  a.cls < b.cls
    ∨ a.cls = b.cls ∧ (a.urgency < b.urgency
      ∨ a.urgency = b.urgency ∧
        ((∃ x y, a.stale = some x ∧ b.stale = some y ∧ (x - now).toNat < (y - now).toNat)
          ∨ a.stale = b.stale ∧ a.order < b.order))

/-- What a record's frame carries (R17, R18). -/
def Claims.content : RecordBody → Content
  | .recallBody what => .recallContent what
  | .markBody m => .markContent m
  | .cueBody c => .cueContent c

/-- OFFER at a moment when the LIU is IDLE and free, the station JOINED, ACTIVE or GUARDED, and no hold-off runs: stale WAITING records leave, and of those left a BEAT, or else the record that stands before every other by class, urgency now, stale time and entry order, becomes IN_FLIGHT with the frame built from it, a BEAT's with its stamp still open; where none waits there is no offer (R4, R5, R16, R62, R73, R74, R78, R79). -/
def Claims.OfferTakesLeast : Prop :=
  ∀ s : State, s.liu.state = .idle → s.liu.attempt = none → s.stc.station = .joined →
    (s.fcu.state = .active ∨ s.fcu.state = .guarded) → s.liu.holdOff = false → s.QueueOk →
    let u := Claims.staleLeft s
    let held := fun (place : Place) (frame : Frame) (t : State) =>
      (t.setDraws (s.draws + 1)).setLiu
        { s.liu with attempt := some { place := place, frame := frame, stamp := none } }
    ((∀ r ∈ u.sq.records, r.state ≠ .waiting) → u.sq.beat = none → exec .offer s = .next u)
    ∧ (∀ b, u.sq.beat = some b → ∃ unused : Nat,
      exec .offer s = .next
        (held .beat
          { cls := .beat, urgency := 0, station := s.stc.config.id
            payload := payloadBytes unused
              (.beatContent 0 b.beat.interval b.beat.sync b.beat.fresh b.beat.sequence) }
          (u.setSq { u.sq with beat := some { b with inFlight := true } })))
    ∧ ∀ r ∈ u.sq.records, r.state = .waiting → u.sq.beat = none →
      (∀ x ∈ u.sq.records, x.state = .waiting → x ≠ r →
        Claims.selectedBefore s.micros (Claims.candidate r s) (Claims.candidate x s)) →
      ∃ unused : Nat,
        exec .offer s = .next
          (held (.slot r.tag.slot)
            { cls := match r.body with | .recallBody _ => .recallFrame | .markBody _ => .mark | .cueBody _ => .cue
              urgency := BitVec.ofNat 4 (Claims.candidate r s).urgency, station := s.stc.config.id
              payload := payloadBytes unused (Claims.content r.body) }
            (u.setSq
              { u.sq with
                records := u.sq.records.map fun x =>
                  if x.tag.slot = r.tag.slot then { x with state := .inFlight } else x }))

/-- OFFER changes nothing while the LIU is not IDLE or holds an attempt, while the station is not JOINED, SILENCED or BARRED, and in a hold-off (R4, R23, R24, R73, R83). -/
def Claims.NoOffer : Prop :=
  ∀ s : State,
    (s.liu.state ≠ .idle ∨ s.liu.attempt ≠ none ∨ s.stc.station ≠ .joined ∨ s.fcu.state = .silenced
      ∨ s.fcu.state = .barred ∨ s.liu.holdOff = true) →
    exec .offer s = .next s

/-- OFFER: where the LIU may take one, the least record that waits becomes IN_FLIGHT with the frame built from it, after stale ones have left (R4, R5, R16, R62, R73, R74, R78, R79); elsewhere it changes nothing (R73, R83). The unused bits of a sent frame are free (assumption 23); a stale time is out of date by its distance alone (21). -/
def Obligations.OfferTakesLeastWaiting : Prop :=
  Claims.OfferTakesLeast
    ∧ Claims.NoOffer

/-- ERROR_DETECTED: what the FCU, the BTU and the LIU make of it, as sender and as receiver; the frame goes nowhere, and settings, schedule, lines, marks and intake are untouched (R11, R12, R20, R22, R25, R40). -/
def Claims.ErrorDetectedReportedAndSignalled : Prop :=
  ∀ (kind : ErrorKind) (sampled : List Bool) (role : Role) (s : State), s.stc.draining = false →
    (s.liu.state = .idle ∧ s.liu.attempt.isSome ∧ role = .sender ∧ kind = .bit
      ∨ s.liu.state = .sending ∧ role = .sender ∧ (kind = .bit ∨ kind = .form ∨ kind = .ack ∧ 0 < s.presentPeers)
      ∨ s.liu.state = .receiving ∧ role = .receiver ∧ (kind = .stuff ∨ kind = .form ∨ kind = .crc)) →
    ∃ t : State, exec (.errorDetected kind sampled) s = .next t
      ∧ t.fcu = Claims.fcuAfterError role sampled s ∧ t.liu.attempt = none
      ∧ t.liu.state = Claims.signalling t.fcu.state role ∧ t.btu = { s.btu with capture := none }
      ∧ (s.liu.attempt = none → t.sq = s.sq ∧ t.agu = s.agu)
      ∧ Claims.posts Claims.isFaultState s t
        (if t.fcu.state = s.fcu.state then []
        else Claims.noticesAt s.micros [.faultState s.fcu.state t.fcu.state])
      ∧ t.stc = s.stc ∧ t.iku = s.iku ∧ t.csu = s.csu ∧ t.clu = s.clu ∧ t.mku = s.mku ∧ t.pending = s.pending

/-- What the FCU makes of an error report in the last of the bits sampled: the score, the fault state with its notice, and an end of the hold-off where the fault state changes (R20, R22, R24, R25). -/
def Claims.errorReported (role : Role) (sampled : List Bool) (s : State) : State :=
  let f := Claims.fcuAfterError role sampled s
  if f.state = s.fcu.state then s.setFcu f
  else ((s.setFcu f).setLiu { s.liu with holdOff := false }).post (.faultState s.fcu.state f.state)

/-- An error of a kind in which this station's own attempt ends: in the SOF it drove, or while SENDING (R3, R9, R10). -/
def Claims.errorAsSender (kind : ErrorKind) (s : State) : Prop :=
  s.liu.state = .idle ∧ kind = .bit
    ∨ s.liu.state = .sending ∧ (kind = .bit ∨ kind = .form ∨ kind = .ack ∧ 0 < s.presentPeers)

/-- The LIU and the BTU after an own attempt ended in error: no attempt, no capture, and the flag the fault state gives (R11, R12, R24, R40). -/
def Claims.attemptFailed (s t : State) : State :=
  (t.setLiu
      { t.liu with state := Claims.signalling t.fcu.state .sender, attempt := none, ownEnded := true }).setBtu
    { s.btu with capture := none }

/-- An error outcome of a general record: its error attempts go up by one, and it leaves as WITHDRAWN, as STALE, as FAILED at 32, or returns to WAITING (R11, R77). -/
def Claims.ErrorOutcomeOfRecord : Prop :=
  ∀ (kind : ErrorKind) (sampled : List Bool) (a : Attempt) (r : Record) (s : State), s.stc.draining = false →
    (s.sq.records.map fun r => r.tag.slot).Nodup → Claims.attemptOf a r s → Claims.errorAsSender kind s →
    let u := Claims.errorReported .sender sampled s
    let out := fun t : State => Claims.attemptFailed s t
    (r.withdrawPending = true →
      exec (.errorDetected kind sampled) s = .next (out (Claims.recordLeft r .withdrawn false false u)))
    ∧ (r.withdrawPending = false → Claims.staleNow r.stale s.micros →
      exec (.errorDetected kind sampled) s = .next (out (Claims.recordLeft r .stale false false u)))
    ∧ (r.withdrawPending = false → ¬Claims.staleNow r.stale s.micros → 31 ≤ r.errors →
      exec (.errorDetected kind sampled) s = .next (out (Claims.recordLeft r .failed false false u)))
    ∧ (r.withdrawPending = false → ¬Claims.staleNow r.stale s.micros → r.errors < 31 →
      exec (.errorDetected kind sampled) s = .next
        (out (u.setSq
          { u.sq with
            records := u.sq.records.map fun x =>
              if x.tag = r.tag then { r with state := .waiting, errors := r.errors + 1 } else x })))

/-- An error outcome of the BEAT: it leaves where it is superseded, out of date or at its 32nd error attempt, and returns to WAITING with its error attempts up by one otherwise; no notice of the SQ follows (R11, R78). -/
def Claims.ErrorOutcomeOfBeat : Prop :=
  ∀ (kind : ErrorKind) (sampled : List Bool) (a : Attempt) (b : BeatRecord) (s : State), s.stc.draining = false →
    s.liu.attempt = some a → a.place = .beat → s.sq.beat = some b → b.inFlight = true →
    Claims.errorAsSender kind s →
    let u := Claims.errorReported .sender sampled s
    let out := fun t : State => Claims.attemptFailed s t
    (b.superseded = true ∨ Claims.staleNow (some b.beat.stale) s.micros ∨ 31 ≤ b.errors →
      exec (.errorDetected kind sampled) s = .next (out (Claims.beatLeft u)))
    ∧ (b.superseded = false → ¬Claims.staleNow (some b.beat.stale) s.micros → b.errors < 31 →
      exec (.errorDetected kind sampled) s = .next
        (out (u.setSq { u.sq with beat := some { b with inFlight := false, errors := b.errors + 1 } })))

/-- An error in a frame being drained is signalled and reported to no block (R19). That the capture is dropped at once is the model's: assumption 16. -/
def Claims.DrainedErrorIsNotReported : Prop :=
  ∀ (kind : ErrorKind) (sampled : List Bool) (s : State), s.stc.draining = true → s.liu.state = .sending →
    kind = .bit ∨ kind = .form →
    exec (.errorDetected kind sampled) s = .next
      ((s.setBtu { s.btu with capture := none }).setLiu
        { s.liu with state := Claims.signalling s.fcu.state .sender })

/-- After acceptance and after the error delimiter the LIU is SPACING, and it enters IDLE when the 3 bits are complete; a bit of the interframe space sampled dominant is a FORM error with the role receiver, reported to the FCU, with FAULT_STATE and an end of the hold-off where the fault state changes, and signalled; it discards no capture and undoes no acceptance; a SILENCED station counts the bits sampled in delimiter, space and error into its run (R11, R12, R15, R20, R22, R24, R25, R26). That the end of an own attempt is still held across that error, so that a GUARDED station's hold-off starts when the LIU enters IDLE after it, is the model's reading: assumption 15. That rows carry the bits they report, and that the spans these complete wait for IDLE_SPAN, is its choice: assumption 38. -/
def Obligations.InterframeSpaceAndItsError : Prop :=
  (∀ (f : Frame) (ack : Bool) (s : State), s.liu.state = .receiving →
      ∃ t : State, exec (.acceptance f ack) s = .next t ∧ t.liu.state = .spacing)
    ∧ (∀ (f : Frame) (ack : Bool) (a : Attempt) (s : State), s.liu.state = .sending → s.stc.draining = false →
      s.liu.attempt = some a → (ack = true ∨ s.presentPeers = 0) →
      ∃ t : State, exec (.acceptance f ack) s = .next t ∧ t.liu.state = .spacing)
    ∧ (∀ (role : Role) (sampled : List Bool) (s : State), s.liu.state = .delimiting role → s.stc.draining = false →
      exec (.errorDelimiterEnd sampled) s = .next
        ((s.setLiu { s.liu with state := .spacing }).setFcu (Claims.fcuSampled sampled s)))
    ∧ (∀ s : State, s.liu.state = .spacing →
      ∃ t : State, exec .interframeSpaceEnd s = .next t ∧ t.liu.state = .idle)
    ∧ ∀ (sampled : List Bool) (s : State), s.liu.state = .spacing →
      let u := Claims.errorReported .receiver sampled s
      exec (.errorDetected .form sampled) s = .next
        (u.setLiu { u.liu with state := Claims.signalling u.fcu.state .receiver })

/-- ACCEPTANCE of a frame this station sent, acknowledged, or unheard while no peer is PRESENT: acceptance score, the record leaves as SENT with its flags, the capture is handed on, and the LIU spaces (R9, R14, R21, R75). -/
def Claims.AcceptanceSendsRecord : Prop :=
  ∀ (f : Frame) (ack : Bool) (a : Attempt) (r : Record) (s : State), s.liu.state = .sending →
    s.stc.draining = false → s.stc.station = .joined → (s.sq.records.map fun r => r.tag.slot).Nodup →
    s.FaultOk → Claims.attemptOf a r s → (ack = true ∨ s.presentPeers = 0) →
    ∃ t : State, exec (.acceptance f ack) s = .next t
      ∧ t.fcu = Claims.fcuAfterAcceptance s ∧ t.sq = (Claims.recordLeft r .sent (!ack) r.withdrawPending s).sq
      ∧ t.liu.attempt = none ∧ t.liu.state = .spacing ∧ t.liu.ownEnded = true
      ∧ t.btu = { s.btu with capture := none }
      ∧ Claims.posts Claims.isCompletion s t
        (Claims.noticesAt s.micros [.sendQueue .sent r.tag (!ack) r.withdrawPending])
      ∧ Claims.posts Claims.isFaultState s t
        (if t.fcu.state = s.fcu.state then []
        else Claims.noticesAt s.micros [.faultState s.fcu.state t.fcu.state])
      ∧ t.agu = s.agu ∧ t.stc = s.stc ∧ t.mku = s.mku ∧ t.pending = s.pending

/-- What the FCU makes of an acceptance: the score, the fault state with its notice, and an end of the hold-off where the fault state changes (R21, R22, R24). -/
def Claims.acceptanceReported (s : State) : State :=
  let f := Claims.fcuAfterAcceptance s
  if f.state = s.fcu.state then s.setFcu f
  else ((s.setFcu f).setLiu { s.liu with holdOff := false }).post (.faultState s.fcu.state f.state)

/-- A general record of this station's sent, before its frame reaches the IKU: the acceptance reported, the record left, and the LIU spacing without attempt or capture (R14, R75). -/
def Claims.recordSent (r : Record) (unheard : Bool) (s : State) : State :=
  let u := Claims.recordLeft r .sent unheard r.withdrawPending (Claims.acceptanceReported s)
  (u.setLiu { u.liu with state := .spacing, attempt := none, ownEnded := true }).setBtu { s.btu with capture := none }

/-- A well-formed CUE at the subscription table: the first entry that matches makes an arrival of it, and where none does it is counted (R94, R95). -/
def Claims.cueTaken (origin : StationId) (c : CueContent) (u t : State) : Prop :=
  ((∀ i : Fin 16, ¬Claims.subscribes u.iku.subscriptions[i] c.topic) →
      t = u.setIku { u.iku with unsubscribed := min 65535 (u.iku.unsubscribed + 1) })
    ∧ ∀ hit : Fin 16, Claims.subscribes u.iku.subscriptions[hit] c.topic →
      (∀ i : Fin 16, i < hit → ¬Claims.subscribes u.iku.subscriptions[i] c.topic) →
      t = u.arrive
        { key := { origin := origin, number := c.number }, source := .bus, topic := some c.topic, hit := some hit
          target := u.iku.subscriptions[hit].target, action := c.action, width := c.width, rpt := c.rpt, due := c.due
          notify := u.iku.subscriptions[hit].notify, late := false }

/-- What this station's own frame does at home: a MARK nothing, since its edge was matched when it was taken; a RECALL acts on the schedule; and a CUE is matched against the station's own subscription table, and scheduled or counted (R92, R93). -/
def Claims.AcceptanceActsAtHome : Prop :=
  ∀ (f : Frame) (ack : Bool) (a : Attempt) (r : Record) (s : State), s.liu.state = .sending →
    s.stc.draining = false → s.stc.station = .joined → (s.sq.records.map fun r => r.tag.slot).Nodup →
    s.FaultOk → Claims.attemptOf a r s → (ack = true ∨ s.presentPeers = 0) →
    let u := Claims.recordSent r (!ack) s
    (∀ m, parseFrame a.frame = some (.markContent m) → exec (.acceptance f ack) s = .next u)
    ∧ (∀ what, parseFrame a.frame = some (.recallContent what) →
      exec (.acceptance f ack) s = .next (u.recallEntries what))
    ∧ ∀ c, parseFrame a.frame = some (.cueContent c) →
      ∃ t : State, exec (.acceptance f ack) s = .next t ∧ Claims.cueTaken a.frame.station c u t

/-- ACCEPTANCE of a BEAT this station sent, in ACTIVE and in GUARDED: the acceptance reported to the FCU, with FAULT_STATE where the fault state changes; the beat slot empty, or with the BEAT that was pending behind one superseded placed in it; no completion notice, and nothing at home (R14, R21, R22, R62, R78, R92, R93). -/
def Claims.AcceptanceSendsBeat : Prop :=
  ∀ (f : Frame) (ack : Bool) (a : Attempt) (b : BeatRecord) (s : State), s.liu.state = .sending →
    s.stc.draining = false → s.stc.station = .joined → s.FaultOk → s.liu.attempt = some a → a.place = .beat →
    s.sq.beat = some b → b.inFlight = true → (ack = true ∨ s.presentPeers = 0) →
    parseFrame (a.sentFrame s.btu.capture) ≠ none → a.frame.cls = .beat →
    let u := Claims.beatLeft (Claims.acceptanceReported s)
    exec (.acceptance f ack) s = .next
      ((u.setLiu { u.liu with state := .spacing, attempt := none, ownEnded := true }).setBtu
        { s.btu with capture := none })

/-- How an attempt of this station ends in error or in acceptance. ERROR_DETECTED: the reports to FCU and BTU, the signalling, and the record or BEAT whose attempt it ended, which leaves as WITHDRAWN, STALE or FAILED or waits again (R11, R12, R20, R22, R24, R25, R40, R77, R78). ACCEPTANCE of a frame this station sent: the score, and the record leaves as SENT, the BEAT without a notice, the one pending behind it placed (R9, R14, R21, R22, R62, R75, R78); at home its RECALL and its CUE act as any station's, its MARK and its BEAT do nothing (R92, R93). An error in a drained frame is reported to no block (R19); that it drops the capture at once is the model's choice, assumption 16. A stale time is out of date by its distance alone (assumption 21); the order of the FCU's notice and the SQ's is a free value (assumption 34); that the row of an error carries the bits sampled is assumption 38. -/
def Obligations.ErrorOrAcceptanceEndsAttempt : Prop :=
  Claims.ErrorDetectedReportedAndSignalled ∧ Claims.ErrorOutcomeOfRecord ∧ Claims.ErrorOutcomeOfBeat
    ∧ Claims.DrainedErrorIsNotReported ∧ Claims.AcceptanceSendsRecord ∧ Claims.AcceptanceActsAtHome
    ∧ Claims.AcceptanceSendsBeat

/-- The recessive bits on the line since the last dominant one, when a frame is accepted: those from the ack delimiter on, and behind a recessive ack slot that, the CRC delimiter and the end of the stuffed region too (R5, R6, R9). -/
def Claims.quietTail (f : Frame) (ackDominant : Bool) : Nat :=
  if ackDominant then 8 else 10 + ((stuff (regionBits f)).reverse.takeWhile fun b => b).length

/-- The acceptance of a frame this station did not send, before it reaches the IKU: reported to the FCU, which has sampled the frame's bits, the capture handed on, and the LIU spacing (R14, R15, R26, R40). -/
def Claims.receptionReported (f : Frame) (ackDominant : Bool) (s : State) : State :=
  let u := Claims.acceptanceReported (s.setFcu (Claims.runSince (Claims.quietTail f ackDominant) s))
  (u.setBtu { s.btu with capture := none }).setLiu { u.liu with state := .spacing }

/-- An id clash: ID_CLASH, and a station not yet BARRED enters BARRED with its score, its span count, its run and its recovery time gone, the hold-off ended, and FAULT_STATE posted (R22, R24, R28). -/
def Claims.clashReported (s : State) : State :=
  let noticed := s.post (.peer .idClash s.stc.config.id)
  if s.fcu.state = .barred then noticed
  else
    ((noticed.setFcu
          { s.fcu with state := .barred, spans := 0, run := 0, owed := 0, recovery := none, timeReached := false }).setLiu
      { s.liu with holdOff := false }).post (.faultState s.fcu.state .barred)

/-- Steps 1 and 2 of the handling of a frame this station did not send: a clash where it bears this station's id; a heard report where it bears another valid id and the station is JOINED, or LISTENING to a BEAT; neither for the ids 0 and 127 (R28, R47, R48, R87). -/
def Claims.received (f : Frame) (ackDominant : Bool) (s : State) : State :=
  let u := Claims.receptionReported f ackDominant s
  if f.station = s.stc.config.id then Claims.clashReported u
  else if 1 ≤ f.station.toNat ∧ f.station.toNat ≤ 126 ∧ (s.stc.station = .joined ∨ f.cls = .beat) then
    u.heard f.station
  else u

/-- A MALFORMED frame is counted, and noticed once between two rounds (R91). -/
def Claims.malformedCounted (f : Frame) (u : State) : State :=
  let counted := u.setIku { u.iku with malformed := min 65535 (u.iku.malformed + 1), noticed := true }
  if u.iku.noticed then counted else counted.post (.peer .malformed f.station)

/-- ACCEPTANCE of a frame this station did not send, while JOINED, from any station field, dispatched by class: a BEAT is a sample of its stamp less the capture, a RECALL acts on the schedule, a MARK is matched against the reactions, a CUE becomes the arrival its first matching subscription makes or is counted, and a MALFORMED frame is counted and noticed once between rounds (R14, R87, R89 to R92, R94, R95). -/
def Claims.AcceptanceDispatched : Prop :=
  ∀ (f : Frame) (ack : Bool) (s : State), s.liu.state = .receiving → s.stc.station = .joined → s.FaultOk →
    let u := Claims.received f ack s
    (parseFrame f = none → exec (.acceptance f ack) s = .next (Claims.malformedCounted f u))
    ∧ (∀ stamp interval sync fresh sequence c, parseFrame f = some (.beatContent stamp interval sync fresh sequence) →
      s.btu.capture = some c →
      exec (.acceptance f ack) s = .next (u.beatSample f.station stamp c.time interval sync sequence))
    ∧ (∀ what, parseFrame f = some (.recallContent what) →
      exec (.acceptance f ack) s = .next (u.recallEntries what))
    ∧ (∀ m, parseFrame f = some (.markContent m) →
      exec (.acceptance f ack) s = .next
        (u.react { source := f.station, input := m.input, edge := m.edge, capture := m.capture }))
    ∧ (∀ c, parseFrame f = some (.cueContent c) →
      ∃ t : State, exec (.acceptance f ack) s = .next t ∧ Claims.cueTaken f.station c u t)
    ∧ (f.station.toNat = 0 ∨ f.station.toNat = 127 → parseFrame f = none)

/-- ACCEPTANCE while LISTENING: a frame of another class than BEAT goes no further than its report and a clash, whatever its payload; a BEAT is heard, and sampled or MALFORMED (R28, R48, R87, R88). -/
def Claims.AcceptanceWhileListening : Prop :=
  ∀ (f : Frame) (ack : Bool) (s : State), s.liu.state = .receiving → s.stc.station = .listening → s.FaultOk →
    let u := Claims.received f ack s
    (f.cls ≠ .beat → exec (.acceptance f ack) s = .next u)
    ∧ (f.cls = .beat → parseFrame f = none → exec (.acceptance f ack) s = .next (Claims.malformedCounted f u))
    ∧ ∀ stamp interval sync fresh sequence c, parseFrame f = some (.beatContent stamp interval sync fresh sequence) →
      s.btu.capture = some c →
      exec (.acceptance f ack) s = .next (u.beatSample f.station stamp c.time interval sync sequence)

/-- The peer table with one index written. -/
def Claims.withPeer (i : Fin 32) (p : Peer) (s : State) : State :=
  s.setAgu { s.agu with peers := s.agu.peers.set i (some p) }

/-- A new entry of the peer table (R47). -/
def Claims.newPeer (id : StationId) : Peer :=
  { station := id, presence := .present, rounds := 0, offset := none, fresh := false, mismatch := false
    sync := none, sequence := none }

/-- A heard report: an entry of the station counts from 0 and is PRESENT; a station without one takes the lowest free index; where none is free it takes that of the SILENT entry with the most rounds since heard, the lowest of equal ones, which is freed; and where no entry is SILENT it is not tracked, and PEERS_FULL is posted once (R47, R48, R49). -/
def Claims.HeardReportTaken : Prop :=
  ∀ (id : StationId) (s : State),
    (∀ (i : Fin 32) (p : Peer), s.agu.peers[i] = some p → p.station = id →
      (∀ (j : Fin 32) q, s.agu.peers[j] = some q → q.station = id → j = i) →
      let t := Claims.withPeer i { p with rounds := 0, presence := .present } s
      s.heard id = if p.presence = .silent then t.post (.peerState id .present) else t)
    ∧ ((∀ (j : Fin 32) q, s.agu.peers[j] = some q → q.station ≠ id) →
      (∀ i : Fin 32, s.agu.peers[i] = none → (∀ j : Fin 32, j < i → s.agu.peers[j] ≠ none) →
        s.heard id = (Claims.withPeer i (Claims.newPeer id) s).post (.peerState id .present))
      ∧ ((∀ j : Fin 32, s.agu.peers[j] ≠ none) →
        (∀ (i : Fin 32) (p : Peer), s.agu.peers[i] = some p → p.presence = .silent →
          (∀ (j : Fin 32) q, s.agu.peers[j] = some q → q.presence = .silent →
            q.rounds ≤ p.rounds ∧ (j < i → q.rounds < p.rounds)) →
          s.heard id =
            (Claims.withPeer i (Claims.newPeer id) (s.post (.peerState p.station .freed))).post
              (.peerState id .present))
        ∧ ((∀ (j : Fin 32) q, s.agu.peers[j] = some q → q.presence = .present) →
          (s.agu.fullNotice = true → s.heard id = s)
          ∧ (s.agu.fullNotice = false →
            s.heard id = (s.post (.peer .peersFull id)).setAgu { s.agu with fullNotice := true }))))

/-- A BEAT sample: the sender's entry takes the stamp less the capture, read as signed, with the fresh flag set, the mismatch flag by the beat intervals, and the BEAT's sync state and sequence; without an entry nothing changes (R33, R50). -/
def Claims.BeatSampleTaken : Prop :=
  ∀ (id : StationId) (stamp capture : BusTime) (interval : Nat) (sync : SyncState) (sequence : Byte) (s : State),
    (∀ (i : Fin 32) (p : Peer), s.agu.peers[i] = some p → p.station = id →
      (∀ (j : Fin 32) q, s.agu.peers[j] = some q → q.station = id → j = i) →
      let d : Nat := (stamp.toNat + (2 ^ 36 - capture.toNat)) % 2 ^ 36
      s.beatSample id stamp capture interval sync sequence =
        Claims.withPeer i
          { p with
            offset := some (if d < 2 ^ 35 then (d : Int) else (d : Int) - 2 ^ 36), fresh := true
            mismatch := decide (interval ≠ s.stc.config.beatMs), sync := some sync
            sequence := some sequence } s)
    ∧ ((∀ (j : Fin 32) q, s.agu.peers[j] = some q → q.station ≠ id) →
      s.beatSample id stamp capture interval sync sequence = s)

/-- ACCEPTANCE of a frame this station did not send: while JOINED dispatched by class, while LISTENING only a BEAT kept, with the id clash, the heard report and the BEAT sample the peer table takes of it (R14, R28, R33, R47 to R50, R87 to R92, R94, R95). A SILENCED station counts the frame's last recessive bits into its run (R26). The order among the notices of the FCU, the AGU, the IKU and the CSU is a free value: assumption 34. -/
def Obligations.AcceptanceDispatchesByClass : Prop :=
  Claims.AcceptanceDispatched ∧ Claims.AcceptanceWhileListening ∧ Claims.HeardReportTaken ∧ Claims.BeatSampleTaken

/-- An id clash in any class, in LISTENING and in JOINED, and in each fault state: ID_CLASH is posted; an ACTIVE, GUARDED or SILENCED station enters BARRED with FAULT_STATE, its score as the acceptance left it, its spans and recovery time gone and its hold-off ended; a BARRED one stays as it is (R22, R24, R28). Nothing of STC, the SQ or the reaction table moves. -/
def Claims.ClashBarsStation : Prop :=
  ∀ (f : Frame) (ack : Bool) (s : State), s.liu.state = .receiving → s.stc.station ≠ .offline →
    f.station = s.stc.config.id → s.FaultOk →
    let accepted := Claims.fcuAfterAcceptance s
    let barred := decide (s.fcu.state = .barred)
    ∃ t : State, exec (.acceptance f ack) s = .next t
      ∧ t.fcu =
        (if barred then s.fcu
        else
          { score := accepted.score, state := .barred, spans := 0, run := 0, owed := 0, recovery := none, timeReached := false })
      ∧ t.liu = { s.liu with state := .spacing, holdOff := barred && s.liu.holdOff }
      ∧ Claims.posts Claims.isFaultOrClash s t
        (Claims.noticesAt s.micros
          ((if accepted.state = s.fcu.state then [] else [.faultState s.fcu.state accepted.state])
            ++ .peer .idClash s.stc.config.id :: if barred then [] else [.faultState accepted.state .barred]))
      ∧ t.btu = { s.btu with capture := none } ∧ t.stc = s.stc ∧ t.sq = s.sq ∧ t.mku = s.mku ∧ t.pending = s.pending

/-- The same for a MARK of this id while LISTENING, which goes no further (R88): the whole next state. -/
def Claims.ClashWhileListening : Prop :=
  ∀ (f : Frame) (ack : Bool) (s : State), s.liu.state = .receiving → s.stc.station = .listening →
    f.cls = .mark → f.station = s.stc.config.id → s.fcu.state = .active → s.fcu.score ≤ 95 →
    exec (.acceptance f ack) s = .next
      (((((s.setFcu
              { score := s.fcu.score - 1, state := .barred, spans := 0, run := 0, owed := 0, recovery := none
                timeReached := false }).setLiu
          { s.liu with state := .spacing, holdOff := false }).setBtu { s.btu with capture := none }).post
        (.peer .idClash s.stc.config.id)).post (.faultState .active .barred))

/-- An accepted frame bearing this station's id that it did not send bars the station, in LISTENING and in JOINED, whatever its class and the fault state: ID_CLASH and FAULT_STATE are posted, the score keeps the value the acceptance gave it, and spans, recovery time and hold-off end; a BARRED station only notices it (R21, R22, R24, R28). The FCU posts all of these notices, those of the acceptance first. -/
def Obligations.IdClashBarsStation : Prop :=
  Claims.ClashBarsStation
    ∧ Claims.ClashWhileListening

/-- A line event that cannot occur in the present LIU state changes nothing. The model's choice: assumption 8. -/
def Obligations.LineEventsElsewhereChangeNothing : Prop :=
  (∀ s : State, s.liu.state ≠ .sending → exec .lostArbitration s = .next s)
    ∧ (∀ (f : Frame) (ack : Bool) (s : State), s.liu.state ≠ .sending → s.liu.state ≠ .receiving →
      exec (.acceptance f ack) s = .next s)
    ∧ (∀ s : State, s.liu.state ≠ .spacing → exec .interframeSpaceEnd s = .next s)
    ∧ (∀ s : State, s.liu.state ≠ .integrating → exec .integrationComplete s = .next s)
    ∧ (∀ s : State, s.stc.draining = false → exec .drainEnd s = .next s)
    ∧ (∀ (kind : ErrorKind) (sampled : List Bool) (s : State), s.liu.state = .stopped ∨ s.liu.state = .integrating →
      exec (.errorDetected kind sampled) s = .next s)
    ∧ (∀ (sampled : List Bool) (s : State), (∀ role, s.liu.state ≠ .delimiting role) →
      exec (.errorDelimiterEnd sampled) s = .next s ∧ exec (.stuckLineError sampled) s = .next s)
    ∧ (∀ s : State, (∀ dominant role, s.liu.state ≠ .flagging dominant role) → exec .errorFlagEnd s = .next s)
    ∧ ∀ s : State, s.liu.state ≠ .idle → exec .offer s = .next s ∧ exec .holdOffEnd s = .next s

/-- The LIU's transitions at a flag's end, a delimiter's end, a space's end, integration and a hold-off's end, and at the end of a drain (R2, R13, R15, R19, R24, R26, R40). -/
def Claims.LineTransitions : Prop :=
  (∀ (dominant : Bool) (role : Role) (s : State), s.liu.state = .flagging dominant role →
      exec .errorFlagEnd s = .next (s.setLiu { s.liu with state := .delimiting role }))
    ∧ (∀ (role : Role) (sampled : List Bool) (s : State), s.liu.state = .delimiting role → s.stc.draining = false →
      exec (.errorDelimiterEnd sampled) s = .next
        ((s.setLiu { s.liu with state := .spacing }).setFcu (Claims.fcuSampled sampled s)))
    ∧ (∀ s : State, s.liu.state = .spacing →
      exec .interframeSpaceEnd s = .next
        ((s.setLiu
          { s.liu with
            state := .idle, ownEnded := false
            holdOff := s.liu.ownEnded && decide (s.fcu.state = .guarded) }).setFcu
          (Claims.fcuSampled (List.replicate 3 true) s)))
    ∧ (∀ s : State, s.liu.state = .integrating →
      exec .integrationComplete s = .next (s.setLiu { s.liu with state := .idle }))
    ∧ (∀ s : State, s.liu.state = .idle → exec .holdOffEnd s = .next (s.setLiu { s.liu with holdOff := false }))
    ∧ ∀ (c : Instr) (s : State), s.stc.draining = true →
      (c = .drainEnd ∨ (c = .lostArbitration ∧ s.liu.state = .sending)
        ∨ ((∃ f ack, c = .acceptance f ack) ∧ s.liu.state = .sending)
        ∨ ((∃ sampled, c = .errorDelimiterEnd sampled) ∧ ∃ role, s.liu.state = .delimiting role)) →
      exec c s = .next
        (((s.setLiu
              { s.liu with state := .stopped, attempt := none, ownEnded := false, holdOff := false }).setBtu
            { s.btu with capture := none }).setStc { s.stc with draining := false })

/-- What the LIU drives: a frame's bits while SENDING, dominant in the flag of an ACTIVE station, and recessive otherwise; after an error as receiver that is by the fault state the report left. A receiver drives the ack slot of a sound frame dominant while LISTENING or JOINED, and ACTIVE or GUARDED (01, table of 1.2; R9, R12, R23). -/
def Claims.LineDriven : Prop :=
  (∀ s : State, s.liu.state = .sending → s.btx = .frame)
    ∧ (∀ (role : Role) (s : State), s.liu.state = .flagging true role → s.btx = .dominantFlag)
    ∧ (∀ s : State, s.liu.state ≠ .sending → (∀ role, s.liu.state ≠ .flagging true role) → s.btx = .recessive)
    ∧ (∀ (kind : ErrorKind) (sampled : List Bool) (s : State), s.liu.state = .receiving →
      kind = .stuff ∨ kind = .form ∨ kind = .crc →
      ∃ t : State, exec (.errorDetected kind sampled) s = .next t
        ∧ t.btx = if t.fcu.state = .active then .dominantFlag else .recessive)
    ∧ ∀ s : State, s.acksSoundFrame = true ↔
      s.liu.state = .receiving ∧ (s.stc.station = .listening ∨ s.stc.station = .joined)
        ∧ (s.fcu.state = .active ∨ s.fcu.state = .guarded)

/-- The LIU's own transitions: the flag's end, the delimiter's end and a drain's end, the interframe space with the hold-off of a GUARDED station, integration, and the hold-off's end; a SILENCED station counts the bits of delimiter and space into its run; a drain ends unreported at acceptance, delimiter end, lost arbitration and DRAIN_END; and what the LIU drives (R2, R9, R12, R13, R15, R19, R23, R24, R26, R40). That a STOPPED LIU keeps its settings, and that rows carry the bits they report, are the model's choices: assumptions 18 and 38. -/
def Obligations.LineStatesMove : Prop :=
  Claims.LineTransitions
    ∧ Claims.LineDriven

/-- STUCK_LINE_ERROR reports a further error in the role being signalled, in the last of the bits sampled, with FAULT_STATE and an end of the hold-off where the fault state changes, and nothing else moves; a drain reports none (R13, R19, R20, R22, R24, R25, R26). -/
def Claims.StuckLineReported : Prop :=
  (∀ (role : Role) (sampled : List Bool) (s : State), s.liu.state = .delimiting role → s.stc.draining = false →
      exec (.stuckLineError sampled) s = .next (Claims.errorReported role sampled s))
    ∧ ∀ (role : Role) (sampled : List Bool) (s : State), s.liu.state = .delimiting role → s.stc.draining = true →
      exec (.stuckLineError sampled) s = .next s

/-- What IDLE_SPAN finds of the run: a span whose bits have been reported, or whose bits a row to come reports, leaves the run to that row; elsewhere the run comes to 12 with it, and starts again (R26, assumption 38). -/
def Claims.spanTaken (s : State) : FcuState :=
  match s.liu.state with
  | .receiving | .delimiting _ | .spacing => { s.fcu with owed := s.fcu.owed - 1 }
  | _ => if 0 < s.fcu.owed then { s.fcu with owed := s.fcu.owed - 1 } else { s.fcu with run := 0 }

/-- IDLE_SPAN counts a span while SILENCED, up to 64. With the 64th the station returns where the recovery time has been reached, and waits for it where it is ahead and was not reached before; with fewer, and with 64 counted already, the recovery time is not looked at (R22, R24, R26, R27). That a recovery time once reached stays so is assumption 37; that a span which the clock has counted in this cycle is not counted again is assumption 38. -/
def Claims.IdleSpanCounted : Prop :=
  (∀ s : State, .idleSpan ∈ s.spent → exec .idleSpan s = .next (s.setSpent (s.spent.erase .idleSpan)))
    ∧ ∀ s : State, .idleSpan ∉ s.spent →
      (s.fcu.state ≠ .silenced ∨ s.liu.state = .stopped → exec .idleSpan s = .next s)
      ∧ (s.fcu.state = .silenced → s.liu.state ≠ .stopped →
        (s.fcu.spans < 63 →
          exec .idleSpan s = .next (s.setFcu { Claims.spanTaken s with spans := s.fcu.spans + 1 }))
        ∧ (64 ≤ s.fcu.spans → exec .idleSpan s = .next (s.setFcu { Claims.spanTaken s with spans := 64 }))
        ∧ ∀ t : Micros, s.fcu.spans = 63 → s.fcu.recovery = some t →
          (s.fcu.timeReached = false → Claims.ahead t s.micros →
            exec .idleSpan s = .next (s.setFcu { Claims.spanTaken s with spans := 64 }))
          ∧ (s.fcu.timeReached = true ∨ ¬Claims.ahead t s.micros →
            exec .idleSpan s = .next
              (((s.setFcu Claims.fcuAtRest).setLiu { s.liu with holdOff := false }).post
                (.faultState .silenced .active))))

/-- The IDLE_SPAN rows that sampled bits bring while SILENCED: one for each 12 recessive bits in succession, those of the run so far among them; a dominant bit sets the run to 0; in another fault state, and while the LIU is STOPPED, none (R26). -/
def Claims.IdleSpansFromBits : Prop :=
  (∀ (n : Nat) (s : State), s.fcu.state = .silenced → s.liu.state ≠ .stopped → s.fcu.run < 12 →
      s.spanRows (List.replicate n true) = List.replicate ((s.fcu.run + n) / 12) .idleSpan)
    ∧ (∀ (before after : List Bool) (s : State), s.fcu.state = .silenced → s.liu.state ≠ .stopped →
      s.spanRows (before ++ false :: after) =
        s.spanRows before ++ (s.setFcu { s.fcu with run := 0 }).spanRows after)
    ∧ ∀ (bits : List Bool) (s : State), s.fcu.state ≠ .silenced ∨ s.liu.state = .stopped → s.spanRows bits = []

/-- While bus time runs on, a SILENCED station on an idle line counts the bits that pass their sample points, those of 16 quanta from the current one on: the run goes on modulo 12, with one span for each time it comes to 12. Where the recovery time was reached before, the station returns at the 64th span, at the first cycle that has it, with FAULT_STATE of that moment; without that nothing of the FCU moves but run and spans. In another fault state, and in another state of the LIU, the FCU is as it was. A span that waited for its IDLE_SPAN is counted before time passes (R1, R3, R22, R24, R26, R27, assumption 38). -/
def Claims.IdleLineCounted : Prop :=
  ∀ (t : Micros) (s : State), s.FaultOk →
    (s.micros = t → s.runTo t = s)
    ∧ (s.micros ≠ t → s.fcu.state = .silenced → 0 < s.fcu.owed →
      s.runTo t =
        (Claims.spansCounted s.fcu.owed.toNat (Claims.recoveryReached s) { s.fcu with owed := 0 } s).runTo t)
    ∧ (Claims.noSpanWaits s →
      (s.fcu.state ≠ .silenced ∨ s.liu.state ≠ .idle → (s.runTo t).fcu = s.fcu)
      ∧ (s.fcu.state = .silenced → s.liu.state = .idle → Claims.IdleTiming s →
        let q := Claims.quantum s.liu.settings.bitRate
        let passed := fun cycles : Nat => (cycles + 16 * q - s.liu.settings.samplePoint * q) / (16 * q)
        let run := fun cycles : Nat => s.fcu.run + (passed (s.liu.timing.cycle + cycles) - passed s.liu.timing.cycle)
        let n := s.btu.cyclesTo t
        let returns := s.fcu.timeReached = true ∧ s.fcu.spans < 64 ∧ 64 ≤ s.fcu.spans + run n / 12
        (¬returns →
          (s.runTo t).fcu = { s.fcu with run := run n % 12, spans := min 64 (s.fcu.spans + run n / 12) }
            ∧ (s.runTo t).lpu = s.lpu ∧ (s.runTo t).liu.holdOff = s.liu.holdOff)
        ∧ (returns →
          (s.runTo t).fcu = Claims.fcuAtRest ∧ (s.runTo t).liu.holdOff = false
            ∧ ∃ k ≤ n, 64 ≤ s.fcu.spans + run k / 12 ∧ (∀ j < k, s.fcu.spans + run j / 12 < 64)
              ∧ Claims.posts (fun _ => true) s (s.runTo t)
                (Claims.noticesAt (microsOf (BtuState.tick^[k] s.btu).time) [.faultState .silenced .active]))))

/-! ## Bus time and the expiry of stored times -/

/-- A time is ahead of another when their difference modulo 2^32 lies in 1 to 2^31 - 1, reached otherwise; equal times are reached, and so is a difference of 2^31 or more; a difference of two full times is taken modulo 2^36 and read as signed (R33). -/
def Obligations.ModularComparison : Prop :=
  (∀ a b : Micros, isAhead a b = true ↔
      1 ≤ (a.toNat + (2 ^ 32 - b.toNat)) % 2 ^ 32 ∧ (a.toNat + (2 ^ 32 - b.toNat)) % 2 ^ 32 ≤ 2 ^ 31 - 1)
    ∧ (∀ a b : Micros, reached a b = true ↔ ¬isAhead a b = true)
    ∧ (∀ a : Micros, reached a a = true)
    ∧ (∀ a b : Micros, 2 ^ 31 ≤ (a.toNat + (2 ^ 32 - b.toNat)) % 2 ^ 32 → reached a b = true)
    ∧ ∀ a b : BusTime, signedDifference a b =
      let d : Nat := (a.toNat + (2 ^ 36 - b.toNat)) % 2 ^ 36
      if d < 2 ^ 35 then (d : Int) else (d : Int) - 2 ^ 36

/-- Bus time run on to a stored time has passed exactly the cycles up to the one in which its µs part first equals it (R32, R34, R36). -/
def Obligations.RunToIsFirstCycleThere : Prop :=
  ∀ (t : Micros) (b : BtuState), b.acc < 16000000 → -11200 ≤ b.trim * 16 + b.slew → b.trim * 16 + b.slew ≤ 11200 →
    ∃ n : Nat, b.runTo t = BtuState.tick^[n] b ∧ microsOf (b.runTo t).time = t
      ∧ ∀ m < n, microsOf (BtuState.tick^[m] b).time ≠ t

/-- The µs change of a step (R37). -/
def Claims.microsChange (old : BusTime) (amount : Int) : Int := (old.toNat + amount) / 16 - old.toNat / 16

/-- A time's distance after a step: its distance ahead of the old bus time less the µs change (R39). That a time behind the old bus time counts as negative is assumption 14. -/
def Claims.distanceAfter (t old : Micros) (change : Int) : Int := (t - old).toInt - change

/-- The payload of the frame being sent begins in the present reference cycle (R41). -/
def Claims.payloadBegins (a : Attempt) (t : BitTiming) : Prop :=
  t.bit = Claims.payloadStart a.frame ∧ t.cycle = 0

/-- A step takes the place of the advance of its reference cycle: it adds its amount to the counter and to a held SOF capture, moves every pulse end, spacing end and the listen-window end by the µs change, and leaves trim, slew and accumulator; lines that no entry of the schedule targets keep their level. The stamp of a BEAT being sent keeps the reading before the step where its payload has begun, and takes the moved one where it has not (R37, R38, R41); where it begins in this very cycle, which of the two is free (assumption 6). -/
def Claims.StepMovesTimes : Prop :=
  (∀ s : State, s.stepTime 0 = s)
    ∧ ∀ (amount : Int) (s : State), amount ≠ 0 →
      let change := Claims.microsChange s.btu.time amount
      let t := s.stepTime amount
      t.btu = { s.btu with
          time := s.btu.time + BitVec.ofInt 36 amount
          stepFrom := some s.btu.time
          capture := s.btu.capture.map fun c => { c with time := c.time + BitVec.ofInt 36 amount } }
      ∧ (∀ i : Fin 8, (∀ e ∈ s.csu.schedule, e.target ≠ some i) → t.clu.lines[i] =
          { s.clu.lines[i] with pulse := s.clu.lines[i].pulse.map fun x => x + BitVec.ofInt 32 change })
      ∧ t.clu = { s.clu with lines := t.clu.lines }
      ∧ (∀ i : Fin 4, t.mku.inputs[i] =
          { s.mku.inputs[i] with spacingEnd := s.mku.inputs[i].spacingEnd.map fun x => x + BitVec.ofInt 32 change })
      ∧ t.mku.reactions = s.mku.reactions
      ∧ t.stc = { s.stc with windowEnd := s.stc.windowEnd.map fun x => x + BitVec.ofInt 32 change }
      ∧ t.iku = s.iku ∧ t.agu = { s.agu with pendingBeat := t.agu.pendingBeat } ∧ t.pending = s.pending
      ∧ t.liu = { s.liu with attempt := t.liu.attempt, holdOff := t.liu.holdOff }
      ∧ ((¬∃ a, s.liu.attempt = some a ∧ s.liu.state = .sending ∧ Claims.payloadBegins a s.liu.timing) →
        t.liu.attempt = s.liu.attempt.map
          (Claims.stampedBy s.btu.capture fun a => decide (s.liu.state = .sending) && Claims.payloadBegun a s.liu.timing))
      ∧ ∀ a, s.liu.attempt = some a → Claims.payloadBegins a s.liu.timing →
        t.liu.attempt = some a ∨ s.liu.state = .sending
          ∧ t.liu.attempt = some (Claims.stampedBy s.btu.capture (fun _ => true) a)

/-- Whether a step makes a stale time out of date: its distance after the step is 0 or below, or above 2^30 µs (R39, R80, assumptions 14 and 21). -/
def Claims.staleAfterStep (amount : Int) (s : State) (stale : Micros) : Bool :=
  let after := Claims.distanceAfter stale s.micros (Claims.microsChange s.btu.time amount)
  decide (after ≤ 0 ∨ 2 ^ 30 < after)

/-- A WAITING record that a step makes leave (R80). -/
def Claims.leavesAtStep (amount : Int) (s : State) (r : Record) : Bool :=
  decide (r.state = .waiting) && r.stale.any (Claims.staleAfterStep amount s)

/-- What the SQ holds after a step: WAITING records and a WAITING BEAT that the step makes out of date have left (R80). -/
def Claims.sqAfterStep (amount : Int) (s : State) : SqState :=
  { (Claims.allLeft (Claims.leavesAtStep amount s) .stale s).sq with
    beat := s.sq.beat.filter fun b => b.inFlight || !Claims.staleAfterStep amount s b.beat.stale }

/-- What the SQ and the FCU make of a step: WAITING records and a WAITING BEAT whose stale time the step reached, or carried beyond 2^30 µs, leave, each record with its STALE notice, in slot order; and R27 is applied where the recovery time is reached, with FAULT_STATE (R22, R27, R39, R80, R84). -/
def Claims.SqAndFcuTakeStep : Prop :=
  ∀ (amount : Int) (s : State), amount ≠ 0 → s.QueueOk →
    let now := s.fcu.recovery.any fun r =>
      decide (Claims.distanceAfter r s.micros (Claims.microsChange s.btu.time amount) ≤ 0)
    let returns := decide (s.fcu.state = .silenced ∧ s.fcu.spans = 64) && (s.fcu.timeReached || now)
    let t := s.stepTime amount
    t.sq = Claims.sqAfterStep amount s
    ∧ Claims.posts Claims.isCompletion s t
      (Claims.noticesAt t.micros
        ((s.sq.records.filter (Claims.leavesAtStep amount s)).map fun r => .sendQueue .stale r.tag false false))
    ∧ t.agu.pendingBeat = s.agu.pendingBeat
    ∧ t.fcu =
      (if returns then Claims.fcuAtRest
      else { s.fcu with timeReached := s.fcu.timeReached || now })
    ∧ Claims.posts Claims.isFaultState s t
      (Claims.noticesAt t.micros (if returns then [.faultState .silenced .active] else []))

/-- The word of a step reaches the CSU with bus time and the pulse ends moved; the CSU makes its step handling within the step, with the notices of that handling, or leaves it for a later event of the same instant and posts nothing, which is a free value (R39, R114 to R117, assumption 5). The notices are those of the same handling before an empty queue. -/
def Claims.CsuTakesStep : Prop :=
  ∀ (amount : Int) (s : State), amount ≠ 0 →
    let t := s.stepTime amount
    ∃ m : State, m.btu = t.btu ∧ m.stc = t.stc ∧ m.spent = s.spent ∧ m.lpu.notices = []
      ∧ m.csu = { schedule := s.csu.schedule, word := some (if 0 < amount then .forward else .backward) }
      ∧ m.clu = { s.clu with lines := m.clu.lines }
      ∧ (∀ i : Fin 8, m.clu.lines[i] =
        { s.clu.lines[i] with
          pulse := s.clu.lines[i].pulse.map fun x => x + BitVec.ofInt 32 (Claims.microsChange s.btu.time amount) })
      ∧ (t.csu = m.csu ∧ t.clu = m.clu ∧ t.spent = m.spent ∧ Claims.posts Claims.isSchedule s t []
        ∨ t.csu = m.takeWord.csu ∧ t.clu = m.takeWord.clu ∧ t.spent = m.takeWord.spent
          ∧ Claims.posts Claims.isSchedule s t m.takeWord.lpu.notices)

/-- The CSU's step handling. Forward: every entry reached is taken in schedule order, fired late or not made, and re-enters at its place. Backward: every entry carried beyond the horizon is removed in schedule order with OUT_OF_RANGE (R114, R115). -/
def Claims.StepHandling : Prop :=
  (∀ s : State, s.csu.word = none → s.takeWord = s)
    ∧ (∀ s : State, s.csu.word = some .forward →
      let isReached := fun e : Entry => decide ((e.due - s.micros).toInt ≤ 0)
      s.takeWord = (s.csu.schedule.filter isReached).foldl
        (fun t e =>
          let done := Claims.lateHandled e (t.micros - e.due).toNat t
          match done.2 with
          | some again =>
            done.1.setCsu
              { done.1.csu with schedule := insertEntry done.1.aheadNow again done.1.csu.schedule }
          | none => done.1)
        (s.setCsu { schedule := s.csu.schedule.filter fun e => !isReached e, word := none }))
    ∧ ∀ s : State, s.csu.word = some .backward →
      let isBeyond := fun e : Entry => decide (2 ^ 30 < (e.due - s.micros).toNat)
      s.takeWord = (s.csu.schedule.filter isBeyond).foldl
        (fun t e => t.post (.schedule .outOfRange e.key e.target 0))
        (s.setCsu { schedule := s.csu.schedule.filter fun e => !isBeyond e, word := none })

/-- The distances the step handling reads are the distances after the step, exact across a step of any size: for a due time 0 to 2^30 µs ahead of the old bus time (R39, R99, R114, R115). -/
def Claims.DistanceAfterStepIsExact : Prop :=
  ∀ (old : BusTime) (due : Micros) (amount : Int), (due - microsOf old).toNat ≤ 2 ^ 30 →
    -2 ^ 35 ≤ amount → amount < 2 ^ 35 →
    let now := microsOf (old + BitVec.ofInt 36 amount)
    let after : Int := (due - microsOf old).toNat - Claims.microsChange old amount
    (0 < amount → (due - now).toInt = after ∧ (after ≤ 0 → ((now - due).toNat : Int) = -after))
    ∧ (amount < 0 → ((due - now).toNat : Int) = after)

/-- A step of bus time: the counter, in place of its cycle's advance (assumption 2), the capture and the local intervals move; the SQ and the FCU re-examine their times, with STALE for each record that leaves and FAULT_STATE for a return; and the CSU makes its step handling, forward or backward, by the distances after the step, with its notices (R22, R27, R37, R38, R39, R41, R80, R84, R99, R114, R115, R117). A recovery time once reached stays so (assumption 37). Free values: whether a stamp whose bit begins in the cycle of the step was copied before (assumption 6), and the order of the owners and of what meets the CSU's word (5, R116); a time behind the old bus time counts as negative (14), and a stale time beyond the horizon as out of date after any step (21). -/
def Obligations.StepMovesTimesAndOwnersAct : Prop :=
  Claims.StepMovesTimes ∧ Claims.SqAndFcuTakeStep ∧ Claims.CsuTakesStep ∧ Claims.StepHandling
    ∧ Claims.DistanceAfterStepIsExact

/-- The times a state holds for which an expiry can come next: not behind bus time, none of the armed times before it, and no word of a step waiting at the CSU, whose instant would come first. That a queued expiry command takes effect exactly then is the model's choice, assumptions 3 and 5. -/
def Claims.expiresNext (t : Micros) (s : State) : Prop :=
  s.csu.word = none ∧ (t - s.micros).toNat < 2 ^ 31 ∧ ∀ x ∈ s.timers, (t - s.micros).toNat ≤ (x.2 - s.micros).toNat

/-- PULSE_END and SPACING_END: the line is deasserted with no pulse, as its pin shows; the spacing end is absent; where no end is armed nothing happens; and an expiry whose reached end an action or an edge of the same cycle has already ended does nothing, whatever that started (R34, R124, R125, R134). Where the word of a step waits, its step handling comes first, and what acts then may be such an action. How the model holds such an expiry, and that the word comes first, are its choices: assumptions 36 and 5. -/
def Obligations.PulseAndSpacingEnd : Prop :=
  ∀ s : State,
    let w := s.takeWord
    (∀ (line : Fin 8) (t : Micros), w.clu.lines[line].pulse = some t → Claims.expiresNext t w →
      .pulseEnd line ∉ w.spent →
      let r := w.runTo t
      exec (.pulseEnd line) s = .next
          (r.setClu
            { r.clu with lines := r.clu.lines.set line { r.clu.lines[line] with level := false, pulse := none } })
        ∧ ∀ u, exec (.pulseEnd line) s = .next u → u.cuePin line = s.clu.lines[line].lowTrue)
    ∧ (∀ line : Fin 8, w.clu.lines[line].pulse = none → .pulseEnd line ∉ w.spent → exec (.pulseEnd line) s = .next s)
    ∧ (∀ line : Fin 8, .pulseEnd line ∈ w.spent →
      exec (.pulseEnd line) s = .next (w.setSpent (w.spent.erase (.pulseEnd line))))
    ∧ (∀ (input : Fin 4) (t : Micros), w.mku.inputs[input].spacingEnd = some t → Claims.expiresNext t w →
      .spacingEnd input ∉ w.spent →
      let r := w.runTo t
      exec (.spacingEnd input) s = .next
        (r.setMku { r.mku with inputs := r.mku.inputs.set input { r.mku.inputs[input] with spacingEnd := none } }))
    ∧ (∀ input : Fin 4, w.mku.inputs[input].spacingEnd = none → .spacingEnd input ∉ w.spent →
      exec (.spacingEnd input) s = .next s)
    ∧ (∀ input : Fin 4, .spacingEnd input ∈ w.spent →
      exec (.spacingEnd input) s = .next (w.setSpent (w.spent.erase (.spacingEnd input))))
    ∧ (s.csu.word = none → w = s)

/-- SCHEDULE_EXPIRY of a cue handed to no line: the first entry leaves, FIRED is posted where it notifies, and a repeat re-enters one period later with one firing fewer, or none where it was the last (R107 to R110). -/
def Claims.ScheduleExpiryFiresFirst : Prop :=
  ∀ (e : Entry) (rest : List Entry) (s : State), s.csu.schedule = e :: rest → (e.action = .note ∨ e.target = none) →
    Claims.expiresNext e.due s →
    let r := (s.runTo e.due).setCsu { s.csu with schedule := rest }
    let fired := if e.notify then r.post (.schedule .fired e.key e.target 0) else r
    let again := fun count => insertEntry r.aheadNow
      { e with
        late := false
        due := e.due + BitVec.ofNat 32 ((e.rpt.map Repeat.period).getD 0)
        rpt := e.rpt.map fun x => { x with count := count } } rest
    (e.rpt = none → exec .scheduleExpiry s = .next fired)
    ∧ (∀ x, e.rpt = some x → x.count = 0 →
      exec .scheduleExpiry s = .next (fired.setCsu { s.csu with schedule := again 0 }))
    ∧ (∀ x, e.rpt = some x → x.count = 1 → exec .scheduleExpiry s = .next fired)
    ∧ ∀ x, e.rpt = some x → 1 < x.count →
      exec .scheduleExpiry s = .next (fired.setCsu { s.csu with schedule := again (x.count - 1) })

/-- SCHEDULE_EXPIRY of any cue, for a line or for none: the action is handed to the line, and SUPPRESSED or OVERLAP is posted whatever the notify flag, FIRED only where it is set; and a repeat re-enters one period later with one firing fewer, or not where it was the last (R107 to R110). -/
def Claims.ScheduleExpiryActsOnLine : Prop :=
  ∀ (e : Entry) (rest : List Entry) (s : State), s.csu.schedule = e :: rest → Claims.expiresNext e.due s →
    let done := Claims.fired false e ((s.runTo e.due).setCsu { s.csu with schedule := rest })
    let again := fun x : Repeat => done.setCsu
      { s.csu with
        schedule := insertEntry done.aheadNow
          { e with due := e.due + BitVec.ofNat 32 x.period, rpt := some { x with count := x.count - 1 }, late := false }
          rest }
    (e.rpt = none → exec .scheduleExpiry s = .next done)
    ∧ (∀ x, e.rpt = some x → x.count = 1 → exec .scheduleExpiry s = .next done)
    ∧ ∀ x, e.rpt = some x → x.count ≠ 1 → exec .scheduleExpiry s = .next (again x)

/-- SCHEDULE_EXPIRY: the first entry leaves and fires, at its line or at none, with its notice and its repeat (R107 to R110). -/
def Obligations.ScheduleExpiryFiresFirstEntry : Prop :=
  Claims.ScheduleExpiryFiresFirst
    ∧ Claims.ScheduleExpiryActsOnLine

/-- STALE_TIME_EXPIRY of a WAITING general record: it leaves as STALE with its notice (R79, R84). -/
def Claims.StaleRecordLeaves : Prop :=
  ∀ (r : Record) (t : Micros) (s : State), (s.sq.records.map fun r => r.tag.slot).Nodup → r ∈ s.sq.records →
    r.state = .waiting → r.stale = some t → Claims.expiresNext t s →
    exec (.staleTimeExpiry (.slot r.tag.slot)) s = .next (Claims.recordLeft r .stale false false (s.runTo t))

/-- STALE_TIME_EXPIRY of a WAITING BEAT: it leaves without a notice, and the AGU, which holds none pending behind a WAITING one, places none (R62, R79). -/
def Claims.StaleBeatLeavesSlot : Prop :=
  ∀ (b : BeatRecord) (s : State), s.sq.beat = some b → b.inFlight = false → s.agu.pendingBeat = none →
    Claims.expiresNext b.beat.stale s →
    exec (.staleTimeExpiry .beat) s = .next
      ((s.runTo b.beat.stale).setSq { s.sq with beat := none })

/-- STALE_TIME_EXPIRY of a WAITING general record, with its notice, and of a WAITING BEAT, without one (R62, R79, R84). -/
def Obligations.StaleTimeExpiryRemovesWaiting : Prop := Claims.StaleRecordLeaves ∧ Claims.StaleBeatLeavesSlot

/-- RECOVERY_TIME_EXPIRY: bus time runs on to the recovery time, and with 64 idle spans counted by then the station returns to ACTIVE with score 0 and FAULT_STATE is posted; with fewer that it was reached is noted, and the station then returns at the 64th span; a time reached once expires no more, and outside SILENCED none does (R22, R24, R27, assumption 37). -/
def Claims.RecoveryTimeReturnsStation : Prop :=
  (∀ s : State, s.fcu.timeReached = true ∨ s.fcu.state ≠ .silenced → exec .recoveryTimeExpiry s = .next s)
    ∧ ∀ (t : Micros) (s : State), s.fcu.state = .silenced → s.fcu.recovery = some t → s.fcu.timeReached = false →
      Claims.expiresNext t s →
      let r := s.runTo t
      exec .recoveryTimeExpiry s = .next
        (if r.fcu.spans = 64 then
          ((r.setFcu Claims.fcuAtRest).setLiu { r.liu with holdOff := false }).post (.faultState .silenced .active)
        else r.setFcu { r.fcu with timeReached := true })

/-- STUCK_LINE_ERROR, IDLE_SPAN and RECOVERY_TIME_EXPIRY: errors counted while delimiting, idle spans counted while SILENCED, and the return to ACTIVE when both conditions hold, and not before (R13, R19, R20, R22, R24 to R27). The bits of an idle line, and the spans they complete, are counted as time passes. A recovery time whose expiry has come stays reached, whatever a step or 2^31 µs gone by make of its distance: the model's choice, assumption 37; in which row a bit and a span come is assumption 38. -/
def Obligations.RecoveryFromSilenced : Prop :=
  Claims.StuckLineReported
    ∧ Claims.IdleSpanCounted
    ∧ Claims.IdleSpansFromBits
    ∧ Claims.IdleLineCounted
    ∧ Claims.RecoveryTimeReturnsStation

/-! ## Agreement -/

/-- The trimmed midpoint of any values: with the values in rising order, the k largest and k smallest set aside, the mean of the least and the greatest left, rounded toward zero; and how many are set aside (R57). -/
def Claims.TrimmedMidpoint : Prop :=
  ∀ (values rising : List Int) (least greatest : Int), values.Perm rising → rising.Pairwise (· ≤ ·) →
    let n := values.length
    let k := if n ≤ 3 then 0 else if n ≤ 9 then 1 else 2
    rising[k]? = some least → rising[n - 1 - k]? = some greatest →
    midpoint values = (least + greatest).tdiv 2

/-- The PEER_STATE notices of a round, entry by entry in index order: SILENT for a PRESENT entry that reaches 3 rounds since heard, FREED for one that reaches 16 (R47, R56). -/
def Claims.agingNotices (s : State) : List NoticeBody :=
  (List.finRange 32).flatMap fun i =>
    match s.agu.peers[i] with
    | none => []
    | some p =>
      let rounds := min 255 (p.rounds + 1)
      (if p.presence = .present ∧ 3 ≤ rounds then [.peerState p.station .silent] else [])
        ++ if 16 ≤ rounds then [.peerState p.station .freed] else []

/-- Step 1 of a round: every entry's rounds since heard go up by one, to at most 255; a PRESENT entry that reaches 3 is SILENT, and one that reaches 16 is freed, each with its PEER_STATE notice, entry by entry in index order; and nothing else changes (R56). -/
def Claims.TableAged : Prop :=
  ∀ s : State,
    let aged := fun p : Peer =>
      let rounds := min 255 (p.rounds + 1)
      if 16 ≤ rounds then none
      else
        some
          { p with
            rounds := rounds
            presence := if p.presence = .present ∧ 3 ≤ rounds then .silent else p.presence }
    s.agePeers =
      ((Claims.agingNotices s).foldl (fun t b => t.post b) s).setAgu
        { s.agu with peers := Vector.ofFn fun i : Fin 32 => s.agu.peers[i].bind aged }

/-- The offsets that enter a round are the last offsets of the entries that are PRESENT, fresh and without the mismatch flag; those that enter acquisition, of the entries that are fresh and without it (R57, R64). -/
def Claims.OffsetsCollected : Prop :=
  ∀ s : State,
    (s.offsets Peer.roundOffset =
      (List.finRange 32).filterMap fun i => s.agu.peers[i].bind fun p =>
        if p.presence = .present ∧ p.fresh = true ∧ p.mismatch = false then p.offset else none)
    ∧ s.offsets Peer.acquisitionOffset =
      (List.finRange 32).filterMap fun i => s.agu.peers[i].bind fun p =>
        if p.fresh = true ∧ p.mismatch = false then p.offset else none

/-- The sync state and good-round count after a round: the first row of the table that holds (R52, R53). -/
def Claims.SyncStateTable : Prop :=
  ∀ (c : StationConfig) (good fresh : Nat) (correction : Int),
    let isGood := correction.natAbs ≤ c.lockBound ∧ c.quorum ≤ fresh
    (∀ before, syncAfterRound c before good 0 correction = (.alone, 0))
    ∧ (1 ≤ fresh →
      syncAfterRound c .alone good fresh correction = (.seeking, 0)
      ∧ (isGood → 3 ≤ good + 1 → syncAfterRound c .seeking good fresh correction = (.locked, 0))
      ∧ (isGood → good + 1 < 3 → syncAfterRound c .seeking good fresh correction = (.seeking, good + 1))
      ∧ (¬isGood → syncAfterRound c .seeking good fresh correction = (.seeking, 0))
      ∧ (isGood → syncAfterRound c .locked good fresh correction = (.locked, 0))
      ∧ (¬isGood → syncAfterRound c .locked good fresh correction = (.adrift, 0))
      ∧ (16 * c.threshold < correction.natAbs → syncAfterRound c .adrift good fresh correction = (.seeking, 0))
      ∧ (correction.natAbs ≤ 16 * c.threshold →
        (isGood → 3 ≤ good + 1 → syncAfterRound c .adrift good fresh correction = (.locked, 0))
        ∧ (isGood → good + 1 < 3 → syncAfterRound c .adrift good fresh correction = (.adrift, good + 1))
        ∧ (¬isGood → syncAfterRound c .adrift good fresh correction = (.adrift, 0))))

/-- The slew is the correction over one beat interval, rounded toward zero and clamped. The slew joins the residue, and the trim moves by one ppm for every 128 sixteenths of it, toward the residue's sign, until less than 128 are left; a trim that would pass 200 ppm stays there with residue 0, and only such a one (R58). -/
def Claims.SlewAndTrimArithmetic : Prop :=
  (∀ (interval : Nat) (correction : Int), 0 < interval →
      slewFor interval correction = max (-8000) (min 8000 ((correction * 1000000).tdiv interval)))
    ∧ ∀ trim residue slew : Int, -200 ≤ trim → trim ≤ 200 → -127 ≤ residue → residue ≤ 127 →
      ∃ n left : Int, residue + slew = n * 128 + left ∧ -128 < left ∧ left < 128
        ∧ (0 ≤ residue + slew → 0 ≤ left) ∧ (residue + slew ≤ 0 → left ≤ 0)
        ∧ trimAfter trim residue slew =
          if 200 < trim + n then (200, 0) else if trim + n < -200 then (-200, 0) else (trim + n, left)

/-- The next round boundary is the first multiple of the beat interval after the reference point below the wrap, and 0 at the wrap (R60). -/
def Claims.NextBoundaryIsNextMultiple : Prop :=
  ∀ (interval : Nat) (reference : Micros), 0 < interval → interval < 2 ^ 32 →
    let next := nextMultiple interval reference
    (next.toNat = 0 ∧ 2 ^ 32 ≤ (reference.toNat / interval + 1) * interval)
    ∨ (reference.toNat < next.toNat ∧ interval ∣ next.toNat
      ∧ ∀ m : Nat, interval ∣ m → reference.toNat < m → next.toNat ≤ m)

/-- The arithmetic of a round: the table aged, the offsets collected, the trimmed midpoint, the sync state table, slew and trim, next boundary (R52, R53, R56, R57, R58, R60, R64). -/
def Obligations.RoundArithmetic : Prop :=
  Claims.TableAged
    ∧ Claims.OffsetsCollected
    ∧ Claims.TrimmedMidpoint
    ∧ Claims.SyncStateTable
    ∧ Claims.SlewAndTrimArithmetic
    ∧ Claims.NextBoundaryIsNextMultiple

/-- SYNC_ROUND at the boundary: fresh count, sync state with SYNC_STATE on a change, slew or step, next boundary and malformed-notice flag as the steps of a round give them; the peer table is the aged one with every fresh flag cleared, and the AGU's notices are the PEER_STATE notices of the aging and then SYNC_STATE, the others those of the step; the schedule, the mark inputs, the FCU, the LIU and STC are those that the step leaves, and as they were where the round does not step, and so are the lines, but for what the CLU makes of a new sync state (R38, R39, R53 to R60, R91, R126). -/
def Claims.SyncRoundAppliesCorrection : Prop :=
  ∀ (b : Micros) (s : State), s.stc.station = .joined → s.agu.boundary = some b → Claims.expiresNext b s →
    s.RatesOk →
    let r := (s.runTo b).agePeers
    let offsets := r.offsets Peer.roundOffset
    let c := midpoint (0 :: offsets)
    let steps := s.agu.sync = .seeking ∧ 16 * s.stc.config.threshold < c.natAbs
    let v := if steps then r.stepTime c else r
    let after := syncAfterRound s.stc.config s.agu.sync s.agu.good offsets.length c
    ∃ t : State, exec .syncRound s = .next t
      ∧ t.agu.fresh = offsets.length ∧ t.agu.sync = after.1 ∧ t.agu.good = after.2
      ∧ (∀ i : Fin 32, t.agu.peers[i] = r.agu.peers[i].map fun p => { p with fresh := false })
      ∧ Claims.posts Claims.isAgreement s t
        (Claims.noticesAt b (Claims.agingNotices s)
          ++ Claims.noticesAt t.micros (if after.1 = s.agu.sync then [] else [.syncState s.agu.sync after.1]))
      ∧ Claims.posts (fun body => !Claims.isAgreement body) v t []
      ∧ t.lpu = { s.lpu with notices := t.lpu.notices, lost := t.lpu.lost }
      ∧ t.clu = (if after.1 = s.agu.sync then v else v.tellClu after.1).clu
      ∧ t.csu = v.csu ∧ t.mku = v.mku ∧ t.fcu = v.fcu ∧ t.liu = v.liu ∧ t.stc = v.stc ∧ t.spent = v.spent
      ∧ t.draws = v.draws
      ∧ (steps → t.btu.time = (s.runTo b).btu.time + BitVec.ofInt 36 c ∧ t.btu.slew = 0 ∧ t.btu.trim = s.btu.trim
        ∧ t.agu.residue = s.agu.residue
        ∧ t.agu.boundary = some (nextMultiple (s.stc.config.beatMs * 1000)
            (b + BitVec.ofInt 32 (max 0 (Claims.microsChange (s.runTo b).btu.time c)))))
      ∧ (¬steps → t.btu.time = (s.runTo b).btu.time ∧ t.btu.slew = slewFor (s.stc.config.beatMs * 1000) c
        ∧ (t.btu.trim, t.agu.residue) = trimAfter s.btu.trim s.agu.residue t.btu.slew
        ∧ t.agu.boundary = some (nextMultiple (s.stc.config.beatMs * 1000) b))
      ∧ t.agu.fullNotice = false ∧ t.iku = { s.iku with noticed := false } ∧ t.stc.station = .joined
      ∧ s.SameSettings t

/-- The BEAT of a round: none after a forward step of half a beat interval or more; else one of this round's sync state and fresh count, one sequence on, stale half an interval after the boundary. It enters the beat slot where that is empty or holds one WAITING, which it replaces, and is pending where one is IN_FLIGHT, which it supersedes. What a step has removed from the send queue before is gone (R59, R62, R72, R80). -/
def Claims.SyncRoundPlacesBeat : Prop :=
  ∀ (b : Micros) (s : State), s.stc.station = .joined → s.agu.boundary = some b → Claims.expiresNext b s →
    s.QueueOk →
    let r := s.runTo b
    let c := midpoint (0 :: r.agePeers.offsets Peer.roundOffset)
    let steps := s.agu.sync = .seeking ∧ 16 * s.stc.config.threshold < c.natAbs
    let change := if steps then Claims.microsChange r.btu.time c else 0
    let q := if steps then Claims.sqAfterStep c r else s.sq
    let half := s.stc.config.beatMs * 500
    ∃ t : State, exec .syncRound s = .next t
      ∧ ((half : Int) ≤ change →
        t.agu.sequence = s.agu.sequence ∧ t.sq = q ∧ t.agu.pendingBeat = s.agu.pendingBeat)
      ∧ (change < half →
        let beat : Beat :=
          { interval := s.stc.config.beatMs, sync := t.agu.sync, fresh := t.agu.fresh, sequence := s.agu.sequence + 1
            stale := b + BitVec.ofNat 32 half }
        t.agu.sequence = s.agu.sequence + 1
        ∧ ((∀ x, q.beat = some x → x.inFlight = false) →
          t.sq =
              { q with
                beat := some { beat := beat, inFlight := false, superseded := false, errors := 0, order := q.nextOrder }
                nextOrder := q.nextOrder + 1 }
            ∧ t.agu.pendingBeat = none)
        ∧ ∀ x, q.beat = some x → x.inFlight = true →
          t.sq = { q with beat := some { x with superseded := true } } ∧ t.agu.pendingBeat = some beat)

/-- SYNC_ROUND: the table aged and its fresh flags cleared, with the AGU's notices, the correction applied, the sync state and the next boundary, in a round that steps and in one that does not; the schedule, lines, mark inputs, FCU and LIU as the step leaves them, or as they were; and the BEAT placed, superseding or not built (R53 to R60, R62, R72, R91). What a step leaves of each block is in StepMovesTimesAndOwnersAct. -/
def Obligations.SyncRoundCorrectsAndPlacesBeat : Prop :=
  Claims.SyncRoundAppliesCorrection
    ∧ Claims.SyncRoundPlacesBeat

/-- LISTEN_WINDOW_END: bus time steps by the trimmed midpoint of the fresh offsets, the station is JOINED, ALONE or SEEKING, with its first boundary, the CLU is told, and JOINED is posted with that sync state and bus time as it stands after the step, beside the notices of the step; the peer table is kept with every fresh flag cleared, and the LIU, the FCU, the CSU, the MKU, the SQ and the lines are those that the step leaves (R38, R39, R64, R91, R126, R146). -/
def Obligations.ListenWindowEndJoins : Prop :=
  ∀ (w : Micros) (s : State), s.stc.station = .listening → s.stc.windowEnd = some w → Claims.expiresNext w s →
    let offsets := s.offsets Peer.acquisitionOffset
    let sync := if offsets.length = 0 then SyncState.alone else .seeking
    let v := (s.runTo w).stepTime (midpoint offsets)
    ∃ t : State, exec .listenWindowEnd s = .next t
      ∧ t.stc.station = .joined ∧ t.stc.windowEnd = none ∧ t.stc.draining = s.stc.draining
      ∧ t.btu.time = (s.runTo w).btu.time + BitVec.ofInt 36 (midpoint offsets)
      ∧ t.btu.trim = s.btu.trim ∧ t.btu.slew = s.btu.slew
      ∧ t.agu.sync = sync ∧ t.agu.good = 0 ∧ t.agu.fresh = offsets.length
      ∧ t.agu.boundary = some (nextMultiple (s.stc.config.beatMs * 1000) t.micros)
      ∧ (∀ i : Fin 32, t.agu.peers[i] = s.agu.peers[i].map fun p => { p with fresh := false })
      ∧ t.agu = { s.agu with
          peers := t.agu.peers, sync := sync, good := 0, boundary := t.agu.boundary, fresh := offsets.length
          pendingBeat := v.agu.pendingBeat, fullNotice := false }
      ∧ t.clu = (v.tellClu sync).clu ∧ t.clu.told = sync
      ∧ t.liu = v.liu ∧ t.fcu = v.fcu ∧ t.csu = v.csu ∧ t.mku = v.mku ∧ t.sq = v.sq ∧ t.spent = v.spent
      ∧ t.draws = v.draws ∧ t.iku = { s.iku with noticed := false } ∧ s.SameSettings t
      ∧ Claims.posts Claims.isStation s t (Claims.noticesAt t.micros [.joined sync])
      ∧ Claims.posts (fun body => !Claims.isStation body) v t []
      ∧ t.lpu = { s.lpu with notices := t.lpu.notices, lost := t.lpu.lost }

/-! ## Bytes and bits -/

/-- The bytes of a command, with whatever bytes follow them in the transaction, spell that command and no other (R149, R159). -/
def Obligations.TransactionBytesDecode : Prop :=
  ∀ (c : Instr) (bytes extra : List Byte), c.wellFormed = true → commandBytes c = some bytes →
    decodeTransaction (bytes ++ extra) = some c

/-- The ranges of a frame's content (R17, R18, R90). -/
def Claims.contentFits : Content → Prop
  | .beatContent _ interval sync fresh _ => 10 ≤ interval ∧ interval ≤ 1000 ∧ sync ≠ .nosync ∧ fresh ≤ 32
  | .recallContent (.byKey key) => 1 ≤ key.origin.toNat ∧ key.origin.toNat ≤ 126
  | .recallContent (.byTopic _ _) => True
  | .markContent _ => True
  | .cueContent c =>
    c.number.toNat ≤ 3967
      ∧ (match c.width with
        | some w => c.action = .pulse ∧ 1 ≤ w.toNat
        | none => c.action ≠ .pulse)
      ∧ match c.rpt with
        | some r => 1 ≤ r.period ∧ r.period < 2 ^ 24 ∧ r.count < 256
        | none => True

/-- Every content in its ranges is read back from its payload, whatever its unused bits carry, under every urgency and from every valid station; and a frame that is read is from a valid station, of the content's class, with a payload that is the content's and a content in its ranges, so every other frame is MALFORMED (R17, R18, R89, R90, R159). -/
def Obligations.PayloadReadBack : Prop :=
  (∀ (c : Content) (unused : Nat) (urgency : BitVec 4) (station : StationId), Claims.contentFits c →
      1 ≤ station.toNat → station.toNat ≤ 126 →
      parseFrame { cls := c.cls, urgency := urgency, station := station, payload := payloadBytes unused c } = some c)
    ∧ ∀ (f : Frame) (c : Content), parseFrame f = some c →
      1 ≤ f.station.toNat ∧ f.station.toNat ≤ 126 ∧ f.cls = c.cls ∧ Claims.contentFits c
        ∧ ∃ unused : Nat, f.payload = payloadBytes unused c

/-- The bits of a frame on the line: the stuffed region, the CRC delimiter, the ack slot, the ack delimiter and the end field. -/
def Claims.lineBits (f : Frame) (ackDominant : Bool) : List Bool :=
  stuff (regionBits f) ++ true :: (!ackDominant) :: List.replicate 8 true

/-- A frame on the wire is received as the frame that was sent: fields, stuffing and check value agree at both ends. With its fixed fields undisturbed it is accepted at both ends, and a recessive ack slot is an ACK error at the sender while a peer is PRESENT (R5, R6, R7, R9, R10, R14). -/
def Claims.SentFrameReceived : Prop :=
  ∀ (f : Frame) (ackDominant : Bool) (present : Nat), f.payload.length ≤ 15 →
    receive (stuff (regionBits f)) = .sound f []
    ∧ receiverEnd (Claims.lineBits f ackDominant) = .accepted f ackDominant
    ∧ senderEnd present f (Claims.lineBits f ackDominant) =
      if ackDominant = false ∧ 0 < present then .error .ack else .accepted f ackDominant

/-- Behind a sound region a receiver finds FORM at the first dominant bit of the CRC delimiter, the ack delimiter and the end field, checks nothing in the ack slot, and accepts the frame at the seventh end bit; it has neither before (R9, R10, R14). -/
def Claims.ReceiverChecksFixedFields : Prop :=
  ∀ (f : Frame) (tail : List Bool), f.payload.length ≤ 15 →
    let isForm := fun i : Nat => i < 10 ∧ i ≠ 1 ∧ tail[i]? = some false
    ((∃ i, isForm i) → receiverEnd (stuff (regionBits f) ++ tail) = .error .form)
    ∧ ((∀ i, ¬isForm i) → 10 ≤ tail.length →
      receiverEnd (stuff (regionBits f) ++ tail) = .accepted f (tail[1]? == some false))
    ∧ ((∀ i, ¬isForm i) → tail.length < 10 →
      receiverEnd (stuff (regionBits f) ++ tail) = .incomplete)

/-- SOF through the last CRC bit of a frame that carries any check value, before stuffing (R5). -/
def Claims.regionWith (f : Frame) (check : Nat) : List Bool := false :: coveredBits f ++ bitsOf 16 check

/-- A receiver finds STUFF at the seventh identical bit of the stuffed region, whatever came before it and comes behind it, and at none of fewer; and where the check value it has received is another than the one it computes, CRC, at the last bit of the region and not before (R6, R7, R10). Where the stuff bit behind the last CRC bit is the seventh identical bit and the check value differs too, R10 detects both errors in that bit; that STUFF is the one reported there is the model's choice: assumption 31. -/
def Claims.ReceiverFindsStuffAndCrc : Prop :=
  ∀ (f : Frame) (check : Nat), f.payload.length ≤ 15 → check < 2 ^ 16 →
    let line := stuff (Claims.regionWith f check)
    (∀ (b : Bool) (before behind : List Bool), before ++ List.replicate 6 b <+: line →
      receiverEnd (before ++ List.replicate 7 b ++ behind) = .error .stuff)
    ∧ (check ≠ (crcOf (coveredBits f)).toNat → ∀ behind : List Bool,
      receiverEnd (line ++ behind) = .error .crc)
    ∧ ∀ seen : List Bool, seen <+: line → seen ≠ line → receiverEnd seen = .incomplete

/-- A frame on the wire is received as the frame that was sent: fields, stuffing and check value agree at both ends, for every frame of up to 15 payload bytes; it is accepted at both ends where nothing disturbs it; and a receiver finds STUFF and CRC in the stuffed region, and a dominant bit in the fixed fields behind it (R5, R6, R7, R9, R10, R14). That STUFF is the error reported where a wrong check value and a seventh identical bit fall in the stuff bit behind the last CRC bit is the model's choice: assumption 31. -/
def Obligations.WireReceivesSentFrame : Prop :=
  Claims.SentFrameReceived
    ∧ Claims.ReceiverFindsStuffAndCrc
    ∧ Claims.ReceiverChecksFixedFields

/-- Of two contenders the lower arbitration field wins: it meets its own bits on the line to the last, and the other, which has sent the same bits up to a recessive one sampled dominant, loses; so does the whole frame, stuff bits among its bits, under the bits of the other's (R8). -/
def Claims.LowerFieldWins : Prop :=
  (∀ a b : Nat, a < b → b < 2 ^ 13 →
    let line := contend (bitsOf 13 a) (bitsOf 13 b)
    line = bitsOf 13 a ∧ arbitrate (bitsOf 13 a) line = .continues ∧ arbitrate (bitsOf 13 b) line = .lost)
    ∧ ∀ (f g : Frame) (present : Nat), valueOf (arbitrationField f) < valueOf (arbitrationField g) →
      senderEnd present g (wireBits f) = .lost

/-- What the next bit tells the sender of a frame, or a contender, that has found nothing in the bits before: a bit of SOF, of the fields from length through the CRC, or a stuff bit, also one inside the arbitration field, is a BIT error where it is sampled otherwise than it was sent; an arbitration bit is a loss where recessive was sent and dominant sampled, and a BIT error the other way round; a delimiter or end bit is FORM where it is sampled dominant; and the ack slot is an ACK error where it is sampled recessive while a peer is PRESENT. Nothing else ends the frame before its last bit, which is its acceptance (R8, R9, R10, R14). -/
def Claims.SentBitsChecked : Prop :=
  ∀ (f : Frame) (present : Nat) (before : List Bool) (field : BitField) (sent sampled : Bool),
    senderEnd present f before = .incomplete → (wireFields f)[before.length]? = some (field, sent) →
    let now := senderEnd present f (before ++ [sampled])
    (field = .sof ∨ field = .covered ∨ field = .stuffBit → sent ≠ sampled → now = .error .bit)
    ∧ (field = .arbitration → sent = true → sampled = false → now = .lost)
    ∧ (field = .arbitration → sent = false → sampled = true → now = .error .bit)
    ∧ (field = .fixed → sampled = false → now = .error .form)
    ∧ (field = .ackSlot → sampled = true → 0 < present → now = .error .ack)
    ∧ ((field ≠ .ackSlot ∧ sent = sampled ∨ field = .ackSlot ∧ (sampled = false ∨ present = 0)) →
      now =
        if before.length + 1 < (wireFields f).length then .incomplete
        else .accepted f (before[(wireFields f).length - 9]? == some false))

/-- What each bit of a frame on the wire is: its bits in order are those its sender drives; SOF is the first, the 13 bits that follow it, stuff bits apart, are the arbitration field, those up to the CRC's last are checked as sent, and the ten behind the region are the CRC delimiter, the ack slot, the ack delimiter and the end field; a stuff bit is the opposite of the bit before it (R5, R6, R8, R9). -/
def Claims.FieldsOfWire : Prop :=
  ∀ f : Frame,
    (wireFields f).map Prod.snd = wireBits f
    ∧ ((wireFields f).filter fun x => decide (x.1 ≠ .stuffBit)) =
      (.sof, false) :: (arbitrationField f).map (fun b => (.arbitration, b))
        ++ ((bitsOf 4 f.payload.length ++ payloadBits f.payload ++ bitsOf 16 (crcOf (coveredBits f)).toNat).map
          fun b => (.covered, b))
        ++ (.fixed, true) :: (.ackSlot, true) :: List.replicate 8 (.fixed, true)
    ∧ ∀ (i : Nat) (b : Bool), (wireFields f)[i]? = some (.stuffBit, b) →
      ∃ k, i = k + 1 ∧ ((wireFields f)[k]?).map Prod.snd = some (!b)

/-- The row in which the LIU reports the bits it has sampled is one that its present state takes: the kind of an error is one that its state and role can have; an interframe space of 3 bits, a flag of 8, a delimiter of 8 recessive bits in succession, with a further error at 16 dominant ones, integration of 11 and a hold-off of 8 (R2, R8, R9, R10, R12, R13, R14, R15, R24). -/
def Claims.RowForBitsIsTaken : Prop :=
  ∀ (sampled : List Bool) (s : State),
    (∀ kind bits, s.rowFor sampled = some (.errorDetected kind bits) →
      s.liu.state = .sending ∧ (kind = .bit ∨ kind = .form ∨ kind = .ack ∧ 0 < s.presentPeers)
        ∨ s.liu.state = .receiving ∧ (kind = .stuff ∨ kind = .form ∨ kind = .crc)
        ∨ s.liu.state = .spacing ∧ kind = .form)
    ∧ (s.rowFor sampled = some .lostArbitration → s.liu.state = .sending)
    ∧ (∀ f ack, s.rowFor sampled = some (.acceptance f ack) →
      s.liu.state = .receiving ∨ s.liu.state = .sending ∧ (ack = true ∨ s.presentPeers = 0))
    ∧ (s.liu.state = .spacing → s.rowFor sampled =
      if false ∈ sampled.take 3 then some (.errorDetected .form (sampled.takeWhile id ++ [false]))
      else if 3 ≤ sampled.length then some .interframeSpaceEnd else none)
    ∧ (∀ dominant role, s.liu.state = .flagging dominant role →
      s.rowFor sampled = if 8 ≤ sampled.length then some .errorFlagEnd else none)
    ∧ ∀ before behind : List Bool, (∀ k ≤ before.length, s.rowFor (before.take k) = none) →
      let after := fun (n : Nat) (level : Bool) => s.rowFor (before ++ List.replicate n level ++ behind)
      (before.getLast? ≠ some true →
        (∀ role, s.liu.state = .delimiting role → after 8 true = some (.errorDelimiterEnd (before ++ List.replicate 8 true)))
        ∧ (s.liu.state = .integrating → after 11 true = some .integrationComplete)
        ∧ (s.liu.state = .idle → s.liu.holdOff = true → after 8 true = some .holdOffEnd))
      ∧ (before.getLast? ≠ some false →
        ∀ role, s.liu.state = .delimiting role → after 16 false = some (.stuckLineError (before ++ List.replicate 16 false)))

/-- Arbitration and the errors found from bits: of two contenders the lower arbitration field wins; each bit of a frame is checked by the field it is of, a stuff bit inside the arbitration field as a sent bit; and the row that reports what was found, or a completed count of bits, is one its state takes (R2, R5, R6, R8, R9, R10, R12 to R15, R24). -/
def Obligations.ArbitrationAndErrorsFromBits : Prop :=
  Claims.LowerFieldWins
    ∧ Claims.SentBitsChecked
    ∧ Claims.FieldsOfWire
    ∧ Claims.RowForBitsIsTaken

/-! ## What every step keeps -/

/-- The invariants hold after pin reset. -/
def Obligations.ResetMeetsInvariants : Prop :=
  State.reset.FaultOk ∧ State.reset.NoticesOk ∧ State.reset.LinesOk ∧ State.reset.ScheduleOk ∧ State.reset.RatesOk
    ∧ State.reset.StationOk ∧ State.reset.QueueOk ∧ State.reset.ScheduleOrdered ∧ State.reset.PeersOk

/-- Every step keeps the score within its fault state, spans, run and recovery time to SILENCED, and 64 spans only where nothing has reached the recovery time (R20 to R28). -/
def Obligations.StepKeepsFaultConfinement : Prop :=
  ∀ s t : State, s.FaultOk → step s = .next t → t.FaultOk

/-- Every step keeps at most 32 notices waiting, the lost count at most 255, and the lost count above 0 only while 32 wait (R155, R156). -/
def Obligations.StepKeepsNoticeQueue : Prop :=
  ∀ s t : State, s.NoticesOk → step s = .next t → t.NoticesOk

/-- Every step keeps every guarded line at its safe level with no pulse outside LOCKED (R121, R126). -/
def Obligations.StepKeepsGuardedLinesSafe : Prop :=
  ∀ s t : State, s.LinesOk → step s = .next t → t.LinesOk

/-- Every step keeps the schedule at 32 entries or fewer, no two of one key (R98). -/
def Obligations.StepKeepsScheduleKeys : Prop :=
  ∀ s t : State, s.ScheduleOk → step s = .next t → t.ScheduleOk

/-- Every step keeps the schedule in schedule order, by due time, origin id and cue number, each entry 0 to 2^30 µs ahead, 0 where it has just been reached, and behind or beyond only between a step and its handling; and every step keeps the peer table: no entry while OFFLINE, no two of one station, none of this station's own id, and offsets of 36 bits, which bound a step (R33, R47, R48, R50, R66, R98, R99, R114, R115). -/
def Obligations.StepKeepsScheduleOrder : Prop :=
  ∀ s t : State, s.RatesOk → s.ScheduleOk → s.PeersOk → s.ScheduleOrdered → step s = .next t →
    t.ScheduleOrdered ∧ t.PeersOk

/-- Every step keeps the rate correction in its ranges (R35, R36, R58). -/
def Obligations.StepKeepsRateRanges : Prop :=
  ∀ s t : State, s.RatesOk → step s = .next t → t.RatesOk

/-- Every step keeps station state, LIU and drain together, and an empty station outside JOINED (R2, R19, R142). -/
def Obligations.StepKeepsStationState : Prop :=
  ∀ s t : State, s.StationOk → step s = .next t → t.StationOk

/-- Every step keeps the records in slot order, no two CUE records of one cue number, only RECALLs held, at most one record in flight, the one whose attempt the LIU holds, and a BEAT pending only behind one in flight (R4, R62, R67, R72, R73). -/
def Obligations.StepKeepsOneInFlight : Prop :=
  ∀ s t : State, s.StationOk → s.QueueOk → step s = .next t → t.QueueOk
end

