-- ==== Sys2Proof/Laws/BitTiming.lean ====
section
/-! SUPPORT. The LIU's bit timing: a recessive line brings one bit in each bit time, sampled where the sample point says; and what the copy of a stamp leaves. -/

namespace Sys2Proof.Machine

/-- A sample point inside its bit: the point lies in 1 … 16, and an edge has not moved the bit's end before it (R1). -/
def BitTiming.Inside (c : LiuSettings) (t : BitTiming) : Prop :=
  1 ≤ c.samplePoint ∧ c.samplePoint ≤ 16 ∧ t.cycle < t.bitCycles c.bitRate ∧ t.sampleCycle c < t.bitCycles c.bitRate

/-- A quantum has a reference cycle at least (R1). -/
theorem quantum_pos (r : BitRate) : 1 ≤ r.cyclesPerQuantum := by cases r <;> decide

/-- Inside a bit a reference cycle goes on with it. -/
theorem pass_goesOn {r : BitRate} {t : BitTiming} (on : t.cycle + 1 < t.bitCycles r) :
    t.pass r 1 = { t with cycle := t.cycle + 1 } := if_pos on

/-- The last reference cycle of a bit begins the next. -/
theorem pass_ends {r : BitRate} {t : BitTiming} (last : t.cycle + 1 = t.bitCycles r) :
    t.pass r 1 = { BitTiming.start with bit := t.bit + 1 } := by
  simp [BitTiming.pass, BitTiming.start, last]

/-- The timing stays inside. -/
theorem pass_inside {c : LiuSettings} {t : BitTiming} (h : t.Inside c) : (t.pass c.bitRate 1).Inside c := by
  obtain ⟨low, high, inBit, inside⟩ := h
  refine ⟨low, high, ?_⟩
  by_cases on : t.cycle + 1 < t.bitCycles c.bitRate
  · rw [pass_goesOn on]
    exact ⟨on, inside⟩
  · rw [pass_ends (by omega)]
    have q := quantum_pos c.bitRate
    have point : c.samplePoint * c.bitRate.cyclesPerQuantum ≤ 16 * c.bitRate.cyclesPerQuantum := Nat.mul_le_mul_right _ high
    have : 1 * 1 ≤ c.samplePoint * c.bitRate.cyclesPerQuantum := Nat.mul_le_mul low q
    simp only [BitTiming.start, BitTiming.bitCycles, BitTiming.sampleCycle]
    constructor <;> simp <;> omega

/-- How many sample points n cycles pass, for a bit of b cycles of which so many are gone, sampled at the end of one of them, and whole bits of w cycles, sampled after p. -/
def pointsPassed (cycle point b p w n : Nat) : Nat :=
  (if cycle ≤ point ∧ point < cycle + n then 1 else 0) + (cycle + n + w - (b + p)) / w

theorem samples_eq (c : LiuSettings) (n : Nat) (t : BitTiming) :
    t.samples c n = pointsPassed t.cycle (t.sampleCycle c) (t.bitCycles c.bitRate)
      (c.samplePoint * c.bitRate.cyclesPerQuantum) (16 * c.bitRate.cyclesPerQuantum) n := rfl

theorem pointsPassed_none {cycle point b p w : Nat} (inBit : cycle < b) (low : 1 ≤ p) :
    pointsPassed cycle point b p w 0 = 0 := by
  unfold pointsPassed
  rw [if_neg (by omega)]
  by_cases w = 0
  · simp_all
  · rw [Nat.div_eq_of_lt (by omega)]

/-- A cycle that does not end its bit. -/
theorem pointsPassed_on (cycle point b p w n : Nat) :
    pointsPassed cycle point b p w (n + 1)
      = (if cycle = point then 1 else 0) + pointsPassed (cycle + 1) point b p w n := by
  unfold pointsPassed
  rw [show cycle + 1 + n = cycle + (n + 1) by omega]
  split_ifs <;> omega

/-- A cycle that ends its bit. -/
theorem pointsPassed_end {cycle point b p w : Nat} (last : cycle + 1 = b) (inside : point < b) (low : 1 ≤ p)
    (high : p ≤ w) (n : Nat) :
    pointsPassed cycle point b p w (n + 1) = (if cycle = point then 1 else 0) + pointsPassed 0 (p - 1) w p w n := by
  unfold pointsPassed
  by_cases reached : p ≤ n
  · rw [show cycle + (n + 1) + w - (b + p) = n - p + w by omega, show 0 + n + w - (w + p) = n - p by omega,
      Nat.add_div_right _ (by omega)]
    split_ifs <;> omega
  · rw [Nat.div_eq_of_lt (by omega), Nat.div_eq_of_lt (by omega)]
    split_ifs <;> omega

/-- Of n + 1 reference cycles the first samples a bit where it is the last of the sample point's quantum. -/
theorem samples_succ {c : LiuSettings} {t : BitTiming} (h : t.Inside c) (n : Nat) :
    t.samples c (n + 1) = (if t.cycle = t.sampleCycle c then 1 else 0) + (t.pass c.bitRate 1).samples c n := by
  obtain ⟨low, high, inBit, inside⟩ := h
  have least : 1 * 1 ≤ c.samplePoint * c.bitRate.cyclesPerQuantum := Nat.mul_le_mul low (quantum_pos _)
  have most : c.samplePoint * c.bitRate.cyclesPerQuantum ≤ 16 * c.bitRate.cyclesPerQuantum :=
    Nat.mul_le_mul_right _ high
  by_cases on : t.cycle + 1 < t.bitCycles c.bitRate
  · rw [pass_goesOn on]
    exact pointsPassed_on _ _ _ _ _ _
  · have last : t.cycle + 1 = t.bitCycles c.bitRate := by omega
    have next : (t.pass c.bitRate 1).samples c n = pointsPassed 0 (c.samplePoint * c.bitRate.cyclesPerQuantum - 1)
        (16 * c.bitRate.cyclesPerQuantum) (c.samplePoint * c.bitRate.cyclesPerQuantum)
        (16 * c.bitRate.cyclesPerQuantum) n := by
      rw [pass_ends last, samples_eq]
      simp [BitTiming.start, BitTiming.sampleCycle, BitTiming.bitCycles]
    rw [next]
    exact pointsPassed_end last inside least most n

/-- samples counts the bits that a recessive line brings (R1, R26). -/
theorem sampledBits_recessive {c : LiuSettings} {t : BitTiming} (h : t.Inside c) (n : Nat) :
    sampledBits c t true (List.replicate n true) = List.replicate (t.samples c n) true := by
  induction n generalizing t with
  | zero =>
    obtain ⟨low, high, inBit, inside⟩ := h
    have q := quantum_pos c.bitRate
    have none : t.samples c 0 = 0 := pointsPassed_none inBit (Nat.mul_le_mul low q : 1 * 1 ≤ _)
    simp [none, sampledBits]
  | succ n ih =>
    rw [List.replicate_succ, samples_succ h n]
    simp only [sampledBits, Bool.not_true, Bool.and_false, Bool.false_eq_true, if_false]
    rw [ih (pass_inside h)]
    split
    · rw [Nat.add_comm, List.replicate_succ]
    · rw [Nat.zero_add]
/-! ## The stamp -/

/-- Copying the stamp leaves the place and the frame of the attempt. -/
theorem copyStamp_attempt (capture : Option Capture) (startsNow : Bool) (l : LiuBlock) :
    (l.copyStamp capture startsNow).attempt.map (fun a => (a.place, a.frame))
      = l.attempt.map (fun a => (a.place, a.frame)) := by
  simp only [LiuBlock.copyStamp, Option.map_map]
  congr 1
  funext a
  simp only [Function.comp]
  split
  · unfold Attempt.stamped
    split <;> rfl
  · rfl

/-- A stamp once copied stays (R41). -/
theorem stamped_of_some {a : Attempt} {stamp : BusTime} (copied : a.stamp = some stamp) (capture : Option Capture) :
    a.stamped capture = a := by
  unfold Attempt.stamped
  split <;> simp_all

/-- Without an attempt there is no stamp to copy. -/
theorem copyStamp_of_none {l : LiuBlock} (none : l.attempt = none) (capture : Option Capture) (startsNow : Bool) :
    l.copyStamp capture startsNow = l := by
  cases l
  simp_all [LiuBlock.copyStamp]

/-- The LIU copies no stamp while it is not SENDING. -/
theorem copyStamp_of_not_sending {l : LiuBlock} (other : l.state ≠ .sending) (capture : Option Capture)
    (startsNow : Bool) : l.copyStamp capture startsNow = l := by
  cases l
  simp_all [LiuBlock.copyStamp]

end Sys2Proof.Machine
end

