-- ==== Sys2Proof/Laws/State.lean ====
section
/-! SUPPORT. One lemma per field per write of one block, each true by definition, so that no proof unfolds a record update. -/

namespace Sys2Proof.Machine

section Stc

variable (s : State) (b : StcState)

@[simp] theorem setStc_stc : (s.setStc b).stc = b := rfl
@[simp] theorem setStc_liu : (s.setStc b).liu = s.liu := rfl
@[simp] theorem setStc_fcu : (s.setStc b).fcu = s.fcu := rfl
@[simp] theorem setStc_btu : (s.setStc b).btu = s.btu := rfl
@[simp] theorem setStc_agu : (s.setStc b).agu = s.agu := rfl
@[simp] theorem setStc_sq : (s.setStc b).sq = s.sq := rfl
@[simp] theorem setStc_iku : (s.setStc b).iku = s.iku := rfl
@[simp] theorem setStc_csu : (s.setStc b).csu = s.csu := rfl
@[simp] theorem setStc_clu : (s.setStc b).clu = s.clu := rfl
@[simp] theorem setStc_mku : (s.setStc b).mku = s.mku := rfl
@[simp] theorem setStc_lpu : (s.setStc b).lpu = s.lpu := rfl
@[simp] theorem setStc_pending : (s.setStc b).pending = s.pending := rfl
@[simp] theorem setStc_spent : (s.setStc b).spent = s.spent := rfl
@[simp] theorem setStc_posted : (s.setStc b).posted = s.posted := rfl
@[simp] theorem setStc_draws : (s.setStc b).draws = s.draws := rfl

end Stc

section Liu

variable (s : State) (b : LiuBlock)

@[simp] theorem setLiu_stc : (s.setLiu b).stc = s.stc := rfl
@[simp] theorem setLiu_liu : (s.setLiu b).liu = b := rfl
@[simp] theorem setLiu_fcu : (s.setLiu b).fcu = s.fcu := rfl
@[simp] theorem setLiu_btu : (s.setLiu b).btu = s.btu := rfl
@[simp] theorem setLiu_agu : (s.setLiu b).agu = s.agu := rfl
@[simp] theorem setLiu_sq : (s.setLiu b).sq = s.sq := rfl
@[simp] theorem setLiu_iku : (s.setLiu b).iku = s.iku := rfl
@[simp] theorem setLiu_csu : (s.setLiu b).csu = s.csu := rfl
@[simp] theorem setLiu_clu : (s.setLiu b).clu = s.clu := rfl
@[simp] theorem setLiu_mku : (s.setLiu b).mku = s.mku := rfl
@[simp] theorem setLiu_lpu : (s.setLiu b).lpu = s.lpu := rfl
@[simp] theorem setLiu_pending : (s.setLiu b).pending = s.pending := rfl
@[simp] theorem setLiu_spent : (s.setLiu b).spent = s.spent := rfl
@[simp] theorem setLiu_posted : (s.setLiu b).posted = s.posted := rfl
@[simp] theorem setLiu_draws : (s.setLiu b).draws = s.draws := rfl

end Liu

section Fcu

variable (s : State) (b : FcuState)

@[simp] theorem setFcu_stc : (s.setFcu b).stc = s.stc := rfl
@[simp] theorem setFcu_liu : (s.setFcu b).liu = s.liu := rfl
@[simp] theorem setFcu_fcu : (s.setFcu b).fcu = b := rfl
@[simp] theorem setFcu_btu : (s.setFcu b).btu = s.btu := rfl
@[simp] theorem setFcu_agu : (s.setFcu b).agu = s.agu := rfl
@[simp] theorem setFcu_sq : (s.setFcu b).sq = s.sq := rfl
@[simp] theorem setFcu_iku : (s.setFcu b).iku = s.iku := rfl
@[simp] theorem setFcu_csu : (s.setFcu b).csu = s.csu := rfl
@[simp] theorem setFcu_clu : (s.setFcu b).clu = s.clu := rfl
@[simp] theorem setFcu_mku : (s.setFcu b).mku = s.mku := rfl
@[simp] theorem setFcu_lpu : (s.setFcu b).lpu = s.lpu := rfl
@[simp] theorem setFcu_pending : (s.setFcu b).pending = s.pending := rfl
@[simp] theorem setFcu_spent : (s.setFcu b).spent = s.spent := rfl
@[simp] theorem setFcu_posted : (s.setFcu b).posted = s.posted := rfl
@[simp] theorem setFcu_draws : (s.setFcu b).draws = s.draws := rfl

end Fcu

section Btu

variable (s : State) (b : BtuState)

@[simp] theorem setBtu_stc : (s.setBtu b).stc = s.stc := rfl
@[simp] theorem setBtu_liu : (s.setBtu b).liu = s.liu := rfl
@[simp] theorem setBtu_fcu : (s.setBtu b).fcu = s.fcu := rfl
@[simp] theorem setBtu_btu : (s.setBtu b).btu = b := rfl
@[simp] theorem setBtu_agu : (s.setBtu b).agu = s.agu := rfl
@[simp] theorem setBtu_sq : (s.setBtu b).sq = s.sq := rfl
@[simp] theorem setBtu_iku : (s.setBtu b).iku = s.iku := rfl
@[simp] theorem setBtu_csu : (s.setBtu b).csu = s.csu := rfl
@[simp] theorem setBtu_clu : (s.setBtu b).clu = s.clu := rfl
@[simp] theorem setBtu_mku : (s.setBtu b).mku = s.mku := rfl
@[simp] theorem setBtu_lpu : (s.setBtu b).lpu = s.lpu := rfl
@[simp] theorem setBtu_pending : (s.setBtu b).pending = s.pending := rfl
@[simp] theorem setBtu_spent : (s.setBtu b).spent = s.spent := rfl
@[simp] theorem setBtu_posted : (s.setBtu b).posted = s.posted := rfl
@[simp] theorem setBtu_draws : (s.setBtu b).draws = s.draws := rfl

end Btu

section Agu

variable (s : State) (b : AguState)

@[simp] theorem setAgu_stc : (s.setAgu b).stc = s.stc := rfl
@[simp] theorem setAgu_liu : (s.setAgu b).liu = s.liu := rfl
@[simp] theorem setAgu_fcu : (s.setAgu b).fcu = s.fcu := rfl
@[simp] theorem setAgu_btu : (s.setAgu b).btu = s.btu := rfl
@[simp] theorem setAgu_agu : (s.setAgu b).agu = b := rfl
@[simp] theorem setAgu_sq : (s.setAgu b).sq = s.sq := rfl
@[simp] theorem setAgu_iku : (s.setAgu b).iku = s.iku := rfl
@[simp] theorem setAgu_csu : (s.setAgu b).csu = s.csu := rfl
@[simp] theorem setAgu_clu : (s.setAgu b).clu = s.clu := rfl
@[simp] theorem setAgu_mku : (s.setAgu b).mku = s.mku := rfl
@[simp] theorem setAgu_lpu : (s.setAgu b).lpu = s.lpu := rfl
@[simp] theorem setAgu_pending : (s.setAgu b).pending = s.pending := rfl
@[simp] theorem setAgu_spent : (s.setAgu b).spent = s.spent := rfl
@[simp] theorem setAgu_posted : (s.setAgu b).posted = s.posted := rfl
@[simp] theorem setAgu_draws : (s.setAgu b).draws = s.draws := rfl

end Agu

section Sq

variable (s : State) (b : SqState)

@[simp] theorem setSq_stc : (s.setSq b).stc = s.stc := rfl
@[simp] theorem setSq_liu : (s.setSq b).liu = s.liu := rfl
@[simp] theorem setSq_fcu : (s.setSq b).fcu = s.fcu := rfl
@[simp] theorem setSq_btu : (s.setSq b).btu = s.btu := rfl
@[simp] theorem setSq_agu : (s.setSq b).agu = s.agu := rfl
@[simp] theorem setSq_sq : (s.setSq b).sq = b := rfl
@[simp] theorem setSq_iku : (s.setSq b).iku = s.iku := rfl
@[simp] theorem setSq_csu : (s.setSq b).csu = s.csu := rfl
@[simp] theorem setSq_clu : (s.setSq b).clu = s.clu := rfl
@[simp] theorem setSq_mku : (s.setSq b).mku = s.mku := rfl
@[simp] theorem setSq_lpu : (s.setSq b).lpu = s.lpu := rfl
@[simp] theorem setSq_pending : (s.setSq b).pending = s.pending := rfl
@[simp] theorem setSq_spent : (s.setSq b).spent = s.spent := rfl
@[simp] theorem setSq_posted : (s.setSq b).posted = s.posted := rfl
@[simp] theorem setSq_draws : (s.setSq b).draws = s.draws := rfl

end Sq

section Iku

variable (s : State) (b : IkuState)

@[simp] theorem setIku_stc : (s.setIku b).stc = s.stc := rfl
@[simp] theorem setIku_liu : (s.setIku b).liu = s.liu := rfl
@[simp] theorem setIku_fcu : (s.setIku b).fcu = s.fcu := rfl
@[simp] theorem setIku_btu : (s.setIku b).btu = s.btu := rfl
@[simp] theorem setIku_agu : (s.setIku b).agu = s.agu := rfl
@[simp] theorem setIku_sq : (s.setIku b).sq = s.sq := rfl
@[simp] theorem setIku_iku : (s.setIku b).iku = b := rfl
@[simp] theorem setIku_csu : (s.setIku b).csu = s.csu := rfl
@[simp] theorem setIku_clu : (s.setIku b).clu = s.clu := rfl
@[simp] theorem setIku_mku : (s.setIku b).mku = s.mku := rfl
@[simp] theorem setIku_lpu : (s.setIku b).lpu = s.lpu := rfl
@[simp] theorem setIku_pending : (s.setIku b).pending = s.pending := rfl
@[simp] theorem setIku_spent : (s.setIku b).spent = s.spent := rfl
@[simp] theorem setIku_posted : (s.setIku b).posted = s.posted := rfl
@[simp] theorem setIku_draws : (s.setIku b).draws = s.draws := rfl

end Iku

section Csu

variable (s : State) (b : CsuState)

@[simp] theorem setCsu_stc : (s.setCsu b).stc = s.stc := rfl
@[simp] theorem setCsu_liu : (s.setCsu b).liu = s.liu := rfl
@[simp] theorem setCsu_fcu : (s.setCsu b).fcu = s.fcu := rfl
@[simp] theorem setCsu_btu : (s.setCsu b).btu = s.btu := rfl
@[simp] theorem setCsu_agu : (s.setCsu b).agu = s.agu := rfl
@[simp] theorem setCsu_sq : (s.setCsu b).sq = s.sq := rfl
@[simp] theorem setCsu_iku : (s.setCsu b).iku = s.iku := rfl
@[simp] theorem setCsu_csu : (s.setCsu b).csu = b := rfl
@[simp] theorem setCsu_clu : (s.setCsu b).clu = s.clu := rfl
@[simp] theorem setCsu_mku : (s.setCsu b).mku = s.mku := rfl
@[simp] theorem setCsu_lpu : (s.setCsu b).lpu = s.lpu := rfl
@[simp] theorem setCsu_pending : (s.setCsu b).pending = s.pending := rfl
@[simp] theorem setCsu_spent : (s.setCsu b).spent = s.spent := rfl
@[simp] theorem setCsu_posted : (s.setCsu b).posted = s.posted := rfl
@[simp] theorem setCsu_draws : (s.setCsu b).draws = s.draws := rfl

end Csu

section Clu

variable (s : State) (b : CluState)

@[simp] theorem setClu_stc : (s.setClu b).stc = s.stc := rfl
@[simp] theorem setClu_liu : (s.setClu b).liu = s.liu := rfl
@[simp] theorem setClu_fcu : (s.setClu b).fcu = s.fcu := rfl
@[simp] theorem setClu_btu : (s.setClu b).btu = s.btu := rfl
@[simp] theorem setClu_agu : (s.setClu b).agu = s.agu := rfl
@[simp] theorem setClu_sq : (s.setClu b).sq = s.sq := rfl
@[simp] theorem setClu_iku : (s.setClu b).iku = s.iku := rfl
@[simp] theorem setClu_csu : (s.setClu b).csu = s.csu := rfl
@[simp] theorem setClu_clu : (s.setClu b).clu = b := rfl
@[simp] theorem setClu_mku : (s.setClu b).mku = s.mku := rfl
@[simp] theorem setClu_lpu : (s.setClu b).lpu = s.lpu := rfl
@[simp] theorem setClu_pending : (s.setClu b).pending = s.pending := rfl
@[simp] theorem setClu_spent : (s.setClu b).spent = s.spent := rfl
@[simp] theorem setClu_posted : (s.setClu b).posted = s.posted := rfl
@[simp] theorem setClu_draws : (s.setClu b).draws = s.draws := rfl

end Clu

section Mku

variable (s : State) (b : MkuState)

@[simp] theorem setMku_stc : (s.setMku b).stc = s.stc := rfl
@[simp] theorem setMku_liu : (s.setMku b).liu = s.liu := rfl
@[simp] theorem setMku_fcu : (s.setMku b).fcu = s.fcu := rfl
@[simp] theorem setMku_btu : (s.setMku b).btu = s.btu := rfl
@[simp] theorem setMku_agu : (s.setMku b).agu = s.agu := rfl
@[simp] theorem setMku_sq : (s.setMku b).sq = s.sq := rfl
@[simp] theorem setMku_iku : (s.setMku b).iku = s.iku := rfl
@[simp] theorem setMku_csu : (s.setMku b).csu = s.csu := rfl
@[simp] theorem setMku_clu : (s.setMku b).clu = s.clu := rfl
@[simp] theorem setMku_mku : (s.setMku b).mku = b := rfl
@[simp] theorem setMku_lpu : (s.setMku b).lpu = s.lpu := rfl
@[simp] theorem setMku_pending : (s.setMku b).pending = s.pending := rfl
@[simp] theorem setMku_spent : (s.setMku b).spent = s.spent := rfl
@[simp] theorem setMku_posted : (s.setMku b).posted = s.posted := rfl
@[simp] theorem setMku_draws : (s.setMku b).draws = s.draws := rfl

end Mku

section Lpu

variable (s : State) (b : LpuState)

@[simp] theorem setLpu_stc : (s.setLpu b).stc = s.stc := rfl
@[simp] theorem setLpu_liu : (s.setLpu b).liu = s.liu := rfl
@[simp] theorem setLpu_fcu : (s.setLpu b).fcu = s.fcu := rfl
@[simp] theorem setLpu_btu : (s.setLpu b).btu = s.btu := rfl
@[simp] theorem setLpu_agu : (s.setLpu b).agu = s.agu := rfl
@[simp] theorem setLpu_sq : (s.setLpu b).sq = s.sq := rfl
@[simp] theorem setLpu_iku : (s.setLpu b).iku = s.iku := rfl
@[simp] theorem setLpu_csu : (s.setLpu b).csu = s.csu := rfl
@[simp] theorem setLpu_clu : (s.setLpu b).clu = s.clu := rfl
@[simp] theorem setLpu_mku : (s.setLpu b).mku = s.mku := rfl
@[simp] theorem setLpu_lpu : (s.setLpu b).lpu = b := rfl
@[simp] theorem setLpu_pending : (s.setLpu b).pending = s.pending := rfl
@[simp] theorem setLpu_spent : (s.setLpu b).spent = s.spent := rfl
@[simp] theorem setLpu_posted : (s.setLpu b).posted = s.posted := rfl
@[simp] theorem setLpu_draws : (s.setLpu b).draws = s.draws := rfl

end Lpu

section Pending

variable (s : State) (b : List Instr)

@[simp] theorem setPending_stc : (s.setPending b).stc = s.stc := rfl
@[simp] theorem setPending_liu : (s.setPending b).liu = s.liu := rfl
@[simp] theorem setPending_fcu : (s.setPending b).fcu = s.fcu := rfl
@[simp] theorem setPending_btu : (s.setPending b).btu = s.btu := rfl
@[simp] theorem setPending_agu : (s.setPending b).agu = s.agu := rfl
@[simp] theorem setPending_sq : (s.setPending b).sq = s.sq := rfl
@[simp] theorem setPending_iku : (s.setPending b).iku = s.iku := rfl
@[simp] theorem setPending_csu : (s.setPending b).csu = s.csu := rfl
@[simp] theorem setPending_clu : (s.setPending b).clu = s.clu := rfl
@[simp] theorem setPending_mku : (s.setPending b).mku = s.mku := rfl
@[simp] theorem setPending_lpu : (s.setPending b).lpu = s.lpu := rfl
@[simp] theorem setPending_pending : (s.setPending b).pending = b := rfl
@[simp] theorem setPending_spent : (s.setPending b).spent = s.spent := rfl
@[simp] theorem setPending_posted : (s.setPending b).posted = s.posted := rfl
@[simp] theorem setPending_draws : (s.setPending b).draws = s.draws := rfl

end Pending

section Draws

variable (s : State) (b : Nat)

@[simp] theorem setDraws_stc : (s.setDraws b).stc = s.stc := rfl
@[simp] theorem setDraws_liu : (s.setDraws b).liu = s.liu := rfl
@[simp] theorem setDraws_fcu : (s.setDraws b).fcu = s.fcu := rfl
@[simp] theorem setDraws_btu : (s.setDraws b).btu = s.btu := rfl
@[simp] theorem setDraws_agu : (s.setDraws b).agu = s.agu := rfl
@[simp] theorem setDraws_sq : (s.setDraws b).sq = s.sq := rfl
@[simp] theorem setDraws_iku : (s.setDraws b).iku = s.iku := rfl
@[simp] theorem setDraws_csu : (s.setDraws b).csu = s.csu := rfl
@[simp] theorem setDraws_clu : (s.setDraws b).clu = s.clu := rfl
@[simp] theorem setDraws_mku : (s.setDraws b).mku = s.mku := rfl
@[simp] theorem setDraws_lpu : (s.setDraws b).lpu = s.lpu := rfl
@[simp] theorem setDraws_pending : (s.setDraws b).pending = s.pending := rfl
@[simp] theorem setDraws_spent : (s.setDraws b).spent = s.spent := rfl
@[simp] theorem setDraws_posted : (s.setDraws b).posted = s.posted := rfl
@[simp] theorem setDraws_draws : (s.setDraws b).draws = b := rfl

end Draws

section Spent

variable (s : State) (b : List Instr)

@[simp] theorem setSpent_stc : (s.setSpent b).stc = s.stc := rfl
@[simp] theorem setSpent_liu : (s.setSpent b).liu = s.liu := rfl
@[simp] theorem setSpent_fcu : (s.setSpent b).fcu = s.fcu := rfl
@[simp] theorem setSpent_btu : (s.setSpent b).btu = s.btu := rfl
@[simp] theorem setSpent_agu : (s.setSpent b).agu = s.agu := rfl
@[simp] theorem setSpent_sq : (s.setSpent b).sq = s.sq := rfl
@[simp] theorem setSpent_iku : (s.setSpent b).iku = s.iku := rfl
@[simp] theorem setSpent_csu : (s.setSpent b).csu = s.csu := rfl
@[simp] theorem setSpent_clu : (s.setSpent b).clu = s.clu := rfl
@[simp] theorem setSpent_mku : (s.setSpent b).mku = s.mku := rfl
@[simp] theorem setSpent_lpu : (s.setSpent b).lpu = s.lpu := rfl
@[simp] theorem setSpent_pending : (s.setSpent b).pending = s.pending := rfl
@[simp] theorem setSpent_spent : (s.setSpent b).spent = b := rfl
@[simp] theorem setSpent_posted : (s.setSpent b).posted = s.posted := rfl
@[simp] theorem setSpent_draws : (s.setSpent b).draws = s.draws := rfl

end Spent

section Posted

variable (s : State) (b : Posted)

@[simp] theorem setPosted_stc : (s.setPosted b).stc = s.stc := rfl
@[simp] theorem setPosted_liu : (s.setPosted b).liu = s.liu := rfl
@[simp] theorem setPosted_fcu : (s.setPosted b).fcu = s.fcu := rfl
@[simp] theorem setPosted_btu : (s.setPosted b).btu = s.btu := rfl
@[simp] theorem setPosted_agu : (s.setPosted b).agu = s.agu := rfl
@[simp] theorem setPosted_sq : (s.setPosted b).sq = s.sq := rfl
@[simp] theorem setPosted_iku : (s.setPosted b).iku = s.iku := rfl
@[simp] theorem setPosted_csu : (s.setPosted b).csu = s.csu := rfl
@[simp] theorem setPosted_clu : (s.setPosted b).clu = s.clu := rfl
@[simp] theorem setPosted_mku : (s.setPosted b).mku = s.mku := rfl
@[simp] theorem setPosted_lpu : (s.setPosted b).lpu = s.lpu := rfl
@[simp] theorem setPosted_pending : (s.setPosted b).pending = s.pending := rfl
@[simp] theorem setPosted_spent : (s.setPosted b).spent = s.spent := rfl
@[simp] theorem setPosted_posted : (s.setPosted b).posted = b := rfl
@[simp] theorem setPosted_draws : (s.setPosted b).draws = s.draws := rfl

end Posted

/-- Two states that agree in every field are equal. -/
theorem State.ext_of {s t : State}
    (stc : t.stc = s.stc)
    (liu : t.liu = s.liu)
    (fcu : t.fcu = s.fcu)
    (btu : t.btu = s.btu)
    (agu : t.agu = s.agu)
    (sq : t.sq = s.sq)
    (iku : t.iku = s.iku)
    (csu : t.csu = s.csu)
    (clu : t.clu = s.clu)
    (mku : t.mku = s.mku)
    (lpu : t.lpu = s.lpu)
    (pending : t.pending = s.pending)
    (spent : t.spent = s.spent)
    (posted : t.posted = s.posted)
    (draws : t.draws = s.draws) :
    t = s := by
  cases s
  cases t
  simp_all

end Sys2Proof.Machine
end

