-- ==== Sys2Proof/Laws/Frames.lean ====
section
/-! SUPPORT. What each shared operation can change: Touches bs s t says that t differs from s at most in the parts bs, and one lemma per operation names its parts. -/

namespace Sys2Proof.Machine

/-- The parts of the state that operations change one without another. -/
inductive Part where
  | stc | window | liu | timing | stamp | holdOff | fcu | btu | agu | pendingBeat | sq | iku | csu | clu | mku | port
  | notices | pending | spent | posted | draws
  deriving DecidableEq

/-- t differs from s at most in the parts bs. -/
structure Touches (bs : List Part) (s t : State) : Prop where
  stc : .stc ∉ bs → t.stc.station = s.stc.station ∧ t.stc.draining = s.stc.draining ∧ t.stc.config = s.stc.config
  window : .window ∉ bs → t.stc.windowEnd = s.stc.windowEnd
  liu : .liu ∉ bs →
    t.liu.state = s.liu.state
      ∧ t.liu.attempt.map (fun a => (a.place, a.frame)) = s.liu.attempt.map (fun a => (a.place, a.frame))
      ∧ t.liu.settings = s.liu.settings ∧ t.liu.ownEnded = s.liu.ownEnded
  timing : .timing ∉ bs → t.liu.timing = s.liu.timing
  stamp : .stamp ∉ bs → t.liu.attempt.map Attempt.stamp = s.liu.attempt.map Attempt.stamp
  holdOff : .holdOff ∉ bs → t.liu.holdOff = s.liu.holdOff
  fcu : .fcu ∉ bs → t.fcu = s.fcu
  btu : .btu ∉ bs → t.btu = s.btu
  agu : .agu ∉ bs → { t.agu with pendingBeat := none } = { s.agu with pendingBeat := none }
  pendingBeat : .pendingBeat ∉ bs → t.agu.pendingBeat = s.agu.pendingBeat
  sq : .sq ∉ bs → t.sq = s.sq
  iku : .iku ∉ bs → t.iku = s.iku
  csu : .csu ∉ bs → t.csu = s.csu
  clu : .clu ∉ bs → t.clu = s.clu
  mku : .mku ∉ bs → t.mku = s.mku
  port : .port ∉ bs →
    t.lpu.transaction = s.lpu.transaction ∧ t.lpu.reply = s.lpu.reply ∧ t.lpu.truncated = s.lpu.truncated
  notices : .notices ∉ bs → t.lpu.notices = s.lpu.notices ∧ t.lpu.lost = s.lpu.lost
  pending : .pending ∉ bs → t.pending = s.pending
  spent : .spent ∉ bs → t.spent = s.spent
  posted : .posted ∉ bs → t.posted = s.posted
  draws : .draws ∉ bs → t.draws = s.draws

/-! ## Rules of the relation -/

theorem Touches.refl (bs : List Part) (s : State) : Touches bs s s := by constructor <;> simp

theorem Touches.trans {bs : List Part} {s t u : State} (h : Touches bs s t) (k : Touches bs t u) :
    Touches bs s u := by
  constructor <;> intro m <;>
    first
    | (have a := h.stc m; have b := k.stc m; exact ⟨b.1.trans a.1, b.2.1.trans a.2.1, b.2.2.trans a.2.2⟩)
    | exact (k.window m).trans (h.window m)
    | (have a := h.liu m; have b := k.liu m
       exact ⟨b.1.trans a.1, b.2.1.trans a.2.1, b.2.2.1.trans a.2.2.1, b.2.2.2.trans a.2.2.2⟩)
    | exact (k.timing m).trans (h.timing m)
    | exact (k.stamp m).trans (h.stamp m)
    | exact (k.holdOff m).trans (h.holdOff m)
    | exact (k.fcu m).trans (h.fcu m)
    | exact (k.btu m).trans (h.btu m)
    | exact (k.agu m).trans (h.agu m)
    | exact (k.pendingBeat m).trans (h.pendingBeat m)
    | exact (k.sq m).trans (h.sq m)
    | exact (k.iku m).trans (h.iku m)
    | exact (k.csu m).trans (h.csu m)
    | exact (k.clu m).trans (h.clu m)
    | exact (k.mku m).trans (h.mku m)
    | (have a := h.port m; have b := k.port m; exact ⟨b.1.trans a.1, b.2.1.trans a.2.1, b.2.2.trans a.2.2⟩)
    | (have a := h.notices m; have b := k.notices m; exact ⟨b.1.trans a.1, b.2.trans a.2⟩)
    | exact (k.pending m).trans (h.pending m)
    | exact (k.spent m).trans (h.spent m)
    | exact (k.posted m).trans (h.posted m)
    | exact (k.draws m).trans (h.draws m)

theorem Touches.mono {bs cs : List Part} {s t : State} (h : Touches bs s t) (hs : ∀ b ∈ bs, b ∈ cs) :
    Touches cs s t := by
  constructor <;> intro m
  · exact h.stc (fun x => m (hs _ x))
  · exact h.window (fun x => m (hs _ x))
  · exact h.liu (fun x => m (hs _ x))
  · exact h.timing (fun x => m (hs _ x))
  · exact h.stamp (fun x => m (hs _ x))
  · exact h.holdOff (fun x => m (hs _ x))
  · exact h.fcu (fun x => m (hs _ x))
  · exact h.btu (fun x => m (hs _ x))
  · exact h.agu (fun x => m (hs _ x))
  · exact h.pendingBeat (fun x => m (hs _ x))
  · exact h.sq (fun x => m (hs _ x))
  · exact h.iku (fun x => m (hs _ x))
  · exact h.csu (fun x => m (hs _ x))
  · exact h.clu (fun x => m (hs _ x))
  · exact h.mku (fun x => m (hs _ x))
  · exact h.port (fun x => m (hs _ x))
  · exact h.notices (fun x => m (hs _ x))
  · exact h.pending (fun x => m (hs _ x))
  · exact h.spent (fun x => m (hs _ x))
  · exact h.posted (fun x => m (hs _ x))
  · exact h.draws (fun x => m (hs _ x))

/-- A fold of operations that touch bs touches bs. -/
theorem Touches.foldl {α : Type} {bs : List Part} {f : State → α → State} (h : ∀ s a, Touches bs s (f s a))
    (l : List α) (s : State) : Touches bs s (l.foldl f s) := by
  induction l generalizing s with
  | nil => exact Touches.refl _ _
  | cons a l ih => exact (h s a).trans (ih _)

/-! ## Writes of one block -/

theorem setFcu_touches (s : State) (b : FcuState) : Touches [.fcu] s (s.setFcu b) := by constructor <;> simp
theorem setBtu_touches (s : State) (b : BtuState) : Touches [.btu] s (s.setBtu b) := by constructor <;> simp
theorem setSq_touches (s : State) (b : SqState) : Touches [.sq] s (s.setSq b) := by constructor <;> simp
theorem setIku_touches (s : State) (b : IkuState) : Touches [.iku] s (s.setIku b) := by constructor <;> simp
theorem setCsu_touches (s : State) (b : CsuState) : Touches [.csu] s (s.setCsu b) := by constructor <;> simp
theorem setClu_touches (s : State) (b : CluState) : Touches [.clu] s (s.setClu b) := by constructor <;> simp
theorem setMku_touches (s : State) (b : MkuState) : Touches [.mku] s (s.setMku b) := by constructor <;> simp
theorem setStc_touches (s : State) (b : StcState) : Touches [.stc, .window] s (s.setStc b) := by
  constructor <;> simp
theorem setLiu_touches (s : State) (b : LiuBlock) : Touches [.liu, .timing, .stamp, .holdOff] s (s.setLiu b) := by
  constructor <;> simp
theorem setAgu_touches (s : State) (b : AguState) : Touches [.agu, .pendingBeat] s (s.setAgu b) := by
  constructor <;> simp
theorem setLpu_touches (s : State) (b : LpuState) : Touches [.port, .notices] s (s.setLpu b) := by
  constructor <;> simp
theorem setSpent_touches (s : State) (b : List Instr) : Touches [.spent] s (s.setSpent b) := by
  constructor <;> simp
theorem setDraws_touches (s : State) (b : Nat) : Touches [.draws] s (s.setDraws b) := by constructor <;> simp
theorem endHoldOff_touches (s : State) : Touches [.holdOff] s (s.setLiu { s.liu with holdOff := false }) := by
  constructor <;> simp
theorem setPendingBeat_touches (s : State) (b : Option Beat) :
    Touches [.pendingBeat] s (s.setAgu { s.agu with pendingBeat := b }) := by constructor <;> simp
theorem setNotices_touches (s : State) (l : List Notice) (n : Nat) :
    Touches [.notices] s (s.setLpu { s.lpu with notices := l, lost := n }) := by constructor <;> simp
theorem setPosted_touches (s : State) (b : Posted) : Touches [.posted] s (s.setPosted b) := by constructor <;> simp

/-! ## Notices and time -/

theorem settlePosts_touches (s : State) : Touches [.posted] s s.settlePosts := setPosted_touches _ _

/-- A notice that joins the queue changes the queue, the lost count and what is kept of this cycle's notices. -/
theorem joinQueue_touches (n : Nat) (b : NoticeBody) (s : State) :
    Touches [.notices, .posted] s (s.joinQueue n b) := by
  unfold State.joinQueue
  dsimp only
  split
  · exact ((setNotices_touches s _ s.lpu.lost).mono (by decide)).trans ((setPosted_touches _ _).mono (by decide))
  · exact ((setNotices_touches s _ _).mono (by decide)).trans ((setPosted_touches _ _).mono (by decide))

theorem post_touches (b : NoticeBody) (s : State) : Touches [.notices, .posted] s (s.post b) := by
  unfold State.post
  dsimp only
  split
  · exact joinQueue_touches 0 b s
  · exact ((setPosted_touches s _).mono (by decide)).trans (joinQueue_touches _ b _)

/-! ## What a post leaves -/

section Post

variable (b : NoticeBody) (s : State)

@[simp] theorem joinQueue_stc (n : Nat) : (s.joinQueue n b).stc = s.stc := by
  unfold State.joinQueue; dsimp only; split <;> rfl
@[simp] theorem joinQueue_liu (n : Nat) : (s.joinQueue n b).liu = s.liu := by
  unfold State.joinQueue; dsimp only; split <;> rfl
@[simp] theorem joinQueue_fcu (n : Nat) : (s.joinQueue n b).fcu = s.fcu := by
  unfold State.joinQueue; dsimp only; split <;> rfl
@[simp] theorem joinQueue_btu (n : Nat) : (s.joinQueue n b).btu = s.btu := by
  unfold State.joinQueue; dsimp only; split <;> rfl
@[simp] theorem joinQueue_agu (n : Nat) : (s.joinQueue n b).agu = s.agu := by
  unfold State.joinQueue; dsimp only; split <;> rfl
@[simp] theorem joinQueue_sq (n : Nat) : (s.joinQueue n b).sq = s.sq := by
  unfold State.joinQueue; dsimp only; split <;> rfl
@[simp] theorem joinQueue_iku (n : Nat) : (s.joinQueue n b).iku = s.iku := by
  unfold State.joinQueue; dsimp only; split <;> rfl
@[simp] theorem joinQueue_csu (n : Nat) : (s.joinQueue n b).csu = s.csu := by
  unfold State.joinQueue; dsimp only; split <;> rfl
@[simp] theorem joinQueue_clu (n : Nat) : (s.joinQueue n b).clu = s.clu := by
  unfold State.joinQueue; dsimp only; split <;> rfl
@[simp] theorem joinQueue_mku (n : Nat) : (s.joinQueue n b).mku = s.mku := by
  unfold State.joinQueue; dsimp only; split <;> rfl
@[simp] theorem joinQueue_pending (n : Nat) : (s.joinQueue n b).pending = s.pending := by
  unfold State.joinQueue; dsimp only; split <;> rfl
@[simp] theorem joinQueue_spent (n : Nat) : (s.joinQueue n b).spent = s.spent := by
  unfold State.joinQueue; dsimp only; split <;> rfl
@[simp] theorem joinQueue_draws (n : Nat) : (s.joinQueue n b).draws = s.draws := by
  unfold State.joinQueue; dsimp only; split <;> rfl

@[simp] theorem post_stc : (s.post b).stc = s.stc := by
  unfold State.post; dsimp only; split <;> simp
@[simp] theorem post_liu : (s.post b).liu = s.liu := by
  unfold State.post; dsimp only; split <;> simp
@[simp] theorem post_fcu : (s.post b).fcu = s.fcu := by
  unfold State.post; dsimp only; split <;> simp
@[simp] theorem post_btu : (s.post b).btu = s.btu := by
  unfold State.post; dsimp only; split <;> simp
@[simp] theorem post_agu : (s.post b).agu = s.agu := by
  unfold State.post; dsimp only; split <;> simp
@[simp] theorem post_sq : (s.post b).sq = s.sq := by
  unfold State.post; dsimp only; split <;> simp
@[simp] theorem post_iku : (s.post b).iku = s.iku := by
  unfold State.post; dsimp only; split <;> simp
@[simp] theorem post_csu : (s.post b).csu = s.csu := by
  unfold State.post; dsimp only; split <;> simp
@[simp] theorem post_clu : (s.post b).clu = s.clu := by
  unfold State.post; dsimp only; split <;> simp
@[simp] theorem post_mku : (s.post b).mku = s.mku := by
  unfold State.post; dsimp only; split <;> simp
@[simp] theorem post_pending : (s.post b).pending = s.pending := by
  unfold State.post; dsimp only; split <;> simp
@[simp] theorem post_spent : (s.post b).spent = s.spent := by
  unfold State.post; dsimp only; split <;> simp
@[simp] theorem post_draws : (s.post b).draws = s.draws := by
  unfold State.post; dsimp only; split <;> simp

end Post

theorem postIf_touches (c : Bool) (b : NoticeBody) (s : State) : Touches [.notices, .posted] s (s.postIf c b) := by
  unfold State.postIf
  split
  · exact post_touches b s
  · exact Touches.refl _ _

/-- The end of a reference cycle: the pins, the LIU's bit timing, a stamp copied, nothing spent any longer but the clock's idle span, and its notices taken. -/
theorem cyclesPassed_touches (n : Nat) (s : State) :
    Touches [.timing, .stamp, .clu, .spent, .posted] s (s.cyclesPassed n) := by
  have attempt := copyStamp_attempt s.btu.capture false
    { s.liu with timing := s.liu.timing.pass s.liu.settings.bitRate n }
  unfold State.cyclesPassed LiuBlock.pass State.settlePosts
  split
  · constructor <;> simp_all
  · constructor <;> simp_all [LiuBlock.copyStamp]

/-- Lines and sync state as told stand still at the end of a reference cycle. -/
theorem cyclesPassed_lines (n : Nat) (s : State) :
    (s.cyclesPassed n).clu.lines = s.clu.lines ∧ (s.cyclesPassed n).clu.told = s.clu.told := ⟨rfl, rfl⟩

theorem noteRecovery_touches (r : Bool) (s : State) : Touches [.fcu] s (s.noteRecovery r) := by
  constructor <;> simp [State.noteRecovery]

theorem spend_touches (cond : Bool) (c : Instr) (s : State) : Touches [.spent] s (s.spend cond c) := by
  unfold State.spend
  split
  · exact setSpent_touches _ _
  · exact Touches.refl _ _

theorem drawn_touches (s : State) : Touches [.draws] s s.drawn := setDraws_touches _ _

/-! ## Lines and schedule -/

theorem actOnLine_touches (line : Fin 8) (a : Action) (w : Option (BitVec 16)) (s : State) :
    Touches [.clu, .spent] s (s.actOnLine line a w).1 :=
  ((setClu_touches _ _).mono (by decide)).trans ((spend_touches _ _ _).mono (by decide))

theorem tellClu_touches (sync : SyncState) (s : State) : Touches [.clu] s (s.tellClu sync) := setClu_touches _ _

theorem handOver_touches (e : Entry) (s : State) : Touches [.clu, .spent] s (s.handOver e).1 := by
  unfold State.handOver
  split
  · exact Touches.refl _ _
  · exact Touches.refl _ _
  · exact actOnLine_touches _ _ _ _

theorem fire_touches (late : Bool) (e : Entry) (s : State) :
    Touches [.clu, .notices, .posted, .spent] s (s.fire late e).1 := by
  unfold State.fire
  have h := (handOver_touches e s).mono (cs := [.clu, .notices, .posted, .spent]) (by decide)
  dsimp only
  split
  · exact h.trans ((post_touches _ _).mono (by decide))
  · exact h

theorem postMissed_touches (e : Entry) (n : Nat) (s : State) : Touches [.notices, .posted] s (s.postMissed e n) :=
  postIf_touches _ _ _

theorem lateOccurrence_touches (e : Entry) (n : Nat) (s : State) :
    Touches [.clu, .notices, .posted, .spent] s (s.lateOccurrence e n).1 := by
  unfold State.lateOccurrence
  dsimp only
  split
  · exact (fire_touches true e s).trans ((postMissed_touches _ _ _).mono (by decide))
  · exact (postMissed_touches _ _ _).mono (by decide)

theorem setSchedule_touches (l : List Entry) (s : State) : Touches [.csu] s (s.setSchedule l) := setCsu_touches _ _

theorem insert_touches (e : Entry) (s : State) : Touches [.csu] s (s.insert e) := setSchedule_touches _ _

theorem removeKey_touches (k : CueKey) (s : State) : Touches [.csu] s (s.removeKey k) := setSchedule_touches _ _

theorem expireFirst_touches (s : State) : Touches [.csu, .clu, .notices, .posted, .spent] s s.expireFirst := by
  unfold State.expireFirst
  split
  · exact Touches.refl _ _
  · rename_i e rest _
    have h := (((setSchedule_touches rest s).mono (cs := [.csu, .clu, .notices, .posted, .spent]) (by decide)).trans
      ((fire_touches false e _).mono (by decide))).trans
      ((postMissed_touches e (occurrencesMissed e.rpt 0 true) _).mono (by decide))
    dsimp only
    split
    · exact h.trans ((insert_touches _ _).mono (by decide))
    · exact h

theorem place_touches (e : Entry) (s : State) : Touches [.csu, .notices, .posted] s (s.place e) := by
  unfold State.place
  split
  · exact (insert_touches _ _).mono (by decide)
  · exact (((setSchedule_touches _ s).mono (by decide)).trans ((post_touches _ _).mono (by decide))).trans
      ((insert_touches _ _).mono (by decide))
  · exact (post_touches _ _).mono (by decide)

theorem revise_touches (old e : Entry) (s : State) : Touches [.csu, .notices, .posted] s (s.revise old e) := by
  unfold State.revise
  split
  · exact Touches.refl _ _
  · exact (((removeKey_touches _ s).mono (by decide)).trans ((insert_touches _ _).mono (by decide))).trans
      ((postIf_touches _ _ _).mono (by decide))

theorem arrivePast_touches (e : Entry) (s : State) :
    Touches [.csu, .clu, .notices, .posted, .spent] s (s.arrivePast e) := by
  unfold State.arrivePast
  have h : Touches [.csu, .clu, .notices, .posted, .spent] s
      (match s.entryFor e.key with
      | some old => (s.removeKey e.key).postIf (old.notify || e.notify) (e.notice .revised 0)
      | none => s) := by
    split
    · exact ((removeKey_touches _ s).mono (by decide)).trans ((postIf_touches _ _ _).mono (by decide))
    · exact Touches.refl _ _
  dsimp only
  have k := h.trans ((lateOccurrence_touches e (distance s.micros e.due) _).mono (by decide))
  split
  · exact k.trans ((place_touches _ _).mono (by decide))
  · exact k

theorem decideArrival_touches (e : Entry) (s : State) :
    Touches [.csu, .clu, .notices, .posted, .spent] s (s.decideArrival e) := by
  unfold State.decideArrival
  split
  · exact (post_touches _ _).mono (by decide)
  · exact arrivePast_touches e s
  · split
    · exact (revise_touches _ _ _).mono (by decide)
    · exact (place_touches _ _).mono (by decide)

theorem decideLocal_touches (e : Entry) (s : State) : Touches [.csu, .notices, .posted] s (s.decideLocal e).1 := by
  unfold State.decideLocal
  split
  · exact Touches.refl _ _
  · exact Touches.refl _ _
  · split
    · exact revise_touches _ _ _
    · split
      · exact Touches.refl _ _
      · exact place_touches _ _

theorem removeNamed_touches (r : Recall) (s : State) : Touches [.csu, .notices, .posted] s (s.removeNamed r) := by
  unfold State.removeNamed
  exact ((setSchedule_touches _ s).mono (by decide)).trans
    (Touches.foldl (fun s e => (postIf_touches _ _ _).mono (by decide)) _ _)

theorem takeReached_touches (s : State) (e : Entry) :
    Touches [.csu, .clu, .notices, .posted, .spent] s (s.takeReached e) := by
  unfold State.takeReached
  have h := (lateOccurrence_touches e (distance s.micros e.due) s).mono
    (cs := [.csu, .clu, .notices, .posted, .spent]) (by decide)
  dsimp only
  split
  · exact h.trans ((insert_touches _ _).mono (by decide))
  · exact h

theorem setWord_touches (w : Option StepWord) (s : State) : Touches [.csu] s (s.setWord w) := setCsu_touches _ _

/-- The step handling of the CSU. -/
theorem takeWord_touches (s : State) : Touches [.csu, .clu, .notices, .posted, .spent] s s.takeWord := by
  unfold State.takeWord
  split
  · exact Touches.refl _ _
  · unfold State.forwardSchedule
    exact (((setWord_touches none s).mono (by decide)).trans ((setSchedule_touches _ _).mono (by decide))).trans
      (Touches.foldl takeReached_touches _ _)
  · unfold State.backwardSchedule
    exact (((setWord_touches none s).mono (by decide)).trans ((setSchedule_touches _ _).mono (by decide))).trans
      (Touches.foldl (fun s e => (post_touches _ _).mono (by decide)) _ _)

theorem meetWord_touches (s : State) : Touches [.csu, .clu, .notices, .posted, .spent, .draws] s s.meetWord := by
  unfold State.meetWord
  split
  · exact Touches.refl _ _
  · have drawn := (drawn_touches s).mono (cs := [.csu, .clu, .notices, .posted, .spent, .draws]) (by decide)
    split
    · exact drawn.trans ((takeWord_touches _).mono (by decide))
    · exact drawn

/-- An arrival changes the schedule, a line, and the notices. -/
theorem arrive_touches (e : Entry) (s : State) :
    Touches [.csu, .clu, .notices, .posted, .spent, .draws] s (s.arrive e) :=
  (meetWord_touches s).trans ((decideArrival_touches e _).mono (by decide))

theorem arriveLocal_touches (e : Entry) (s : State) :
    Touches [.csu, .clu, .notices, .posted, .spent, .draws] s (s.arriveLocal e).1 :=
  (meetWord_touches s).trans ((decideLocal_touches e _).mono (by decide))

theorem recallEntries_touches (r : Recall) (s : State) :
    Touches [.csu, .clu, .notices, .posted, .spent, .draws] s (s.recallEntries r) :=
  (meetWord_touches s).trans ((removeNamed_touches r _).mono (by decide))

/-! ## Fault confinement -/

theorem changeFault_touches (f : FaultState) (s : State) :
    Touches [.fcu, .holdOff, .notices, .posted] s (s.changeFault f) := by
  unfold State.changeFault
  split
  · exact Touches.refl _ _
  · have h := (setFcu_touches s { s.fcu with state := f }).mono (cs := [.fcu, .holdOff, .notices, .posted]) (by decide)
    exact (h.trans ((endHoldOff_touches (s.setFcu { s.fcu with state := f })).mono (by decide))).trans
      ((post_touches _ _).mono (by decide))

theorem scoreTo_touches (n : Nat) (s : State) :
    Touches [.fcu, .holdOff, .notices, .posted] s (s.scoreTo n) := by
  unfold State.scoreTo
  dsimp only
  split
  · refine Touches.trans ?_ (changeFault_touches _ _)
    unfold State.armRecovery
    exact ((setFcu_touches s _).mono (by decide)).trans ((setFcu_touches _ _).mono (by decide))
  · exact ((setFcu_touches s _).mono (by decide)).trans (changeFault_touches _ _)

theorem reportAcceptance_touches (s : State) :
    Touches [.fcu, .holdOff, .notices, .posted] s s.reportAcceptance :=
  scoreTo_touches _ _

theorem sampled_touches (bits : List Bool) (s : State) : Touches [.fcu] s (s.sampled bits) := by
  unfold State.sampled
  split
  · exact setFcu_touches _ _
  · exact Touches.refl _ _

theorem reportError_touches (r : Role) (sampled : List Bool) (s : State) :
    Touches [.fcu, .holdOff, .notices, .posted] s (s.reportError r sampled) :=
  ((sampled_touches _ s).mono (by decide)).trans (scoreTo_touches _ _)

theorem tryRecover_touches (b : Bool) (s : State) :
    Touches [.fcu, .holdOff, .notices, .posted] s (s.tryRecover b) := by
  unfold State.tryRecover
  split
  · exact ((setFcu_touches s _).mono (by decide)).trans (changeFault_touches _ _)
  · exact Touches.refl _ _

theorem recoverBy_touches (b : Bool) (s : State) :
    Touches [.fcu, .holdOff, .notices, .posted] s (s.recoverBy b) :=
  ((noteRecovery_touches _ s).mono (by decide)).trans (tryRecover_touches _ _)

theorem countSpans_touches (n : Nat) (b : Bool) (s : State) :
    Touches [.fcu, .holdOff, .notices, .posted] s (s.countSpans n b) := by
  unfold State.countSpans
  have counted := (setFcu_touches s { s.fcu with spans := min 64 (s.fcu.spans + n) }).mono
    (cs := [.fcu, .holdOff, .notices, .posted]) (by decide)
  split
  · exact counted.trans (tryRecover_touches _ _)
  · exact counted

theorem countSpan_touches (s : State) : Touches [.fcu, .holdOff, .notices, .posted] s s.countSpan := by
  unfold State.countSpan
  split
  · exact ((setFcu_touches s _).mono (by decide)).trans (countSpans_touches _ _ _)
  · exact Touches.refl _ _

theorem settleSpans_touches (s : State) : Touches [.fcu, .holdOff, .notices, .posted] s s.settleSpans := by
  unfold State.settleSpans
  split
  · exact ((setFcu_touches s _).mono (by decide)).trans (countSpans_touches _ _ _)
  · exact Touches.refl _ _

theorem countIdle_touches (bits : Nat) (s : State) : Touches [.fcu, .holdOff, .notices, .posted] s (s.countIdle bits) := by
  unfold State.countIdle
  split
  · exact ((setFcu_touches s _).mono (by decide)).trans (countSpans_touches _ _ _)
  · exact Touches.refl _ _

theorem idClash_touches (s : State) : Touches [.fcu, .holdOff, .notices, .posted] s s.idClash := by
  unfold State.idClash
  have h := (post_touches (.peer .idClash s.stc.config.id) s).mono (cs := [.fcu, .holdOff, .notices, .posted]) (by decide)
  dsimp only
  split
  · exact h
  · exact (h.trans ((setFcu_touches _ _).mono (by decide))).trans (changeFault_touches _ _)

theorem reexamineFcu_touches (old : Micros) (c : Int) (s : State) :
    Touches [.fcu, .holdOff, .notices, .posted] s (s.reexamineFcu old c) :=
  recoverBy_touches _ s

/-! ## The passing of time -/

/-- Reference cycles: the counter, the pins, the bit timing, and what a SILENCED station makes of an idle line. -/
theorem passCycles_touches (n : Nat) (s : State) :
    Touches [.timing, .stamp, .holdOff, .fcu, .btu, .clu, .notices, .spent, .posted] s (s.passCycles n) :=
  (((cyclesPassed_touches n s).mono (by decide)).trans ((setBtu_touches _ _).mono (by decide))).trans
    ((countIdle_touches _ _).mono (by decide))

theorem tick_touches (s : State) :
    Touches [.timing, .stamp, .holdOff, .fcu, .btu, .clu, .notices, .spent, .posted] s s.tick :=
  passCycles_touches 1 s

theorem runTo_touches (t : Micros) (s : State) :
    Touches [.timing, .stamp, .holdOff, .fcu, .btu, .clu, .notices, .spent, .posted] s (s.runTo t) := by
  unfold State.runTo
  split
  · exact Touches.refl _ _
  · refine Touches.trans ?_ ((setBtu_touches _ _).mono (by decide))
    have first := fun n => ((settleSpans_touches s).mono (by decide)).trans (passCycles_touches n s.settleSpans)
    split
    · exact (first _).trans (passCycles_touches _ _)
    · exact first _

/-- Lines and sync state as told stand still while time passes. -/
theorem passCycles_lines (n : Nat) (s : State) :
    (s.passCycles n).clu.lines = s.clu.lines ∧ (s.passCycles n).clu.told = s.clu.told := by
  have h := (countIdle_touches (s.liu.idleBits n) ((s.cyclesPassed n).setBtu (s.btu.advance n))).clu (by decide)
  unfold State.passCycles
  rw [h]
  exact ⟨rfl, rfl⟩

theorem runTo_lines (t : Micros) (s : State) :
    (s.runTo t).clu.lines = s.clu.lines ∧ (s.runTo t).clu.told = s.clu.told := by
  unfold State.runTo
  have settled := (settleSpans_touches s).clu (by decide)
  dsimp only
  split
  · exact ⟨rfl, rfl⟩
  · split <;> simp only [setBtu_clu, passCycles_lines, settled, and_self]

/-! ## Send queue -/

theorem leave_touches (r : Record) (h : Completion) (u l : Bool) (s : State) :
    Touches [.sq, .notices, .posted] s (s.leave r h u l) :=
  ((setSq_touches s _).mono (by decide)).trans ((post_touches _ _).mono (by decide))

theorem leaveAll_touches (p : Record → Bool) (h : Completion) (s : State) :
    Touches [.sq, .notices, .posted] s (s.leaveAll p h) :=
  Touches.foldl (fun s r => leave_touches r h false false s) _ _

theorem createRecord_touches (slot : Fin 16) (b : RecordBody) (t : Option Micros) (st : RecordState) (s : State) :
    Touches [.sq] s (s.createRecord slot b t st) := setSq_touches _ _

theorem updateRecord_touches (r : Record) (s : State) : Touches [.sq] s (s.updateRecord r) := setSq_touches _ _

theorem placeBeat_touches (b : Beat) (s : State) : Touches [.sq, .pendingBeat] s (s.placeBeat b) := by
  unfold State.placeBeat
  split
  · exact (setSq_touches _ _).mono (by decide)
  · rename_i held _
    split
    · have h := (setSq_touches s { s.sq with beat := some { held with superseded := true } }).mono
        (cs := [.sq, .pendingBeat]) (by decide)
      exact h.trans ((setPendingBeat_touches (s.setSq _) (some b)).mono (by decide))
    · exact (setSq_touches _ _).mono (by decide)

theorem beatLeft_touches (s : State) : Touches [.sq, .pendingBeat] s s.beatLeft := by
  unfold State.beatLeft
  have h := (setSq_touches s { s.sq with beat := none }).mono (cs := [.sq, .pendingBeat]) (by decide)
  split
  · exact h
  · have k := h.trans ((setPendingBeat_touches (s.setSq { s.sq with beat := none }) none).mono (by decide))
    dsimp only
    split
    · exact k
    · exact k.trans (placeBeat_touches _ _)

theorem announce_touches (m : MarkContent) (s : State) : Touches [.sq, .notices, .posted] s (s.announce m) := by
  unfold State.announce
  dsimp only
  split
  · exact (post_touches _ _).mono (by decide)
  · have h : ∀ slot, Touches [.sq, .notices, .posted] s
        (s.createRecord slot (.markBody m) (some (laterBy (microsOf m.capture) (s.stc.config.markMs * 1000)))
          .waiting) := fun slot => (createRecord_touches _ _ _ _ s).mono (by decide)
    split
    · split
      · exact (h _).trans (leave_touches _ _ _ _ _)
      · exact h _
    · exact h _

theorem removeStale_touches (s : State) : Touches [.sq, .pendingBeat, .notices, .posted] s s.removeStale := by
  unfold State.removeStale
  have h := (leaveAll_touches (fun r => decide (r.state = .waiting) && r.isStale s.micros) .stale s).mono
    (cs := [.sq, .pendingBeat, .notices, .posted]) (by decide)
  dsimp only
  split
  · split
    · exact h.trans ((beatLeft_touches _).mono (by decide))
    · exact h
  · exact h

theorem markInFlight_touches (p : Place) (s : State) : Touches [.sq] s (s.markInFlight p) := by
  unfold State.markInFlight
  split <;> exact setSq_touches _ _

theorem endedUnsent_touches (b : Bool) (r : Record) (s : State) :
    Touches [.sq, .notices, .posted] s (s.endedUnsent b r) := by
  unfold State.endedUnsent
  split
  · exact leave_touches _ _ _ _ _
  · split
    · exact leave_touches _ _ _ _ _
    · split
      · exact leave_touches _ _ _ _ _
      · exact (updateRecord_touches _ _).mono (by decide)

theorem attemptEnded_touches (h : AttemptEnd) (p : Place) (s : State) :
    Touches [.sq, .pendingBeat, .notices, .posted] s (s.attemptEnded h p) := by
  unfold State.attemptEnded
  split
  · split
    · unfold State.recordEnded
      split
      · exact (leave_touches _ _ _ _ _).mono (by decide)
      · exact (endedUnsent_touches _ _ _).mono (by decide)
      · exact (endedUnsent_touches _ _ _).mono (by decide)
    · exact Touches.refl _ _
  · split
    · split
      · have k : ∀ u b, Touches [.sq, .pendingBeat, .notices, .posted] s (s.beatEndedUnsent u b) := by
          intro u b
          unfold State.beatEndedUnsent
          split
          · exact (beatLeft_touches _).mono (by decide)
          · exact (setSq_touches _ _).mono (by decide)
        unfold State.beatEnded
        split
        · exact (beatLeft_touches _).mono (by decide)
        · exact k _ _
        · exact k _ _
      · exact Touches.refl _ _
    · exact Touches.refl _ _

theorem expireStale_touches (p : Place) (s : State) :
    Touches [.sq, .pendingBeat, .notices, .posted] s (s.expireStale p) := by
  unfold State.expireStale
  split
  · exact (leaveAll_touches _ _ _).mono (by decide)
  · split
    · split
      · exact Touches.refl _ _
      · exact (beatLeft_touches _).mono (by decide)
    · exact Touches.refl _ _

theorem reexamineSq_touches (old : Micros) (c : Int) (s : State) :
    Touches [.sq, .pendingBeat, .notices, .posted] s (s.reexamineSq old c) := by
  unfold State.reexamineSq
  dsimp only
  split
  · split
    · exact ((leaveAll_touches _ _ s).mono (by decide)).trans ((beatLeft_touches _).mono (by decide))
    · exact (leaveAll_touches _ _ s).mono (by decide)
  · exact (leaveAll_touches _ _ s).mono (by decide)

theorem holdBehind_touches (m : Record → Bool) (s : State) : Touches [.sq] s (s.holdBehind m).1 := by
  unfold State.holdBehind
  split
  · exact updateRecord_touches _ _
  · exact Touches.refl _ _

/-! ## Commands of the port -/

theorem postShared_touches (a : CueArgs) (s : State) : Touches [.sq] s (s.postShared a).1 := by
  unfold State.postShared
  split
  · exact Touches.refl _ _
  · split
    · exact Touches.refl _ _
    · split
      · exact Touches.refl _ _
      · split
        · exact Touches.refl _ _
        · split
          · exact Touches.refl _ _
          · exact createRecord_touches _ _ _ _ _

theorem recallShared_touches (a : RecallArgs) (s : State) : Touches [.sq, .notices, .posted] s (s.recallShared a).1 := by
  unfold State.recallShared
  split
  · exact Touches.refl _ _
  · split
    · exact Touches.refl _ _
    · rename_i what _
      unfold State.takeRecall
      dsimp only
      split
      · exact Touches.refl _ _
      · exact ((leaveAll_touches _ _ s).trans ((holdBehind_touches _ _).mono (by decide))).trans
          ((createRecord_touches _ _ _ _ _).mono (by decide))

theorem postLocal_touches (a : CueArgs) (s : State) :
    Touches [.csu, .clu, .notices, .posted, .spent, .draws] s (s.postLocal a).1 := by
  unfold State.postLocal
  split
  · exact Touches.refl _ _
  · split
    · exact Touches.refl _ _
    · exact arriveLocal_touches _ _

theorem recallLocal_touches (a : RecallArgs) (s : State) :
    Touches [.csu, .clu, .notices, .posted, .spent, .draws] s (s.recallLocal a).1 := by
  unfold State.recallLocal
  split
  · exact Touches.refl _ _
  · split
    · exact Touches.refl _ _
    · exact recallEntries_touches _ _

theorem withdraw_touches (t : Tag) (s : State) : Touches [.sq, .notices, .posted] s (s.withdraw t).1 := by
  unfold State.withdraw
  split
  · exact Touches.refl _ _
  · split
    · exact leave_touches _ _ _ _ _
    · exact leave_touches _ _ _ _ _
    · exact (updateRecord_touches _ _).mono (by decide)

theorem takeNotice_touches (s : State) : Touches [.notices, .posted] s s.takeNotice.1 := by
  unfold State.takeNotice
  split
  · exact Touches.refl _ _
  · rename_i rest _
    have h : Touches [.notices, .posted] s (s.setLpu { s.lpu with notices := rest }) := by constructor <;> simp
    dsimp only
    unfold State.reportLost
    split
    · exact h
    · refine ((h.trans ?_).trans (post_touches _ _)).trans ((settlePosts_touches _).mono (by decide))
      constructor <;> simp [State.settlePosts]

theorem join_touches (s : State) : Touches [.stc, .window, .liu, .timing] s s.join.1 := by
  unfold State.join
  repeat' split
  all_goals first | exact Touches.refl _ _ | (constructor <;> simp [State.startListening])

/-! ## Agreement -/

theorem heard_touches (id : StationId) (s : State) : Touches [.agu, .notices, .posted] s (s.heard id) := by
  have peer : ∀ i p (s : State), Touches [.agu, .notices, .posted] s (s.setPeer i p) := by
    intro i p s
    constructor <;> simp [State.setPeer]
  have created : ∀ i j (s : State), Touches [.agu, .notices, .posted] s (s.createPeer i j) := fun i j s =>
    (peer _ _ s).trans ((post_touches _ _).mono (by decide))
  unfold State.heard
  split
  · split
    · exact (peer _ _ s).trans ((postIf_touches _ _ _).mono (by decide))
    · exact Touches.refl _ _
  · split
    · exact created _ _ _
    · unfold State.heardFull
      split
      · exact ((post_touches _ s).mono (by decide)).trans (created _ _ _)
      · split
        · exact Touches.refl _ _
        · have posted := (post_touches (.peer .peersFull id) s).mono (cs := [.agu, .notices, .posted]) (by decide)
          refine posted.trans ?_
          constructor <;> simp

theorem beatSample_touches (id : StationId) (st c : BusTime) (i : Nat) (y : SyncState) (q : Byte) (s : State) :
    Touches [.agu] s (s.beatSample id st c i y q) := by
  unfold State.beatSample
  split
  · constructor <;> simp [State.setPeer]
  · exact Touches.refl _ _

theorem agePeers_touches (s : State) : Touches [.agu, .notices, .posted] s s.agePeers := by
  refine Touches.foldl ?_ _ _
  intro s i
  have peer : ∀ i p (s : State), Touches [.agu, .notices, .posted] s (s.setPeer i p) := by
    intro i p s
    constructor <;> simp [State.setPeer]
  unfold State.agePeer
  split
  · exact Touches.refl _ _
  · dsimp only
    split
    · exact (((peer _ _ s).trans ((postIf_touches _ _ _).mono (by decide))).trans (peer _ _ _)).trans
        ((post_touches _ _).mono (by decide))
    · exact (peer _ _ s).trans ((postIf_touches _ _ _).mono (by decide))

theorem moveLocal_touches (a c : Int) (s : State) : Touches [.window, .btu, .clu, .mku] s (s.moveLocal a c) := by
  unfold State.moveLocal
  constructor <;> simp

/-- What the CSU, the SQ and the FCU can change when they take the word of a step. -/
theorem reexamine_touches (order : Nat) (old : Micros) (change : Int) (s : State) :
    Touches [.holdOff, .fcu, .pendingBeat, .sq, .csu, .clu, .notices, .posted, .spent] s (s.reexamine order old change) := by
  have schedule := fun s => (takeWord_touches s).mono
    (cs := [.holdOff, .fcu, .pendingBeat, .sq, .csu, .clu, .notices, .posted, .spent]) (by decide)
  have queue := fun s => (reexamineSq_touches old change s).mono
    (cs := [.holdOff, .fcu, .pendingBeat, .sq, .csu, .clu, .notices, .posted, .spent]) (by decide)
  have fault := fun s => (reexamineFcu_touches old change s).mono
    (cs := [.holdOff, .fcu, .pendingBeat, .sq, .csu, .clu, .notices, .posted, .spent]) (by decide)
  unfold State.reexamine
  split
  · exact ((schedule _).trans (queue _)).trans (fault _)
  · exact ((schedule _).trans (fault _)).trans (queue _)
  · exact ((queue _).trans (schedule _)).trans (fault _)
  · exact ((queue _).trans (fault _)).trans (schedule _)
  · exact ((fault _).trans (schedule _)).trans (queue _)
  · exact ((fault _).trans (queue _)).trans (schedule _)
  · exact (queue _).trans (fault _)
  · exact (fault _).trans (queue _)

/-- A step of bus time, with what its owners make of it. -/
theorem stepTime_touches (a : Int) (s : State) :
    Touches
      [.window, .liu, .timing, .stamp, .holdOff, .fcu, .btu, .pendingBeat, .sq, .csu, .clu, .mku, .notices, .posted, .spent, .draws]
      s (s.stepTime a) := by
  unfold State.stepTime
  split
  · exact Touches.refl _ _
  · dsimp only
    refine Touches.trans ?_ ((reexamine_touches _ _ _ _).mono (by decide))
    exact ((((setLiu_touches s _).mono (by decide)).trans ((moveLocal_touches _ _ _).mono (by decide))).trans
      ((setWord_touches _ _).mono (by decide))).trans ((drawn_touches _).mono (by decide))

/-! ## Marks and intake -/

theorem react_touches (m : SeenMark) (s : State) :
    Touches [.csu, .clu, .notices, .posted, .spent, .draws] s (s.react m) := by
  refine Touches.foldl ?_ _ _
  intro s r
  unfold State.tryReaction
  split
  · exact arrive_touches _ _
  · exact Touches.refl _ _

theorem setMarkInput_touches (i : Fin 4) (x : MarkInput) (s : State) : Touches [.mku] s (s.setMarkInput i x) :=
  setMku_touches _ _

/-- The sight of an edge draws at most a free value, and fixes what the edges of this cycle read. -/
theorem edgeSeen_touches (s : State) : Touches [.btu, .draws] s s.edgeSeen.2 := by
  unfold State.edgeSeen
  split
  · exact Touches.refl _ _
  · exact ((drawn_touches s).mono (by decide)).trans ((setBtu_touches _ _).mono (by decide))

theorem takeSeenEdge_touches (i : Fin 4) (e : Edge) (capture : BusTime) (s : State) :
    Touches [.sq, .csu, .clu, .mku, .notices, .posted, .spent, .draws] s (s.takeSeenEdge i e capture) := by
  unfold State.takeSeenEdge
  dsimp only
  have h : ∀ k x c b m,
      Touches [.sq, .csu, .clu, .mku, .notices, .posted, .spent, .draws] s
        ((((s.spend k (.spacingEnd i)).setMarkInput i x).postIf c b).react m) := fun k x c b m =>
    ((((spend_touches _ _ s).mono (by decide)).trans ((setMarkInput_touches _ _ _).mono (by decide))).trans
      ((postIf_touches _ _ _).mono (by decide))).trans ((react_touches _ _).mono (by decide))
  split
  · exact (h _ _ _ _ _).trans ((announce_touches _ _).mono (by decide))
  · exact h _ _ _ _ _

/-- A taken edge. -/
theorem takeEdge_touches (i : Fin 4) (e : Edge) (s : State) :
    Touches [.btu, .sq, .csu, .clu, .mku, .notices, .posted, .spent, .draws] s (s.takeEdge i e) :=
  ((edgeSeen_touches s).mono (by decide)).trans ((takeSeenEdge_touches _ _ _ _).mono (by decide))

theorem malformed_touches (id : StationId) (s : State) : Touches [.iku, .notices, .posted] s (s.malformed id) :=
  ((setIku_touches s _).mono (by decide)).trans ((postIf_touches _ _ _).mono (by decide))

theorem takeCue_touches (id : StationId) (c : CueContent) (s : State) :
    Touches [.iku, .csu, .clu, .notices, .posted, .spent, .draws] s (s.takeCue id c) := by
  unfold State.takeCue
  split
  · exact (arrive_touches _ _).mono (by decide)
  · exact (setIku_touches _ _).mono (by decide)

theorem dispatch_touches (a : Accepted) (c : Content) (s : State) :
    Touches [.agu, .iku, .csu, .clu, .notices, .posted, .spent, .draws] s (s.dispatch a c) := by
  unfold State.dispatch
  split
  · split
    · exact Touches.refl _ _
    · split
      · exact (beatSample_touches _ _ _ _ _ _ _).mono (by decide)
      · exact Touches.refl _ _
  · exact (recallEntries_touches _ _).mono (by decide)
  · split
    · exact Touches.refl _ _
    · exact (react_touches _ _).mono (by decide)
  · exact (takeCue_touches _ _ _).mono (by decide)

/-- An accepted frame at the IKU. -/
theorem intake_touches (a : Accepted) (s : State) :
    Touches [.holdOff, .fcu, .agu, .iku, .csu, .clu, .notices, .posted, .spent, .draws] s (s.intake a) := by
  have gate : ∀ s : State, Touches [.holdOff, .fcu, .agu, .iku, .csu, .clu, .notices, .posted, .spent, .draws] s (s.gate a) := by
    intro s
    have v : Touches [.holdOff, .fcu, .agu, .iku, .csu, .clu, .notices, .posted, .spent, .draws] s (s.validate a) := by
      unfold State.validate
      split
      · exact (malformed_touches _ _).mono (by decide)
      · exact (dispatch_touches _ _ _).mono (by decide)
    unfold State.gate
    split
    · exact v
    · split
      · exact v
      · exact Touches.refl _ _
    · exact Touches.refl _ _
  have clash : Touches [.holdOff, .fcu, .agu, .iku, .csu, .clu, .notices, .posted, .spent, .draws] s
      (if s.isClash a then s.idClash else s) := by
    split
    · exact (idClash_touches _).mono (by decide)
    · exact Touches.refl _ _
  have heard : ∀ s : State, Touches [.holdOff, .fcu, .agu, .iku, .csu, .clu, .notices, .posted, .spent, .draws] s
      (if s.isHeard a then s.heard a.frame.station else s) := by
    intro s
    split
    · exact (heard_touches _ _).mono (by decide)
    · exact Touches.refl _ _
  unfold State.intake
  exact (clash.trans (heard _)).trans (gate _)

end Sys2Proof.Machine
end

