-- ==== Sys2Proof/Laws/Ops.lean ====
section
/-! SUPPORT. What the shared operations answer: the port's taking of a command, notices, the word of a step, the expiry of a stored time, the counter, steps of bus time, and records found by their tag or place. -/

namespace Sys2Proof.Machine

/-! ## The port -/

/-- A command taken by an open port: its owner's effect, and the reply latched. -/
theorem takeCommand_replied {s : State} {handle : State → State × Reply} (isOpen : s.PortOpen)
    (transaction : (handle s).1.lpu.transaction = s.lpu.transaction)
    (truncated : (handle s).1.lpu.truncated = s.lpu.truncated) :
    s.takeCommand handle = (handle s).1.replied (handle s).2.status.code (handle s).2.body := by
  rcases isOpen with h | h <;>
    simp [State.takeCommand, h, State.answered, State.replied, transaction, truncated, Reply.bytes, flagAt,
      State.setTransaction, State.setLpu]

/-- The same where the owner touches no part of the port but the notice queue. -/
theorem takeCommand_of_touches {bs : List Part} {s : State} {handle : State → State × Reply}
    (isOpen : s.PortOpen) (frame : Touches bs s (handle s).1) (port : Part.port ∉ bs) :
    s.takeCommand handle = (handle s).1.replied (handle s).2.status.code (handle s).2.body :=
  takeCommand_replied isOpen (frame.port port).1 (frame.port port).2.2

/-- A command that its owner answers without an effect. -/
theorem takeCommand_unchanged {s : State} {handle : State → State × Reply} {reply : Reply} (isOpen : s.PortOpen)
    (answer : handle s = (s, reply)) : s.takeCommand handle = s.replied reply.status.code reply.body := by
  have h := takeCommand_replied (handle := handle) isOpen (by rw [answer]) (by rw [answer])
  rw [h, answer]

/-- A command in a SEL-low period that has no command left to take. -/
theorem takeCommand_closed {s : State} {handle : State → State × Reply}
    (closed : s.lpu.transaction = .replying ∨ s.lpu.transaction = .ignoring) : s.takeCommand handle = s := by
  rcases closed with h | h <;> simp [State.takeCommand, h]

/-- What taking a command can change: what its owner changes, and the port. -/
theorem takeCommand_touches {bs : List Part} {handle : State → State × Reply} (s : State)
    (frame : Touches bs s (handle s).1) : Touches (.port :: bs) s (s.takeCommand handle) := by
  have owner := frame.mono (cs := .port :: bs) (by simp +contextual)
  have latch : ∀ (t : State) (reply : List Byte) (truncated : Bool),
      Touches (.port :: bs) t (t.setLpu { t.lpu with reply := reply, truncated := truncated }) := by
    intro t reply truncated
    constructor <;> simp
  have progress : ∀ (t : State) (p : Transaction), Touches (.port :: bs) t (t.setTransaction p) := by
    intro t p
    constructor <;> simp [State.setTransaction]
  unfold State.takeCommand
  split
  · exact owner.trans (latch _ _ _)
  · exact (owner.trans (latch _ _ _)).trans (progress _ _)
  · exact Touches.refl _ _
  · exact Touches.refl _ _

/-! ## Notices -/

@[simp] theorem settlePosts_lpu (s : State) : s.settlePosts.lpu = s.lpu := rfl
@[simp] theorem settlePosts_btu (s : State) : s.settlePosts.btu = s.btu := rfl

/-- Where no notice has joined the queue in this cycle there is no place but the back. -/
theorem freePlaces_of_first {s : State} (p : Poster) (first : s.posted.recent = 0) : s.freePlaces p = 0 := by
  simp [State.freePlaces, first]

/-- A free place lies behind every notice of the poster's own, and among those that wait. -/
theorem freePlaces_spec (p : Poster) (s : State) {n : Nat} (free : n ≤ s.freePlaces p) :
    n ≤ s.lpu.notices.length
      ∧ ∀ x ∈ s.lpu.notices.drop (s.lpu.notices.length - n), x.body.poster ≠ p := by
  unfold State.freePlaces at free
  split at free
  · obtain rfl : n = 0 := Nat.le_zero.mp free
    simp
  · have short := (List.takeWhile_prefix (l := s.lpu.notices.reverse.take s.posted.recent)
      fun n => decide (n.body.poster ≠ p)).trans (List.take_prefix _ _)
    have within : n ≤ s.lpu.notices.length := by simpa using free.trans short.length_le
    refine ⟨within, fun x m => ?_⟩
    obtain ⟨rest, split⟩ := short
    have front : x ∈ s.lpu.notices.reverse.take n := by simpa [List.take_reverse] using m
    rw [← split, List.take_append_of_le_length free] at front
    simpa using List.mem_takeWhile_imp (List.mem_of_mem_take front)

/-- All that posting a notice can do: it joins the queue at one of its free places. -/
theorem post_cases (body : NoticeBody) (s : State) :
    ∃ n ≤ s.freePlaces body.poster, ∃ drawn : Nat,
      s.post body = (s.setPosted { s.posted with drawn := drawn }).joinQueue n body := by
  unfold State.post
  dsimp only
  split
  · exact ⟨0, Nat.zero_le _, s.posted.drawn, rfl⟩
  · exact ⟨_, Nat.lt_succ_iff.mp (Nat.mod_lt _ (Nat.succ_pos _)), _, rfl⟩

/-- The first notice of a cycle joins the back of the queue. -/
theorem post_of_first {s : State} (body : NoticeBody) (first : s.posted.recent = 0) :
    s.post body = s.joinQueue 0 body := by
  simp [State.post, freePlaces_of_first _ first]

@[simp] theorem insertBehind_zero {α : Type} (x : α) (l : List α) : insertBehind 0 x l = l ++ [x] := by
  simp [insertBehind]

theorem length_insertBehind {α : Type} (n : Nat) (x : α) (l : List α) :
    (insertBehind n x l).length = l.length + 1 := by
  simp [insertBehind]
  omega

/-- Where there is room the queue has the notice in front of its last n. -/
theorem joinQueue_of_room {s : State} (n : Nat) (body : NoticeBody) (room : s.lpu.notices.length < 32) :
    (s.joinQueue n body).lpu = { s.lpu with notices := insertBehind n { posted := s.micros, body := body } s.lpu.notices } := by
  simp [State.joinQueue, room]

/-- Where there is none a notice is lost. -/
theorem joinQueue_of_full {s : State} (n : Nat) (body : NoticeBody) (full : 32 ≤ s.lpu.notices.length) :
    (s.joinQueue n body).lpu =
      { s.lpu with
        notices := (insertBehind n { posted := s.micros, body := body } s.lpu.notices).dropLast
        lost := min 255 (s.lpu.lost + 1) } := by
  simp [State.joinQueue, Nat.not_lt.mpr full]

/-- Where there is room a posted notice stands in the queue, behind all others of its block, and the others keep their order. -/
theorem post_of_room {s : State} (body : NoticeBody) (room : s.lpu.notices.length < 32) :
    ∃ front back, s.lpu.notices = front ++ back ∧ (∀ x ∈ back, x.body.poster ≠ body.poster)
      ∧ (s.post body).lpu = { s.lpu with notices := front ++ { posted := s.micros, body := body } :: back } := by
  obtain ⟨n, free, drawn, eq⟩ := post_cases body s
  refine ⟨_, _, (List.take_append_drop (s.lpu.notices.length - n) _).symm, (freePlaces_spec _ s free).2, ?_⟩
  rw [eq]
  exact joinQueue_of_room n body room

/-- Where 32 wait a posted notice adds one to the lost count, and as many wait as before. -/
theorem post_of_full {s : State} (body : NoticeBody) (full : 32 ≤ s.lpu.notices.length) :
    (s.post body).lpu.notices.length = s.lpu.notices.length
      ∧ (s.post body).lpu.lost = min 255 (s.lpu.lost + 1) := by
  obtain ⟨n, -, drawn, eq⟩ := post_cases body s
  have at' := joinQueue_of_full (s := s.setPosted { s.posted with drawn := drawn }) n body full
  rw [eq, at']
  simp [length_insertBehind]

/-- The notices of some kinds of one block, where there is room: posting one of them adds it behind the others, and posting another leaves them. -/
theorem filter_post {s : State} {kinds : NoticeBody → Bool} {p : Poster} (own : ∀ b, kinds b = true → b.poster = p)
    (body : NoticeBody) (room : s.lpu.notices.length < 32) :
    ((s.post body).lpu.notices.filter fun n => kinds n.body) =
      (s.lpu.notices.filter fun n => kinds n.body)
        ++ if kinds body then [{ posted := s.micros, body := body }] else [] := by
  obtain ⟨front, back, split, others, eq⟩ := post_of_room body room
  rw [eq, split]
  by_cases k : kinds body = true
  · have gone : (back.filter fun n => kinds n.body) = [] := by
      rw [List.filter_eq_nil_iff]
      intro x m h
      exact others x m ((own _ h).trans (own _ k).symm)
    simp [List.filter_append, k, gone]
  · simp [List.filter_append, k]

@[simp] theorem postIf_true (body : NoticeBody) (s : State) : s.postIf true body = s.post body := rfl
@[simp] theorem postIf_false (body : NoticeBody) (s : State) : s.postIf false body = s := rfl

/-- Bus time stands still while a notice is posted. -/
@[simp] theorem post_micros (body : NoticeBody) (s : State) : (s.post body).micros = s.micros := by
  simp [State.micros]

/-- Posting keeps the notice queue within its bounds. -/
theorem post_noticesOk {s : State} (body : NoticeBody) (ok : s.NoticesOk) : (s.post body).NoticesOk := by
  obtain ⟨most, lost, full⟩ := ok
  by_cases room : s.lpu.notices.length < 32
  · obtain ⟨front, back, split, -, eq⟩ := post_of_room body room
    rw [split, List.length_append] at room
    refine ⟨?_, ?_, ?_⟩ <;> rw [eq]
    · simp
      omega
    · exact lost
    · intro some
      have := full some
      rw [split, List.length_append] at this
      omega
  · obtain ⟨waiting, counted⟩ := post_of_full body (Nat.not_lt.mp room)
    refine ⟨by omega, by omega, fun _ => by omega⟩

/-! ## The word of a step -/

/-- Without a word of a step there is none to take. -/
theorem takeWord_of_none {s : State} (none : s.csu.word = none) : s.takeWord = s := by
  simp [State.takeWord, none]

theorem meetWord_of_none {s : State} (none : s.csu.word = none) : s.meetWord = s := by
  simp [State.meetWord, none]

/-- An arrival that meets no word of a step is decided at once. -/
theorem arrive_of_none {s : State} (none : s.csu.word = none) (e : Entry) : s.arrive e = s.decideArrival e := by
  rw [State.arrive, meetWord_of_none none]

theorem arriveLocal_of_none {s : State} (none : s.csu.word = none) (e : Entry) :
    s.arriveLocal e = s.decideLocal e := by
  rw [State.arriveLocal, meetWord_of_none none]

theorem recallEntries_of_none {s : State} (none : s.csu.word = none) (r : Recall) :
    s.recallEntries r = s.removeNamed r := by
  rw [State.recallEntries, meetWord_of_none none]

/-- Outside step handling the CSU measures due times modulo 2^32. -/
theorem aheadNow_of_none {s : State} (none : s.csu.word = none) :
    s.aheadNow = fun due => (distance due s.micros : Int) := by
  funext due
  simp [State.aheadNow, CsuState.ahead, none]

/-! ## Idle spans and recovery -/

@[simp] theorem runAfter_nil (run : Nat) : runAfter run [] = run := rfl
@[simp] theorem runAfter_recessive (run : Nat) (bits : List Bool) :
    runAfter run (true :: bits) = runAfter ((run + 1) % 12) bits := rfl
@[simp] theorem runAfter_dominant (run : Nat) (bits : List Bool) : runAfter run (false :: bits) = runAfter 0 bits := rfl

/-- A run counts on over bits that follow others. -/
theorem runAfter_append (run : Nat) (before bits : List Bool) :
    runAfter run (before ++ bits) = runAfter (runAfter run before) bits := by
  simp [runAfter]

/-- A run stays below 12. -/
theorem runAfter_lt {run : Nat} (below : run < 12) (bits : List Bool) : runAfter run bits < 12 := by
  induction bits generalizing run with
  | nil => exact below
  | cons b rest ih =>
    cases b
    · exact ih (run := 0) (by decide)
    · exact ih (run := (run + 1) % 12) (Nat.mod_lt _ (by decide))

/-- Recessive bits count on modulo 12. -/
theorem runAfter_replicate (run n : Nat) (below : run < 12) : runAfter run (List.replicate n true) = (run + n) % 12 := by
  induction n generalizing run with
  | zero => simp [Nat.mod_eq_of_lt below]
  | succ n ih =>
    rw [List.replicate_succ, runAfter_recessive, ih _ (Nat.mod_lt _ (by decide))]
    omega

/-- Outside SILENCED the bits sampled are of no concern to the FCU. -/
theorem sampled_of_not_silenced {s : State} (other : s.fcu.state ≠ .silenced) (bits : List Bool) :
    s.sampled bits = s := if_neg other

theorem sampled_of_silenced {s : State} (silenced : s.fcu.state = .silenced) (bits : List Bool) :
    s.sampled bits =
      s.setFcu { s.fcu with run := runAfter s.fcu.run bits, owed := max 0 (s.fcu.owed + spansIn s.fcu.run bits) } :=
  if_pos silenced

/-- Recessive bits complete one span for each time the run comes to 12. -/
theorem spansIn_replicate (run n : Nat) (below : run < 12) : spansIn run (List.replicate n true) = (run + n) / 12 := by
  induction n generalizing run with
  | zero => simp [spansIn, Nat.div_eq_of_lt below]
  | succ n ih =>
    rw [List.replicate_succ, spansIn, ih _ (Nat.mod_lt _ (by decide))]
    split <;> omega

/-- R27 applied: the return to ACTIVE where both conditions hold, and nothing else. -/
theorem tryRecover_cases (timeReached : Bool) (s : State) :
    s.tryRecover timeReached = s
      ∨ s.fcu.state = .silenced ∧ s.fcu.spans = 64 ∧ timeReached = true
        ∧ (s.tryRecover timeReached).fcu = FcuState.restarted := by
  unfold State.tryRecover
  split
  · rename_i both
    exact .inr ⟨both.1, both.2.1, both.2.2, by simp [State.changeFault, both.1, FcuState.restarted]⟩
  · exact .inl rfl

/-- An event that may reach the recovery time: the return to ACTIVE, or else the reached time noted. -/
theorem recoverBy_cases (timeReached : Bool) (s : State) :
    s.recoverBy timeReached = s.noteRecovery (s.fcu.timeReached || timeReached)
      ∨ s.fcu.state = .silenced ∧ s.fcu.spans = 64 ∧ (s.fcu.timeReached || timeReached) = true
        ∧ (s.recoverBy timeReached).fcu = FcuState.restarted :=
  tryRecover_cases _ (s.noteRecovery (s.fcu.timeReached || timeReached))

/-- Idle spans counted: up to 64, or the return to ACTIVE with the 64th. -/
theorem countSpans_cases (n : Nat) (timeReached : Bool) (s : State) :
    s.countSpans n timeReached = s.setFcu { s.fcu with spans := min 64 (s.fcu.spans + n) }
      ∨ s.fcu.state = .silenced ∧ s.fcu.spans < 64 ∧ 64 ≤ s.fcu.spans + n ∧ timeReached = true
        ∧ (s.countSpans n timeReached).fcu = FcuState.restarted := by
  unfold State.countSpans
  dsimp only
  split
  · rename_i room
    refine (tryRecover_cases _ _).imp id fun ⟨silenced, full, reached, back⟩ => ⟨silenced, room, ?_, reached, back⟩
    simp only [setFcu_fcu] at full
    omega
  · exact .inl rfl

/-- A span whose bits a row reports leaves the run to the row. -/
theorem spanTaken_of_reports (f : FcuState) : f.spanTaken true = { f with owed := f.owed - 1 } := by
  simp [FcuState.spanTaken]

/-- A span that has been reported leaves the run. -/
theorem spanTaken_of_owed {f : FcuState} (owed : 0 < f.owed) (reports : Bool) :
    f.spanTaken reports = { f with owed := f.owed - 1 } := by
  simp [FcuState.spanTaken, owed]

/-- Elsewhere the run starts again. -/
theorem spanTaken_of_idle {f : FcuState} (none : f.owed ≤ 0) : f.spanTaken false = { f with run := 0 } := by
  simp [FcuState.spanTaken, Int.not_lt.mpr none]

/-- No span waits: nothing to settle. -/
theorem settleSpans_of_none {s : State} (none : s.owesSpans = false) : s.settleSpans = s := by
  simp [State.settleSpans, none]

/-- Outside SILENCED, and where no bit passes, an idle line is of no concern to the FCU. -/
theorem countIdle_of_not_silenced {s : State} (other : s.fcu.state ≠ .silenced) (bits : Nat) : s.countIdle bits = s :=
  if_neg fun h => other h.1

@[simp] theorem countIdle_zero (s : State) : s.countIdle 0 = s := if_neg fun h => absurd h.2 (by decide)

theorem countIdle_of_silenced {s : State} (silenced : s.fcu.state = .silenced) {bits : Nat} (some : 0 < bits) :
    s.countIdle bits =
      (s.setFcu { s.fcu with run := (s.fcu.run + bits) % 12 }).countSpans ((s.fcu.run + bits) / 12) s.fcu.timeReached :=
  if_pos ⟨silenced, some⟩

/-- The idle line's bits are those that a row of as many recessive ones would report. -/
theorem countIdle_run {s : State} (silenced : s.fcu.state = .silenced) (below : s.fcu.run < 12) (bits : Nat) :
    (s.fcu.run + bits) % 12 = (s.sampled (List.replicate bits true)).fcu.run := by
  rw [sampled_of_silenced silenced, setFcu_fcu, runAfter_replicate _ _ below]

/-! ## Stored times -/

section CyclesPassed

variable (n : Nat) (s : State)

@[simp] theorem cyclesPassed_liu : (s.cyclesPassed n).liu = s.liu.pass n s.btu.capture := rfl
@[simp] theorem cyclesPassed_fcu : (s.cyclesPassed n).fcu = s.fcu := rfl
@[simp] theorem cyclesPassed_spent : (s.cyclesPassed n).spent = if s.spanEnds n then [.idleSpan] else [] := rfl

end CyclesPassed

/-- Bus time run on: the counter of the BTU. -/
@[simp] theorem runTo_btu (t : Micros) (s : State) : (s.runTo t).btu = s.btu.runTo t := by
  unfold State.runTo
  split
  · rename_i here
    simp only [State.micros] at here
    simp [BtuState.runTo, here]
  · rfl

/-- The expiry of a stored time that bus time has not passed and before which no armed time expires. -/
theorem expire_taken {s : State} {t : Micros} {stored : State → Option Micros} {event : State → State}
    (none : s.csu.word = none) (held : stored s = some t) (ahead : (t - s.micros).toNat < 2 ^ 31)
    (first : ∀ x ∈ s.timers, (t - s.micros).toNat ≤ (x.2 - s.micros).toNat) :
    s.expire stored event = event (s.runTo t) := by
  have passed : s.notPassed t = true := decide_eq_true ahead
  have comes : s.comesFirst t = true := by
    rw [State.comesFirst, List.all_eq_true]
    intro x m
    exact decide_eq_true (first x m)
  simp [State.expire, takeWord_of_none none, held, passed, comes]

/-- Where no time is stored nothing expires. -/
theorem expire_none {s : State} {stored : State → Option Micros} (event : State → State)
    (absent : stored s.takeWord = none) : s.expire stored event = s := by
  simp [State.expire, absent]

/-- The expiry of a stored time is its owner's event in a later state, or nothing. -/
theorem expire_cases (s : State) (stored : State → Option Micros) (event : State → State) :
    s.expire stored event = s
      ∨ ∃ t, stored s.takeWord = some t ∧ (t - s.takeWord.micros).toNat < 2 ^ 31
        ∧ (∀ x ∈ s.takeWord.timers, (t - s.takeWord.micros).toNat ≤ (x.2 - s.takeWord.micros).toNat)
        ∧ s.expire stored event = event (s.takeWord.runTo t) := by
  unfold State.expire
  dsimp only
  split
  · rename_i t held
    split
    · rename_i taken
      simp only [Bool.and_eq_true, State.notPassed, State.comesFirst, List.all_eq_true, decide_eq_true_eq] at taken
      exact .inr ⟨t, held, taken.1, taken.2, rfl⟩
    · exact .inl rfl
  · exact .inl rfl

/-- An expiry that is spent, once a word of a step that waits is taken, is used up; another is taken. -/
theorem unlessSpent_of_mem {s : State} {c : Instr} (event : State → State) (spent : c ∈ s.takeWord.spent) :
    s.unlessSpent c event = s.takeWord.setSpent (s.takeWord.spent.erase c) := by
  simp [State.unlessSpent, spent]

theorem unlessSpent_of_not_mem {s : State} {c : Instr} (event : State → State) (fresh : c ∉ s.takeWord.spent) :
    s.unlessSpent c event = event s := by
  simp [State.unlessSpent, fresh]

/-! ## The counter -/

/-- What a reference cycle leaves of the BTU: trim, slew and capture; and it makes the reading of the cycle that ends that of the cycle before, with the step made in it. -/
theorem tick_keeps (b : BtuState) :
    b.tick.trim = b.trim ∧ b.tick.slew = b.slew ∧ b.tick.capture = b.capture ∧ b.tick.stepFrom = none
      ∧ b.tick.latch = b.time ∧ b.tick.latchFrom = b.stepFrom := by
  unfold BtuState.tick
  dsimp only
  split
  · exact ⟨rfl, rfl, rfl, rfl, rfl, rfl⟩
  · split
    · exact ⟨rfl, rfl, rfl, rfl, rfl, rfl⟩
    · split <;> exact ⟨rfl, rfl, rfl, rfl, rfl, rfl⟩

/-- The cycle of a step adds no sixteenth, and nothing to the accumulator. -/
theorem tick_of_step {b : BtuState} (stepped : b.stepFrom.isSome) : b.tick = b.latched := by
  simp [BtuState.tick, stepped]

/-- A cycle that no step was made in, without a correction. -/
theorem tick_of_no_correction {b : BtuState} (free : b.stepFrom = none) (zero : b.combined = 0) :
    b.tick = { b.latched with time := b.time + 1 } := by
  simp [BtuState.tick, free, zero]

@[simp] theorem skip_zero (b : BtuState) : b.skip 0 = b := rfl
@[simp] theorem advance_zero (b : BtuState) : b.advance 0 = b := rfl
theorem advance_succ (n : Nat) (b : BtuState) : b.advance (n + 1) = (b.skip n).tick := rfl
@[simp] theorem advance_one (b : BtuState) : b.advance 1 = b.tick := rfl

/-- Where no step was made in the present cycle, the cycles before the last run at once. -/
theorem skip_of_free {b : BtuState} (free : b.stepFrom = none) (n : Nat) : b.skip (n + 1) = b.leap (n + 1) := by
  simp [BtuState.skip, free]

/-- The cycle of a step passes first, and the others run at once. -/
theorem skip_of_step {b : BtuState} (stepped : b.stepFrom.isSome) (n : Nat) :
    b.skip (n + 1) = ({ b with stepFrom := none } : BtuState).leap n := by
  simp [BtuState.skip, stepped]

theorem leap_keeps (n : Nat) (b : BtuState) :
    (b.leap n).trim = b.trim ∧ (b.leap n).slew = b.slew ∧ (b.leap n).capture = b.capture := by
  unfold BtuState.leap
  dsimp only
  split <;> exact ⟨rfl, rfl, rfl⟩

theorem skip_keeps (n : Nat) (b : BtuState) :
    (b.skip n).trim = b.trim ∧ (b.skip n).slew = b.slew ∧ (b.skip n).capture = b.capture := by
  cases n with
  | zero => exact ⟨rfl, rfl, rfl⟩
  | succ n =>
    rw [BtuState.skip]
    split
    · exact leap_keeps n _
    · exact leap_keeps (n + 1) b

theorem advance_keeps (n : Nat) (b : BtuState) :
    (b.advance n).trim = b.trim ∧ (b.advance n).slew = b.slew ∧ (b.advance n).capture = b.capture := by
  cases n with
  | zero => exact ⟨rfl, rfl, rfl⟩
  | succ n =>
    obtain ⟨trim, slew, capture⟩ := skip_keeps n b
    obtain ⟨trim', slew', capture', _⟩ := tick_keeps (b.skip n)
    exact ⟨trim'.trans trim, slew'.trans slew, capture'.trans capture⟩

/-- Bus time run on keeps trim, slew and capture. -/
theorem runTo_keeps (t : Micros) (b : BtuState) :
    (b.runTo t).trim = b.trim ∧ (b.runTo t).slew = b.slew ∧ (b.runTo t).capture = b.capture := by
  unfold BtuState.runTo
  split
  · exact ⟨rfl, rfl, rfl⟩
  · exact advance_keeps _ b

/-! ## Steps of bus time -/

/-- A step moves bus time by its amount, keeps trim, slew and accumulator, and keeps the reaction table. -/
theorem stepTime_btu (amount : Int) (s : State) :
    (s.stepTime amount).btu.time = s.btu.time + BitVec.ofInt 36 amount
      ∧ (s.stepTime amount).btu.trim = s.btu.trim ∧ (s.stepTime amount).btu.slew = s.btu.slew
      ∧ (s.stepTime amount).btu.acc = s.btu.acc
      ∧ (s.stepTime amount).mku.reactions = s.mku.reactions := by
  unfold State.stepTime
  split
  · subst amount
    simp
  · dsimp only
    have frame := reexamine_touches (Config.reexamineOrder s.draws) s.micros (microsChange s.btu.time amount)
      ((s.stampAttempt.moveLocal amount (microsChange s.btu.time amount)).setWord (some (wordOf amount))).drawn
    rw [frame.btu (by decide), frame.mku (by decide)]
    simp [State.drawn, State.setWord, State.moveLocal, State.stampAttempt]

/-- An edge seen in a cycle without a step has its reading of bus time. -/
theorem edgeSeen_of_free {s : State} (free : s.btu.latchFrom = none) : s.edgeSeen = (s.btu.latch, s) := by
  simp [State.edgeSeen, free]

/-- An edge seen in the cycle of a step has the reading before the step or after it, and every edge taken after it in this cycle has the same. -/
theorem edgeSeen_of_step {s : State} {old : BusTime} (stepped : s.btu.latchFrom = some old) :
    (s.edgeSeen.1 = old ∨ s.edgeSeen.1 = s.btu.latch)
      ∧ s.edgeSeen.2 = s.drawn.setBtu { s.btu with latch := s.edgeSeen.1, latchFrom := none } := by
  rw [State.edgeSeen, stepped]
  refine ⟨?_, rfl⟩
  dsimp only
  split
  · exact .inl rfl
  · exact .inr rfl

/-- A second edge taken in a cycle has the reading of the first, and draws nothing. -/
theorem edgeSeen_again (s : State) : s.edgeSeen.2.edgeSeen = s.edgeSeen := by
  cases stepped : s.btu.latchFrom with
  | none => simp [edgeSeen_of_free stepped]
  | some old => simp [State.edgeSeen, stepped]

/-! ## Records -/

/-- Where each record stands in a slot of its own, two records of one slot are one. -/
theorem record_eq_of_slot {records : List Record} (own : (records.map fun r => r.tag.slot).Nodup) {r x : Record}
    (mr : r ∈ records) (mx : x ∈ records) (h : x.tag.slot = r.tag.slot) : x = r :=
  List.inj_on_of_nodup_map own mx mr h

/-- The record a tag names. -/
theorem named_of_mem {q : SqState} (own : (q.records.map fun r => r.tag.slot).Nodup) {r : Record}
    (m : r ∈ q.records) : q.named r.tag = some r := by
  unfold SqState.named
  cases found : q.records.find? fun x => decide (x.tag = r.tag) with
  | none => simpa using List.find?_eq_none.mp found r m
  | some x =>
    have e : x.tag = r.tag := by simpa using List.find?_some found
    rw [record_eq_of_slot own m (List.mem_of_find?_eq_some found) (by rw [e])]

/-- The record in flight in a slot. -/
theorem find_inFlight {records : List Record} (own : (records.map fun r => r.tag.slot).Nodup) {r : Record}
    (m : r ∈ records) (inFlight : r.state = .inFlight) :
    (records.find? fun x => decide (x.tag.slot = r.tag.slot ∧ x.state = .inFlight)) = some r := by
  cases found : records.find? fun x => decide (x.tag.slot = r.tag.slot ∧ x.state = .inFlight) with
  | none =>
    have := List.find?_eq_none.mp found r m
    simp [inFlight] at this
  | some x =>
    have e : x.tag.slot = r.tag.slot ∧ x.state = .inFlight := by simpa using List.find?_some found
    rw [record_eq_of_slot own m (List.mem_of_find?_eq_some found) e.1]

/-- The WAITING record in a slot. -/
theorem find_waiting {records : List Record} (own : (records.map fun r => r.tag.slot).Nodup) {r : Record}
    (m : r ∈ records) (waiting : r.state = .waiting) :
    (records.find? fun x => decide (x.tag.slot = r.tag.slot ∧ x.state = .waiting)) = some r := by
  cases found : records.find? fun x => decide (x.tag.slot = r.tag.slot ∧ x.state = .waiting) with
  | none =>
    have := List.find?_eq_none.mp found r m
    simp [waiting] at this
  | some x =>
    have e : x.tag.slot = r.tag.slot ∧ x.state = .waiting := by simpa using List.find?_some found
    rw [record_eq_of_slot own m (List.mem_of_find?_eq_some found) e.1]

/-- What the send queue holds after a record is put in slot order. -/
theorem mem_insertRecord {x r : Record} {records : List Record} :
    x ∈ insertRecord r records ↔ x = r ∨ x ∈ records := by
  induction records with
  | nil => simp [insertRecord]
  | cons y rest ih =>
    unfold insertRecord
    split
    · simp
    · simp [ih]; tauto

/-- What the schedule holds after an entry is put at its position. -/
theorem mem_insertEntry {x e : Entry} {ahead : Micros → Int} {schedule : List Entry} :
    x ∈ insertEntry ahead e schedule ↔ x = e ∨ x ∈ schedule := by
  induction schedule with
  | nil => simp [insertEntry]
  | cons y rest ih =>
    unfold insertEntry
    split
    · simp
    · simp [ih]; tauto

theorem length_insertEntry (ahead : Micros → Int) (e : Entry) (schedule : List Entry) :
    (insertEntry ahead e schedule).length = schedule.length + 1 := by
  induction schedule with
  | nil => rfl
  | cons y rest ih =>
    unfold insertEntry
    split
    · rfl
    · simp [ih]

/-- An entry stands behind every entry before which it does not stand, and in front of the first before which it does. -/
theorem insertEntry_eq (ahead : Micros → Int) (e : Entry) (schedule : List Entry) :
    insertEntry ahead e schedule =
      schedule.takeWhile (fun x => !before ahead e x) ++ e :: schedule.dropWhile fun x => !before ahead e x := by
  induction schedule with
  | nil => rfl
  | cons x rest ih =>
    unfold insertEntry
    split <;> simp_all

/-! ## Register files -/

@[simp] theorem getElem_mapVector {α β : Type} {n : Nat} (f : α → β) (v : Vector α n) (i : Nat) (h : i < n) :
    (mapVector f v)[i] = f v[i] := by
  simp [mapVector]

end Sys2Proof.Machine
end

