-- ==== Sys2Proof/Tests/Slice0.lean ====
section
/-! SUPPORT. Tests: the checks of WellFormed.lean, the spec's worked examples, and for each obligation a state that meets its hypotheses. -/

namespace Sys2Proof.Tests

open Sys2Proof.Machine

/-! ## States -/

/-- The state a command leads to. -/
def run (c : Instr) (s : State) : State :=
  match exec c s with
  | .next t => t
  | _ => s

/-- OFFLINE, configured with station id 12. -/
def offline : State := State.reset.setStc { State.reset.stc with config := { StationConfig.defaults with id := 12 } }

/-- A LIU in a state, with the settings of offline. -/
def liuIn (l : LiuState) : LiuBlock :=
  { state := l, attempt := none, settings := offline.stc.config.settings, timing := BitTiming.start, ownEnded := false
    holdOff := false }

/-- LISTENING, on an idle line. -/
def listening : State :=
  (offline.setLiu (liuIn .idle)).setStc { offline.stc with station := .listening, windowEnd := some 200000 }

/-- JOINED and SEEKING, on an idle line. -/
def joined : State :=
  (((offline.setLiu (liuIn .idle)).setStc { offline.stc with station := .joined }).setAgu
    { offline.agu with sync := .seeking, boundary := some 100000 }).setClu { offline.clu with told := .seeking }

/-- JOINED, receiving a frame whose SOF was captured at 0. -/
def receiving : State :=
  (joined.setLiu (liuIn .receiving)).setBtu { joined.btu with capture := some { time := 0, confirmed := true } }

/-- A CUE record with its due time at 60 000 µs. -/
def cueRecord (slot : Fin 16) (number : CueNumber) (state : RecordState) : Record :=
  { tag := { slot := slot, generation := 3 }
    body := .cueBody { number := number, action := .set, topic := 0x0312, due := 60000, width := none, rpt := none }
    stale := some 59500, state := state, withdrawPending := false, errors := 0, order := 0 }

/-- A state with general records. -/
def withRecords (records : List Record) (s : State) : State := s.setSq { s.sq with records := records }

/-- A CUE record in every slot. -/
def allTaken : List Record := (List.finRange 16).map fun i => cueRecord i (BitVec.ofNat 12 i.val) .waiting

/-- JOINED, sending the CUE record of slot 2. -/
def sending : State :=
  (withRecords [cueRecord 2 310 .inFlight] receiving).setLiu
    { liuIn .sending with
      attempt := some { place := .slot 2, frame := frameOf 12 15 0 (cueRecord 2 310 .inFlight).body.content, stamp := none } }

/-- A BEAT. -/
def aBeat : Beat := { interval := 100, sync := .seeking, fresh := 0, sequence := 1, stale := 50000 }

/-- A BEAT in the beat slot. -/
def beatRecord (inFlight superseded : Bool) : BeatRecord :=
  { beat := aBeat, inFlight := inFlight, superseded := superseded, errors := 0, order := 0 }

/-- JOINED, sending the BEAT. -/
def sendingBeat : State :=
  (receiving.setSq { receiving.sq with beat := some (beatRecord true false) }).setLiu
    { liuIn .sending with
      attempt := some { place := .beat, frame := frameOf 12 0 0 (aBeat.content 0), stamp := none } }

/-- RESTART taken while sending: the frame drains. -/
def draining : State := run .restart sending

/-- A schedule entry from the bus on line 2. -/
def anEntry (number : CueNumber) (due : Micros) : Entry :=
  { key := { origin := 4, number := number }, source := .bus, topic := some 0x0312, hit := some 0
    target := some 2, action := .set, width := none, rpt := none, due := due, notify := true, late := false }

/-- A schedule entry that moves no line. -/
def aNote (number : CueNumber) (due : Micros) : Entry := { anEntry number due with action := .note, target := none }

/-- A state with a schedule. -/
def withSchedule (l : List Entry) (s : State) : State := s.setSchedule l

/-- 32 entries, one µs apart. -/
def fullSchedule : List Entry :=
  (List.range 32).map fun i => anEntry (BitVec.ofNat 12 i) (BitVec.ofNat 32 (1000 + i))

/-- A state at a µs of bus time. -/
def at' (t : Nat) (s : State) : State := s.setBtu { s.btu with time := BitVec.ofNat 36 (t * 16) }

/-- A station in a fault state. -/
def inFault (state : FaultState) (score spans : Nat) (recovery : Option Micros) (s : State) : State :=
  s.setFcu { FcuState.restarted with score := score, state := state, spans := spans, recovery := recovery }

/-- A peer. -/
def aPeer (id : StationId) (offset : Int) : Peer :=
  { Peer.created id with offset := some offset, fresh := true, sync := some .seeking, sequence := some 1 }

/-- A notice. -/
def aNotice : Notice := { posted := 0, body := .restarted }

/-- A CUE post: SET, cue 20, topic 0x0312, due in 50 000 µs. -/
def aCue : CueArgs :=
  { lead := true, notify := false, repeatPresent := false, action := 0, cue := 20, topic := 0x0312, due := 50000
    width := 0, period := 0, count := 0 }

/-- A frame of station 4's. -/
def frame4 (c : Content) : Frame := frameOf 4 0 0 c

/-- A MARK of station 4's input 0. -/
def mark4 : Frame := frame4 (.markContent { input := 0, edge := .rising, sequence := 1, capture := 0 })

/-! ## WellFormed -/

theorem test_wellFormed_refuses_assigned_code : (Instr.badCommand 0x01).wellFormed = false := by decide
theorem test_wellFormed_admits_unassigned_code : (Instr.badCommand 0x06).wellFormed = true := by decide
theorem test_wellFormed_refuses_16_payload_bytes :
    (Instr.acceptance { mark4 with payload := List.replicate 16 0 } true).wellFormed = false := by decide
theorem test_wellFormed_admits_15_payload_bytes :
    (Instr.acceptance { mark4 with payload := List.replicate 15 0 } true).wellFormed = true := by decide

/-- An error is reported in the last of bits in which it can be detected, and a delimiter ends in 8 recessive bits. -/
theorem test_wellFormed_refuses_bits :
    (Instr.errorDetected .stuff (List.replicate 6 true)).wellFormed = false
      ∧ (Instr.errorDetected .form [false, true]).wellFormed = false
      ∧ (Instr.errorDetected .ack [true, false]).wellFormed = false ∧ (Instr.errorDetected .crc []).wellFormed = false
      ∧ (Instr.errorDelimiterEnd (List.replicate 7 true)).wellFormed = false
      ∧ (Instr.errorDelimiterEnd [true, false]).wellFormed = false
      ∧ (Instr.stuckLineError (List.replicate 15 false)).wellFormed = false := by decide

theorem test_wellFormed_admits_bits :
    (Instr.errorDetected .stuff (false :: List.replicate 7 true)).wellFormed = true
      ∧ (Instr.errorDetected .form).wellFormed = true ∧ (Instr.errorDetected .bit [true]).wellFormed = true
      ∧ Instr.errorDelimiterEnd.wellFormed = true
      ∧ (Instr.errorDelimiterEnd (false :: List.replicate 8 true)).wellFormed = true
      ∧ Instr.stuckLineError.wellFormed = true
      ∧ (Instr.stuckLineError (true :: List.replicate 16 false)).wellFormed = true := by decide

/-! ## The table's words and the bytes of the port -/

theorem test_no_word_spells_a_command : decodeTableWord 8 0x08 = none := by decide

/-- WITHDRAW 2/5, JOIN with bytes after it, an unassigned code, and SET_LINE of line 3, low-true and guarded. -/
theorem test_transaction_bytes :
    decodeTransaction [0x12, 0x25] = some (.withdraw { slot := 2, generation := 5 })
      ∧ decodeTransaction [0x08, 0xAA] = some .join
      ∧ decodeTransaction [0x06] = some (.badCommand 0x06)
      ∧ decodeTransaction [0x02, 0x03, 0x03] =
        some (.setLine { line := 3, lowTrue := true, guarded := true, safe := false }) := by decide

/-! ## Worked examples of the spec -/

/-- 1.6: the line carries station 12's MARK, and stations 5 and 9 lose to it. Between those two, 9 wins. -/
theorem test_three_contenders :
    let mark := arbitrationField { mark4 with station := 12 }
    let cue5 := arbitrationField { cls := .cue, urgency := 3, station := 5, payload := [] }
    let cue9 := arbitrationField { cls := .cue, urgency := 1, station := 9, payload := [] }
    let line := contend (contend cue5 mark) cue9
    line = mark ∧ arbitrate mark line = .continues ∧ arbitrate cue5 line = .lost ∧ arbitrate cue9 line = .lost
      ∧ contend cue5 cue9 = cue9 ∧ arbitrate cue5 (contend cue5 cue9) = .lost := by decide

/-- 1.10: the fewest and the most bits on the wire. -/
theorem test_frame_lengths :
    ([4, 5, 7, 8, 10, 12, 14, 15] : List Nat).map (fun n => (fewestBits n, mostBits n)) =
      [(79, 92), (87, 101), (103, 120), (111, 130), (127, 149), (143, 168), (159, 188), (167, 197)] := by decide

/-- 2.5: scores 88, 96, 95, 191, 199 with their fault states. -/
theorem test_failing_transmitter :
    (run (.errorDetected .bit) (inFault .active 88 0 none sending)).fcu =
        { score := 96, state := .guarded, spans := 0, run := 0, owed := 0, recovery := none, timeReached := false }
      ∧ (run (.acceptance mark4 true) (inFault .guarded 96 0 none receiving)).fcu =
        { score := 95, state := .active, spans := 0, run := 0, owed := 0, recovery := none, timeReached := false }
      ∧ (run (.errorDetected .crc) (inFault .guarded 191 0 none receiving)).fcu =
        { score := 191, state := .guarded, spans := 0, run := 0, owed := 0, recovery := none, timeReached := false }
      ∧ (run (.errorDetected .bit) (inFault .guarded 191 0 none sending)).fcu =
        { FcuState.restarted with score := 199, state := .silenced, recovery := some 100000 } := by
  decide

/-- 3.1: 300 is 596 µs ahead of 4 294 967 000, and not the other way. -/
theorem test_ahead_over_the_wrap :
    distance 300 4294967000 = 596 ∧ isAhead 300 4294967000 = true ∧ isAhead 4294967000 300 = false := by decide

/-- 3.2.1: a dropped sixteenth, the next one 35 714 cycles later, and 448 in a second. -/
theorem test_trim_and_slew_together :
    let b : BtuState := { State.reset.btu with time := 1600, trim := 12, slew := -640, acc := 15999900 }
    let after := b.tick
    after.time = 1600 ∧ after.acc = 348 ∧ (after.advance 35713).time = 1600 + 35713
      ∧ (after.advance 35714).acc = 220 ∧ (after.advance 35714).time = 1600 + 35713
      ∧ (after.advance 16000000).acc = 348
      ∧ (after.advance 16000000).time = 1600 + 16000000 - 448 := by decide

/-- 3.3: a step of 10 µs takes the place of its cycle's advance and leaves the accumulator; the cycles after it advance again, and a time 1 µs ahead is 16 of them away. -/
theorem test_cycle_of_step :
    let b := ((joined.setBtu { joined.btu with trim := 200, acc := 15999999 }).moveLocal 160 10).btu
    b.time = 160 ∧ b.tick.time = 160 ∧ b.tick.acc = 15999999 ∧ b.tick.tick.time = 162
      ∧ b.tick.tick.acc = 3199 ∧ b.cyclesTo 11 = 16 ∧ (b.runTo 11).time = 176
      ∧ (joined.moveLocal 160 10).btu.cyclesTo 11 = 17 ∧ (joined.moveLocal 160 10).btu.runTo 11 =
        { joined.btu with time := 176, latch := 175 } := by decide

/-- CounterTicks: the cycle of a step; no correction; a sum below 16 000 000, and one that doubles or drops. -/
theorem test_meets_counter :
    let b := State.reset.btu
    (joined.moveLocal 160 10).btu.stepFrom = some 0 ∧ b.stepFrom = none ∧ b.trim * 16 + b.slew = 0
      ∧ (15999998 : Nat) + (1 : Int).natAbs < 16000000 ∧ 16000000 ≤ (15999999 : Nat) + (1 : Int).natAbs
      ∧ 16000000 ≤ (15999999 : Nat) + (-1 : Int).natAbs ∧ (-1 : Int) < 0 := by decide

/-- 3.3 and 3.3.1: µs changes of a backward and of a forward step, and the next boundary. -/
theorem test_steps :
    microsChange (BitVec.ofNat 36 (41200000 * 16 + 5)) (-24) = -2
      ∧ microsChange (BitVec.ofNat 36 (41200000 * 16)) 30400 = 1900
      ∧ nextBoundary 100000 41200000 1900 = 41300000 := by decide

/-- 4.3 and 4.6: an offset of 25 sixteenths, and a clamped slew with its trim. -/
theorem test_offset_and_slew :
    signedDifference (BitVec.ofNat 36 (41200000 * 16 + 3)) (BitVec.ofNat 36 (41199998 * 16 + 10)) = 25
      ∧ slewFor 100000 (-2400) = -8000 ∧ trimAfter 0 0 (-8000) = (-62, -64) := by decide

/-- 4.9: the corrections of four rounds, and the trim of the fourth. -/
theorem test_two_stations_agree :
    midpoint [0, -19200] = -9600 ∧ midpoint [0, -16] = -8 ∧ slewFor 100000 (-8) = -80
      ∧ trimAfter 0 (-80) (-160) = (-1, -112) ∧ trimAfter 0 80 160 = (1, 112) := by decide

/-- 5.3: urgencies 4, 15 and 4. -/
theorem test_urgencies :
    urgencyOf 1000 20004300 20000000 = 4 ∧ urgencyOf 1000 20031000 20000000 = 15
      ∧ urgencyOf 1000 20004900 20000000 = 4 := by decide

/-- 5.10: a withdrawal taken before the outcome, and after it. -/
theorem test_withdrawal_meets_attempt :
    (run (.withdraw { slot := 2, generation := 3 }) sending).lpu.reply = [2]
      ∧ (run (.acceptance mark4 true) (run (.withdraw { slot := 2, generation := 3 }) sending)).lpu.notices =
        [{ posted := 0, body := .sendQueue .sent { slot := 2, generation := 3 } false true }]
      ∧ (run (.withdraw { slot := 2, generation := 3 }) (run (.acceptance mark4 true) sending)).lpu.reply = [8] := by
  decide

/-- 6.6: the subscription table of station 12. -/
def table12 : Vector Subscription 16 :=
  (((Vector.replicate 16 Subscription.defaults).set 0
    { enabled := true, code := 0x0300, mask := 0xFF00, target := some 2, notify := true }).set 1
    { enabled := true, code := 0x0312, mask := 0xFFFF, target := some 5, notify := false }).set 3
    { enabled := true, code := 0x0000, mask := 0x8000, target := none, notify := true }

/-- 6.6: hits 0, 3 and none. -/
theorem test_subscription_hits :
    let u : IkuState := { State.reset.iku with subscriptions := table12 }
    u.hitFor 0x0312 = some 0 ∧ u.hitFor 0x0455 = some 3 ∧ u.hitFor 0x9001 = none := by decide

set_option maxRecDepth 10000 in
/-- 6.6: a CUE of length 10 with action SET, and a BEAT with a fresh-peer count of 40, are MALFORMED. -/
theorem test_malformed_frames :
    parseFrame { cls := .cue, urgency := 0, station := 9, payload := [0, 1, 0, 0, 0, 0, 0, 0, 0, 5] } = none
      ∧ parseFrame { cls := .beat, urgency := 0, station := 30, payload := [0, 0, 0, 0, 0x01, 0x90, 160, 0] } = none
      ∧ parseFrame { cls := .beat, urgency := 0, station := 30, payload := [0, 0, 0, 0, 0x01, 0x90, 128, 0] } =
        some (.beatContent 0 100 .alone 32 0) := by decide

/-- 7.4: a repeat of 3000 µs with 18 firings left, reached 6000 µs late and not made. -/
theorem test_missed_occurrences :
    nextOccurrence (some { period := 3000, count := 18 }) 60100500 6000 =
        some (60109500, { period := 3000, count := 15 })
      ∧ occurrencesMissed (some { period := 3000, count := 18 }) 6000 false = 3 := by decide

/-- The notices of a CUE of station 4, a peer, taken where the schedule is full. -/
def noticesOfCue (number : CueNumber) (due : Micros) : List NoticeBody :=
  (run
      (.acceptance
        (frame4 (.cueContent { number := number, action := .set, topic := 0x0312, due := due, width := none, rpt := none }))
        true)
      (((withSchedule fullSchedule receiving).setIku { receiving.iku with subscriptions := table12 }).setAgu
        { receiving.agu with peers := receiving.agu.peers.set 0 (some (aPeer 4 0)) })).lpu.notices.map Notice.body

set_option maxRecDepth 10000 in
/-- 7.9, 3 and 4: a full schedule evicts its last entry for an earlier cue and drops a later one; a later cue of a key it holds revises that entry. -/
theorem test_full_schedule :
    noticesOfCue 99 1010 = [.schedule .evicted { origin := 4, number := 31 } (some 2) 0]
      ∧ noticesOfCue 99 2000 = [.schedule .dropped { origin := 4, number := 99 } (some 2) 0]
      ∧ noticesOfCue 3 2000 = [.schedule .revised { origin := 4, number := 3 } (some 2) 0] := by
  decide

/-- 8.7: a guarded low-true line through a loss of lock, and an unguarded one. -/
theorem test_lines_through_loss_of_lock :
    let line4 : Line := { level := false, pulse := none, lowTrue := true, guarded := true, safe := false }
    let pulsing := (line4.act .locked 69999800 .pulse (some 500)).1
    pulsing = { line4 with level := true, pulse := some 70000300 } ∧ pulsing.pinHigh = false
      ∧ pulsing.unlocked = line4 ∧ line4.pinHigh = true
      ∧ line4.act .adrift 70000100 .set none = (line4, .suppressed) := by decide

/-- 9.8, 1: a taken edge, seen in the cycle before, counts, spaces, announces and reacts. -/
theorem test_mark_edge :
    let s := joined.setBtu
      { joined.btu with time := BitVec.ofNat 36 (80000012 * 16 + 9), latch := BitVec.ofNat 36 (80000012 * 16 + 8) }
    let input : MarkInput :=
      { select := .rising, announce := true, notify := true, spacing := 2000, spacingEnd := none, sequence := 6 }
    let reaction : Reaction :=
      { enabled := true, source := 0, input := 0, edge := .rising, offset := 5000, action := .pulse
        target := some 3, width := some 100, notify := true }
    let t := run (.markEdge 0 .rising)
      (s.setMku { inputs := s.mku.inputs.set 0 input, reactions := s.mku.reactions.set 0 reaction })
    t.mku.inputs[(0 : Fin 4)] = { input with sequence := 7, spacingEnd := some 80002012 }
      ∧ t.lpu.notices = [{ posted := 80000012, body := .mark .captured 0 .rising 7 }]
      ∧ t.csu.schedule.map (fun e => (e.key, e.due)) = [({ origin := 12, number := 3968 }, 80005012)]
      ∧ t.sq.records.map (fun r => (r.tag.slot, r.stale)) = [(0, some 80010012)]
      ∧ t.sq.records.map (fun r => r.body) =
        [.markBody
          { input := 0, edge := .rising, sequence := 7, capture := BitVec.ofNat 36 (80000012 * 16 + 5) }] := by
  decide

/-- 9.3: an edge seen in the last cycle of a µs is taken in the first of the next, and its notice and spacing end are of that one. -/
theorem test_edge_taken_one_cycle_later :
    let input : MarkInput :=
      { select := .rising, announce := true, notify := true, spacing := 1, spacingEnd := none, sequence := 0 }
    let s := joined.setMku { joined.mku with inputs := joined.mku.inputs.set 0 input }
    let t := run (.markEdge 0 .rising) ((s.setBtu { s.btu with time := 175 }).tick)
    t.lpu.notices = [{ posted := 11, body := .mark .captured 0 .rising 1 }]
      ∧ t.mku.inputs[(0 : Fin 4)].spacingEnd = some 12
      ∧ t.sq.records.map (fun r => r.body) =
        [.markBody { input := 0, edge := .rising, sequence := 1, capture := 172 }] := by decide

/-- 10.7, 4: the acquisition of station 21: its correction, the time after its step, and its first boundary. -/
theorem test_acquisition :
    let s := listening.setAgu
      { listening.agu with
        peers := (listening.agu.peers.set 0 (some (aPeer 4 79200040))).set 1 (some (aPeer 9 79200040)) }
    let c := midpoint (s.offsets Peer.acquisitionOffset)
    let after := BitVec.ofNat 36 (30200000 * 16) + BitVec.ofInt 36 c
    after = BitVec.ofNat 36 (35150002 * 16 + 8) ∧ microsChange (BitVec.ofNat 36 (30200000 * 16)) c = 4950002
      ∧ nextMultiple 100000 (microsOf after) = 35200000 := by decide

/-- 11.4, 1: a SHARED post and its record. -/
theorem test_shared_post :
    let t := run (.postCueShared { aCue with action := 3, width := 250 }) (at' 41150000 joined)
    t.lpu.reply = [0, 1, 0x00] ∧ t.sq.records.map (fun r => r.stale) = [some 41199500] := by decide

/-- 11.4, 6 and 7: a pulse fired on time, and its end. -/
theorem test_pulse_fired_and_ended :
    let e := { anEntry 20 41200000 with action := .pulse, width := some 250 }
    let t := run .scheduleExpiry (withSchedule [e] (at' 41199999 { joined with agu := { joined.agu with boundary := none } }))
    t.clu.lines[(2 : Fin 8)].pulse = some 41200250 ∧ t.btu.time = BitVec.ofNat 36 (41200000 * 16)
      ∧ t.lpu.notices = [{ posted := 41200000, body := .schedule .fired e.key (some 2) 0 }]
      ∧ (run (.pulseEnd 2) t).clu.lines[(2 : Fin 8)].level = false
      ∧ (run (.pulseEnd 2) t).micros = 41200250 := by decide

/-! ## States that meet the hypotheses of the obligations -/

theorem test_open_ports : offline.PortOpen ∧ (run .transactionBegin offline).PortOpen ∧ joined.PortOpen :=
  ⟨.inl rfl, .inr rfl, .inl rfl⟩

/-- StepRunsFrontCommand. -/
theorem test_meets_step : (offline.setPending [.join]).pending = .join :: [] := by decide

/-- A state whose CSU holds the word of a step. -/
def withWord (w : StepWord) (s : State) : State := s.setWord (some w)

/-- EmptyQueueStepTakesExpiryOrCycle: nothing due in the first µs of reset, STOPPED, and none on an idle line; one entry due; and the word of a step. -/
theorem test_meets_empty_queue :
    State.reset.pending = [] ∧ State.reset.csu.word = none ∧ (∀ x ∈ State.reset.timers, x.2 ≠ State.reset.micros)
      ∧ State.reset.liu.state = .stopped ∧ (∀ x ∈ joined.timers, x.2 ≠ joined.micros) ∧ joined.liu.state ≠ .stopped
      ∧ joined.liu.timing.shift = 0 ∧ joined.liu.timing.cycle < 16 * Claims.quantum joined.liu.settings.bitRate
      ∧ (∀ x ∈ sendingBeat.timers, x.2 ≠ sendingBeat.micros)
      ∧ (∀ x ∈ (inFault .silenced 199 0 (some 100) joined).timers, x.2 ≠ joined.micros)
      ∧ (withSchedule [aNote 1 7] (at' 7 joined)).dueNow = [.scheduleExpiry]
      ∧ ((withSchedule [aNote 1 7] (at' 7 joined)).setSq
          { joined.sq with records := [{ cueRecord 0 7 .waiting with stale := some 7 }] }).dueNow =
        [.scheduleExpiry, .staleTimeExpiry (.slot 0)]
      ∧ (withWord .forward joined).pending = [] ∧ (withWord .forward joined).csu.word = some .forward
      ∧ Claims.noSpanWaits joined ∧ Claims.IdleTiming (inFault .silenced 199 0 (some 100) joined) := by
  simp only [Claims.noSpanWaits, Claims.IdleTiming]
  decide

/-- EmptyQueueStepTakesExpiryOrCycle: an idle span that waits is counted by a step of its own; the cycle behind a sample point counts a bit, a span with it, and the return with that. -/
theorem test_empty_queue_counts_spans :
    let s := inFault .silenced 199 63 (some 5) joined
    let atPoint := s.setLiu { s.liu with timing := { s.liu.timing with cycle := 23 } }
    let stepped := fun s : State =>
      match step s with
      | .next t => (t.fcu, t.spent, t.lpu.notices.map Notice.body)
      | _ => (s.fcu, [.join], [])
    let after := fun (run : Nat) (reached : Bool) =>
      stepped (atPoint.setFcu { s.fcu with run := run, timeReached := reached })
    stepped (s.setFcu { s.fcu with owed := 1, run := 3 }) = ({ s.fcu with spans := 64, run := 3 }, [], [])
      ∧ after 0 false = ({ s.fcu with run := 1 }, [], []) ∧ after 11 false = ({ s.fcu with spans := 64 }, [.idleSpan], [])
      ∧ after 11 true = (FcuState.restarted, [.idleSpan], [.faultState .silenced .active]) := by decide

/-- A number of notices of STC wait, the last of which came in this cycle. -/
def waiting (n : Nat) : State :=
  (offline.setLpu { offline.lpu with notices := List.replicate n aNotice }).setPosted { offline.posted with recent := 1 }

/-- NoticePosted: 31 notices wait, and 32; the last one came in this cycle, and its block posts again, or another. -/
theorem test_meets_notice_posted :
    (waiting 31).lpu.notices.length < 32 ∧ 32 ≤ (waiting 32).lpu.notices.length ∧ (waiting 31).freePlaces .stc = 0
      ∧ (waiting 31).freePlaces .sq = 1 ∧ (waiting 32).freePlaces .sq = 1 ∧ offline.freePlaces .sq = 0
      ∧ ((waiting 31).setPosted { recent := 1, shut := [.sq], drawn := 0 }).freePlaces .sq = 0
      ∧ ((waiting 31).post (.joined .alone)).lpu.notices.getLast? = some { posted := 0, body := .joined .alone }
      ∧ ((waiting 32).post (.joined .alone)).lpu.lost = 1 ∧ ((waiting 32).post (.joined .alone)).posted.shut = [.stc] := by
  decide

/-- 11.2: the notices of two blocks in one cycle stand in either order; in the next cycle the later one is behind. -/
theorem test_order_of_two_blocks :
    let two := fun s : State => (s.post (.faultState .active .barred)).lpu.notices.map Notice.body
    let one := offline.post (.syncState .alone .seeking)
    (two one = [.syncState .alone .seeking, .faultState .active .barred]
        ∨ two one = [.faultState .active .barred, .syncState .alone .seeking])
      ∧ two one.tick = [.syncState .alone .seeking, .faultState .active .barred] := by
  refine ⟨?_, by decide⟩
  have place : Config.noticePlace 0 % 2 = 0 ∨ Config.noticePlace 0 % 2 = 1 := Nat.mod_two_eq_zero_or_one _
  have posted : (offline.post (.syncState .alone .seeking)).post (.faultState .active .barred) =
      ((offline.post (.syncState .alone .seeking)).setPosted { recent := 1, shut := [], drawn := 1 }).joinQueue
        (Config.noticePlace 0 % 2) (.faultState .active .barred) := rfl
  dsimp only
  rw [posted]
  obtain h | h := place <;> rw [h]
  · exact .inl (by decide)
  · exact .inr (by decide)

/-- TransactionsBeginAndEnd: SEL high, a command awaited, a command taken, a period to ignore. -/
theorem test_meets_transactions :
    offline.lpu.transaction = .idle ∧ (run .transactionBegin offline).lpu.transaction = .receiving
      ∧ (run .join (run .transactionBegin offline)).lpu.transaction = .replying
      ∧ (run .pinReset (run .transactionBegin offline)).lpu.transaction = .ignoring := by decide

/-- The same: SDO while SEL is high, while the command comes, in the reply and past its end. -/
theorem test_sdo :
    let replying := run .readTime (run .transactionBegin joined)
    joined.sdoByte 0 = none ∧ (run .transactionBegin joined).sdoByte 3 = some 0
      ∧ replying.sdoByte 0 = replying.lpu.reply[0]? ∧ (replying.sdoByte 0).isSome ∧ replying.sdoByte 40 = some 0
      ∧ replying.sdoBit 0 = some false := by decide

/-- PortIgnoresAndRejects: commands of the port, and codes between and beyond the assigned ones. -/
theorem test_meets_port_ignores :
    (commandBytes .join).isSome ∧ (commandBytes (.readPeer 0)).isSome
      ∧ (0x00 : Byte) ∉ ([0x01, 0x02, 0x03, 0x04, 0x05, 0x08, 0x09, 0x10, 0x11, 0x12, 0x20, 0x21, 0x22, 0x23, 0x24, 0x25] : List Byte)
      ∧ (0x26 : Byte) ∉ ([0x01, 0x02, 0x03, 0x04, 0x05, 0x08, 0x09, 0x10, 0x11, 0x12, 0x20, 0x21, 0x22, 0x23, 0x24, 0x25] : List Byte) := by
  decide

/-- The least values SET_STATION takes, and the greatest. -/
def leastStation : StationArgs :=
  { id := 1, bitRate := 0, samplePoint := 10, jump := 1, beatMs := 10, threshold := 1, lockBound := 1, quorum := 0
    lateWindow := 0, sendMargin := 100, urgencyStep := 100, markMs := 1 }

def greatestStation : StationArgs :=
  { id := 126, bitRate := 3, samplePoint := 14, jump := 4, beatMs := 1000, threshold := 65535, lockBound := 255
    quorum := 31, lateWindow := 65535, sendMargin := 65535, urgencyStep := 65535, markMs := 1000 }

/-- SetStationWritesSettings, at both ends of every range. -/
theorem test_meets_set_station : offline.stc.station = .offline ∧ ∀ a ∈ ([leastStation, greatestStation] : List StationArgs),
    1 ≤ a.id.toNat ∧ a.id.toNat ≤ 126 ∧ (a.bitRate = 0 ∨ a.bitRate = 3) ∧ 10 ≤ a.samplePoint.toNat
      ∧ a.samplePoint.toNat ≤ 14 ∧ 1 ≤ a.jump.toNat ∧ a.jump.toNat ≤ 4 ∧ 10 ≤ a.beatMs.toNat ∧ a.beatMs.toNat ≤ 1000
      ∧ 1 ≤ a.threshold.toNat ∧ 1 ≤ a.lockBound.toNat ∧ a.quorum.toNat ≤ 31 ∧ 100 ≤ a.sendMargin.toNat
      ∧ 100 ≤ a.urgencyStep.toNat ∧ 1 ≤ a.markMs.toNat ∧ a.markMs.toNat ≤ 1000 := by decide

/-- SetLineMovesLineToSafeLevel and SetTablesWriteNamedEntry: the first and the last line, input and entry. -/
theorem test_meets_set_tables :
    (0 : Byte).toNat = (0 : Fin 8).val ∧ (7 : Byte).toNat = (7 : Fin 8).val ∧ (3 : Byte).toNat = (3 : Fin 4).val
      ∧ (15 : Byte).toNat = (15 : Fin 16).val ∧ (126 : Byte).toNat ≤ 126 ∧ (1048575 : BitVec 24).toNat ≤ 1048575
      ∧ (3 : Byte).toNat = Action.pulse.code ∧ (4 : Byte).toNat = Action.note.code ∧ 1 ≤ (1 : BitVec 16).toNat := by
  decide

/-- ConfigurationRefused: a station that is not OFFLINE, and the values next to each range. -/
theorem test_meets_configuration_refused :
    listening.stc.station ≠ .offline ∧ (0 : Byte).toNat = 0 ∧ 126 < (127 : Byte).toNat ∧ 3 < (4 : Byte).toNat
      ∧ (9 : Byte).toNat < 10 ∧ 14 < (15 : Byte).toNat ∧ 1000 < (1001 : BitVec 16).toNat ∧ 31 < (32 : Byte).toNat
      ∧ (99 : BitVec 16).toNat < 100 ∧ 8 ≤ (8 : Byte).toNat ∧ (8 : Byte) ≠ 0xFF ∧ 16 ≤ (16 : Byte).toNat
      ∧ 1048575 < (1048576 : BitVec 24).toNat ∧ 5 ≤ (5 : Byte).toNat := by decide

/-- JoinChecksAndStarts: each check failing in turn, and all passing at the edge of the last. -/
theorem test_meets_join :
    joined.stc.station ≠ .offline ∧ draining.stc.station = .offline ∧ draining.stc.draining = true
      ∧ State.reset.stc.config.id.toNat = 0 ∧ 126 < (127 : StationId).toNat ∧ offline.stc.draining = false
      ∧ 1 ≤ offline.stc.config.id.toNat ∧ (126 : StationId).toNat ≤ 126
      ∧ (15 : Nat) * 16 ≤ 240 ∧ (239 : Nat) < 15 * 16 ∧ offline.stc.config.lockBound < offline.stc.config.threshold * 16 := by
  decide

/-- RestartResetsEveryBlock: a LIU that drains, as sender and as signaller, and one that does not. -/
theorem test_meets_restart :
    sending.PortOpen ∧ Claims.draining sending.liu.state ∧ receiving.PortOpen ∧ ¬Claims.draining receiving.liu.state
      ∧ Claims.draining (run (.errorDetected .bit) sending).liu.state
      ∧ ¬Claims.draining (run (.errorDetected .crc) receiving).liu.state := by
  simp only [Claims.draining, State.PortOpen]
  decide

/-- SharedPostCreatesCueRecord: the nearest due time, the farthest, and slot 1 behind a taken slot 0. -/
theorem test_meets_shared_post :
    let s := withRecords [cueRecord 0 7 .waiting] joined
    s.stc.station = .joined ∧ (3967 : BitVec 16).toNat ≤ 3967 ∧ (0 : BitVec 3).toNat = Action.set.code
      ∧ s.stc.config.sendMargin < (s.micros + 501 - s.micros).toNat
      ∧ (s.micros + 1073741824 - s.micros).toNat ≤ 2 ^ 30
      ∧ (∀ r ∈ s.sq.records, r.tag.slot ≠ 1) ∧ (∀ j : Fin 16, j < 1 → ∃ r ∈ s.sq.records, r.tag.slot = j)
      ∧ (∀ r ∈ joined.sq.records, r.tag.slot ≠ 0) := by decide

/-- The CUE record of the state above is not of cue number 3967. -/
theorem test_meets_shared_post_key :
    ∀ r ∈ (withRecords [cueRecord 0 7 .waiting] joined).sq.records, ∀ c, r.body = .cueBody c → c.number.toNat ≠ 3967 := by
  intro r m c h
  have only : r = cueRecord 0 7 .waiting := by simpa [withRecords, State.setSq] using m
  subst only
  cases h
  decide

/-- SharedPostRefusedInOrder: outside JOINED, each value next to its range, a due time at the send margin and one beyond the horizon, a cue number held, and no slot free. -/
theorem test_meets_shared_post_refused :
    listening.stc.station ≠ .joined ∧ 3967 < (3968 : BitVec 16).toNat ∧ 4 < (5 : BitVec 3).toNat
      ∧ ((500 : Micros) - 0).toNat ≤ joined.stc.config.sendMargin ∧ 2 ^ 30 < ((1073741825 : Micros) - 0).toNat
      ∧ (∃ r ∈ (withRecords allTaken joined).sq.records, r = cueRecord 7 7 .waiting)
      ∧ ∀ j : Fin 16, ∃ r ∈ (withRecords allTaken joined).sq.records, r.tag.slot = j := by decide

/-- LocalPostDecidedAsArrival: due now, next µs, at the horizon and beyond it, room, none, and an entry of the key. -/
theorem test_meets_local_post :
    let e := Claims.localEntry aCue .set none joined
    let full := withSchedule fullSchedule joined
    joined.csu.word = none ∧ ((0 : Micros) - 0).toNat = 0 ∧ 1 ≤ ((1 : Micros) - 0).toNat ∧ ((1073741824 : Micros) - 0).toNat ≤ 2 ^ 30
      ∧ 2 ^ 30 < ((1073741825 : Micros) - 0).toNat
      ∧ (∀ x ∈ joined.csu.schedule, x.key ≠ e.key) ∧ joined.csu.schedule.length < 32
      ∧ (∀ x ∈ full.csu.schedule, x.key ≠ e.key) ∧ 32 ≤ full.csu.schedule.length
      ∧ full.csu.schedule.getLast? = some (anEntry 31 1031)
      ∧ ¬standsBefore none full.micros e (anEntry 31 1031)
      ∧ standsBefore none full.micros (Claims.localEntry { aCue with due := 600 } .set none joined) (anEntry 31 1031)
      ∧ (withSchedule [e] joined).csu.schedule.find? (fun x => x.key = e.key) = some e
      ∧ (withWord .backward full).csu.word = some .backward ∧ (withWord .backward full).stc.station = .joined := by
  simp only [standsBefore]
  decide

/-- LocalPostDecidedAsArrival: a topic no entry matches, and one that entry 3 matches first, whose target is NONE. -/
theorem test_meets_local_target :
    Claims.localTarget 0x0312 joined none
      ∧ Claims.localTarget 0x0312 (joined.setIku { joined.iku with subscriptions := table12 }) (some 2)
      ∧ Claims.localTarget 0x0455 (joined.setIku { joined.iku with subscriptions := table12 }) none := by
  simp only [Claims.localTarget, Claims.subscribes]
  refine ⟨.inr (by decide), .inl ⟨0, by decide⟩, .inl ⟨3, by decide⟩⟩

/-- PostsAndRecallsRefused: origins 0 and 127, cue number 4096, and no room for a recall that matches nothing. -/
theorem test_meets_posts_refused :
    (0 : Byte).toNat = 0 ∧ 126 < (127 : Byte).toNat ∧ 4095 < (4096 : BitVec 16).toNat
      ∧ Claims.recallNamed (.byKey 126 4095) (.byKey { origin := 126, number := 4095 })
      ∧ ∀ j : Fin 16, ∃ r ∈ (withRecords allTaken joined).sq.records, r.tag.slot = j :=
  ⟨by decide, by decide, by decide, ⟨by decide, by decide, by decide, rfl⟩, by decide⟩

/-- A RECALL that waits behind the record sending sends. -/
def heldRecall : Record :=
  { cueRecord 3 0 (.held { slot := 2, generation := 3 }) with body := .recallBody (.byTopic 0x0312 0xFFFF), stale := none }

/-- Sending, with a matching record that waits in slot 0 and a RECALL held behind the one in flight. -/
def recalling : State := withRecords [cueRecord 0 7 .waiting, cueRecord 2 310 .inFlight, heldRecall] sending

/-- What SharedRecallWithdrawsAndCreatesRecall withdraws there. -/
def recalled (s : State) : State :=
  Claims.allLeft
    (fun r => decide (r.state = .waiting) && Claims.recallMatchesRecord 12 (.byTopic 0x0312 0xFFFF) r) .withdrawn s

theorem test_queue_ok : sending.QueueOk ∧ recalling.QueueOk ∧ joined.QueueOk ∧ sendingBeat.QueueOk := by
  refine ⟨⟨by decide, by decide, ?_, by decide, by decide, ?_⟩, ⟨by decide, by decide, ?_, by decide, by decide, ?_⟩,
    ⟨by decide, by decide, ?_, by decide, by decide, ?_⟩,
    ⟨by decide, by decide, ?_, by decide, by decide, fun b h _ => rfl⟩⟩
  case refine_2 => intro b h; cases h
  case refine_4 => intro b h; cases h
  case refine_6 => intro b h; cases h
  all_goals intro r m behind h
  · have only : r = cueRecord 2 310 .inFlight := by simpa [sending, withRecords, State.setSq, State.setLiu] using m
    subst only; cases h
  · have three : r = cueRecord 0 7 .waiting ∨ r = cueRecord 2 310 .inFlight ∨ r = heldRecall := by
      simpa [recalling, withRecords, State.setSq] using m
    rcases three with e | e | e <;> subst e
    · cases h
    · cases h
    · exact ⟨_, rfl⟩
  · simp [joined, offline, State.reset, State.setStc, State.setLiu, State.setAgu, State.setClu] at m
  · simp [sendingBeat, receiving, joined, offline, State.reset, State.setStc, State.setLiu, State.setAgu, State.setClu,
      State.setSq, State.setBtu] at m

/-- SharedRecallWithdrawsAndCreatesRecall: a matching record waits, which leaves slot 0 free, and one is in flight; and none matches, with slot 0 free. -/
theorem test_meets_shared_recall :
    recalling.stc.station = .joined ∧ Claims.recallNamed (.byTopic 0x0312 0xFFFF) (.byTopic 0x0312 0xFFFF)
      ∧ (∀ r ∈ (recalled recalling).sq.records, r.tag.slot ≠ 0)
      ∧ (∃ x ∈ recalling.sq.records,
        x.state = .inFlight ∧ Claims.recallMatchesRecord 12 (.byTopic 0x0312 0xFFFF) x = true)
      ∧ (∀ r ∈ (recalled joined).sq.records, r.tag.slot ≠ 0)
      ∧ (∀ x ∈ joined.sq.records, x.state = .inFlight → Claims.recallMatchesRecord 12 (.byTopic 0x0312 0xFFFF) x = false)
      ∧ Claims.recallMatchesRecord 12 (.byKey { origin := 12, number := 7 }) (cueRecord 7 7 .waiting) = true := by
  simp only [Claims.recallNamed, true_and]
  decide

/-- LocalRecallRemovesNamedEntries: an entry named by key, and by topic. -/
theorem test_meets_local_recall :
    Claims.recallNamesEntry (.byKey { origin := 4, number := 1 }) (anEntry 1 9) = true
      ∧ Claims.recallNamesEntry (.byTopic 0x0300 0xFF00) (anEntry 1 9) = true := by decide

/-- WithdrawByRecordState and ReadRecordShowsRecord: an unknown tag, a WAITING, a HELD and an IN_FLIGHT record. -/
theorem test_meets_withdraw :
    let held := { cueRecord 1 9 (.held { slot := 2, generation := 3 }) with body := .recallBody (.byTopic 0 0) }
    let s := withRecords [cueRecord 0 7 .waiting, held, cueRecord 2 310 .inFlight] joined
    (s.sq.records.map fun r => r.tag.slot).Nodup ∧ (∀ r ∈ s.sq.records, r.tag ≠ { slot := 0, generation := 4 })
      ∧ cueRecord 0 7 .waiting ∈ s.sq.records ∧ (cueRecord 0 7 .waiting).state ≠ .inFlight
      ∧ held ∈ s.sq.records ∧ held.state ≠ .inFlight
      ∧ cueRecord 2 310 .inFlight ∈ s.sq.records := by decide

/-- ReadNoticeTakesOldest: empty, one notice, and 32 with one lost. -/
theorem test_meets_read_notice :
    let full := offline.setLpu { offline.lpu with notices := List.replicate 32 aNotice, lost := 1 }
    offline.lpu.notices = [] ∧ full.NoticesOk ∧ full.lpu.notices = aNotice :: List.replicate 31 aNotice
      ∧ 0 < full.lpu.lost := by
  refine ⟨by decide, ⟨by decide, by decide, by decide⟩, by decide, by decide⟩

/-- ReadsOfTablesShowEntries: the last index, one beyond it, a free and a taken one. -/
theorem test_meets_reads :
    let s := (withSchedule [anEntry 1 9] joined).setAgu { joined.agu with peers := joined.agu.peers.set 31 (some (aPeer 4 5)) }
    32 ≤ (32 : Byte).toNat ∧ (31 : Byte).toNat = (31 : Fin 32).val ∧ s.agu.peers[(31 : Fin 32)] = some (aPeer 4 5)
      ∧ s.agu.peers[(0 : Fin 32)] = none ∧ s.csu.schedule[(0 : Byte).toNat]? = some (anEntry 1 9)
      ∧ s.csu.schedule[(31 : Byte).toNat]? = none := by decide

/-- JOINED with input 0 rising and announcing, its spacing end as given. -/
def marking (announce : Bool) (stop : Option Micros) : State :=
  joined.setMku
    { joined.mku with
      inputs := joined.mku.inputs.set 0
        { select := .rising, announce := announce, notify := true, spacing := 1, spacingEnd := stop, sequence := 255 } }

/-- MarkEdgeIgnoredOrTaken: an edge not selected, a spacing end one µs ahead, and one just reached. -/
theorem test_meets_mark_edge_ignored :
    offline.stc.station ≠ .joined ∧ ¬Claims.selectTakes (marking true none).mku.inputs[(0 : Fin 4)].select .falling
      ∧ (marking true (some 1)).mku.inputs[(0 : Fin 4)].spacingEnd = some 1
      ∧ Claims.ahead 1 (marking true (some 1)).micros ∧ ¬Claims.ahead 0 (marking true (some 0)).micros := by
  simp only [Claims.selectTakes, Claims.ahead]
  decide

/-- MarkEdgeTakenCountsAndAnnounces: taken without announcing, with a slot, and with none. -/
theorem test_meets_mark_edge_taken :
    Claims.selectTakes (marking true none).mku.inputs[(0 : Fin 4)].select .rising
      ∧ (∀ r : Fin 8, ¬Claims.reactionMatches (marking true none).mku.reactions[r] 12 0 .rising)
      ∧ (marking false none).mku.inputs[(0 : Fin 4)].announce = false
      ∧ (marking true none).mku.inputs[(0 : Fin 4)].announce = true
      ∧ (∀ r ∈ (marking true none).sq.records, r.tag.slot ≠ 0)
      ∧ Claims.ahead (microsOf ((marking true none).btu.latch - 3) + BitVec.ofNat 32 (10 * 1000)) (marking true none).micros
      ∧ (∀ j : Fin 16, ∃ r ∈ (withRecords allTaken (marking true none)).sq.records, r.tag.slot = j)
      ∧ ¬Claims.ahead (microsOf ((at' 20000 (marking true none)).btu.latch - 3) + BitVec.ofNat 32 (10 * 1000))
        (at' 20000 (marking true none)).micros := by
  simp only [Claims.selectTakes, Claims.reactionMatches, Claims.ahead]
  decide

/-- 9.6: an announced mark whose stale time is already reached leaves at once as STALE, its slot's generation counted on. -/
theorem test_mark_stale_at_once :
    let s := at' 20000 (marking true none)
    let quiet := s.setMku { s.mku with inputs := s.mku.inputs.set 0 { s.mku.inputs[(0 : Fin 4)] with notify := false } }
    let t := run (.markEdge 0 .rising) quiet
    t.sq.records = [] ∧ t.sq.generations[(0 : Fin 16)] = 1 ∧ t.sq.nextOrder = 1
      ∧ t.lpu.notices = [{ posted := 20000, body := .sendQueue .stale { slot := 0, generation := 0 } false false }] := by
  decide

/-- MarkEdgeTakenCountsAndAnnounces: an edge seen in a cycle without a step, and one seen in the cycle of a step of 10 µs, on the old time or on the new. -/
theorem test_meets_edge_seen :
    let stepped := (marking true none).setBtu ((marking true none).moveLocal 160 10).btu.tick
    (marking true none).btu.latchFrom = none ∧ stepped.btu.latchFrom = some 0 ∧ stepped.btu.latch = 160
      ∧ stepped.micros = 10 ∧ Claims.ahead (microsOf (stepped.btu.latch - 3) + BitVec.ofNat 32 (10 * 1000)) stepped.micros := by
  simp only [Claims.ahead]
  decide

/-- ReactionsMakeCuesInIndexOrder: an entry that matches, and one that does not. -/
theorem test_meets_reactions :
    let x : Reaction := { Reaction.defaults with enabled := true }
    Claims.reactionMatches x 4 0 .rising ∧ ¬Claims.reactionMatches Reaction.defaults 4 0 .rising := by
  simp only [Claims.reactionMatches]
  decide

/-- ArrivalDecided: ahead at the horizon and beyond it, room and none, an entry of the key; due now, and one µs beyond the late window. -/
theorem test_meets_arrival :
    let full := withSchedule fullSchedule joined
    Claims.ahead (1073741824 : Micros) joined.micros ∧ ((1073741824 : Micros) - joined.micros).toNat ≤ 2 ^ 30
      ∧ Claims.ahead (1073741825 : Micros) joined.micros ∧ 2 ^ 30 < ((1073741825 : Micros) - joined.micros).toNat
      ∧ (∀ x ∈ full.csu.schedule, x.key ≠ (anEntry 99 5000).key) ∧ 32 ≤ full.csu.schedule.length
      ∧ full.csu.schedule.getLast? = some (anEntry 31 1031) ∧ ¬standsBefore none full.micros (anEntry 99 5000) (anEntry 31 1031)
      ∧ standsBefore none full.micros (anEntry 99 5) (anEntry 31 1031)
      ∧ joined.csu.word = none ∧ (withWord .backward joined).csu.word = some .backward
      ∧ (withSchedule [anEntry 99 5] joined).csu.schedule.find? (fun x => x.key = (anEntry 99 5000).key) =
        some (anEntry 99 5)
      ∧ ¬Claims.ahead (aNote 1 1000).due (at' 1000 joined).micros
      ∧ ((at' 1100 joined).micros - (aNote 1 1000).due).toNat ≤ joined.stc.config.lateWindow
      ∧ joined.stc.config.lateWindow < ((at' 1101 joined).micros - (aNote 1 1000).due).toNat
      ∧ (withSchedule [aNote 1 2000] (at' 1000 joined)).csu.schedule.find? (fun x => x.key = (aNote 1 1000).key) =
        some (aNote 1 2000) := by
  simp only [Claims.ahead, standsBefore]
  decide

/-- ArrivalPastDueDecided: an arrival 250 µs late on line 2 with a period of 100 µs, three firings left of it, re-enters as its last, or not where it was its last. -/
theorem test_meets_arrival_past_due :
    let e := { anEntry 1 1000 with rpt := some { period := 100, count := 4 } }
    let s := at' 1250 joined
    (∀ x ∈ s.csu.schedule, x.key ≠ e.key)
      ∧ ((Claims.lateHandled e 250 s).2.map fun again => (again.due, again.rpt, again.late)) =
        some (1300, some { period := 100, count := 1 }, false)
      ∧ (Claims.lateHandled e 50 s).2.map (fun again => again.late) = some true
      ∧ (Claims.lateHandled e 350 s).2 = none ∧ s.csu.schedule.length < 32
      ∧ (s.decideArrival e).lpu.notices.map Notice.body = [.schedule .missed e.key (some 2) 3] := by decide

/-- LineActionsAndGuarding: a pulse end ahead, and one reached. -/
theorem test_meets_line_actions : Claims.ahead (1 : Micros) 0 ∧ ¬Claims.ahead (0 : Micros) 0 ∧ ¬Claims.ahead (2147483648 : Micros) 0 := by
  simp only [Claims.ahead]
  decide

/-- SofBeginsFrame: idle without and with an offer. -/
theorem test_meets_sof :
    joined.liu.state = .idle ∧ joined.liu.attempt = none
      ∧ (sending.setLiu { sending.liu with state := .idle }).liu.attempt = sending.liu.attempt
      ∧ sending.liu.attempt.isSome ∧ receiving.liu.state ≠ .idle := by decide

/-- SofBeginsFrame: an offer of a record and of the BEAT not yet driven; and edges in quantum 1, late, early, early enough to end the bit, and a second one. -/
theorem test_meets_sof_offer :
    let idle := fun s : State => s.setLiu { s.liu with state := .idle }
    let c : LiuSettings := { id := 12, bitRate := .k1000, samplePoint := 12, jump := 2 }
    let quantum := fun e : Nat => ({ bit := 7, cycle := e - 1, shift := 0, resynced := false } : BitTiming)
    (∃ a, Claims.attemptOf a (cueRecord 2 310 .inFlight) (idle sending))
      ∧ (run (.sof true false) (idle sending)).sq.records.map (fun r => r.state) = [.waiting]
      ∧ (idle sendingBeat).sq.beat = some (beatRecord true false)
      ∧ (run (.sof true false) (idle sendingBeat)).sq.beat = some (beatRecord false false)
      ∧ (quantum 1).edge c = quantum 1 ∧ ((quantum 12).edge c).shift = 2 ∧ ((quantum 2).edge c).shift = 1
      ∧ ((quantum 13).edge c).shift = -2 ∧ (quantum 16).edge c = { BitTiming.start with bit := 8 }
      ∧ (((quantum 3).edge c).edge c) = (quantum 3).edge c :=
  ⟨⟨_, rfl, rfl, by decide, rfl⟩, by decide⟩

/-- The attempt of the record sending sends. -/
theorem test_meets_attempt :
    ∃ a, Claims.attemptOf a (cueRecord 2 310 .inFlight) sending ∧ sending.liu.state = .sending
      ∧ sending.stc.draining = false ∧ (sending.sq.records.map fun r => r.tag.slot).Nodup :=
  ⟨_, ⟨rfl, rfl, by decide, rfl⟩, rfl, rfl, by decide⟩

/-- LostArbitrationReturnsRecordOrBeat and ErrorOutcomeOfRecord: a stale time ahead, one at the horizon, one reached and one beyond the horizon. -/
theorem test_meets_stale :
    ¬Claims.staleNow (some 1) 0 ∧ ¬Claims.staleNow (some 1073741824) 0 ∧ Claims.staleNow (some 0) 0
      ∧ Claims.staleNow (some 1073741825) 0 ∧ ¬Claims.staleNow none 0 := by
  simp only [Claims.staleNow, Claims.ahead, Option.some.injEq, exists_eq_left', reduceCtorEq, false_and, exists_false]
  decide

/-- A BEAT that is being sent, and one a newer BEAT is pending behind. -/
theorem test_meets_beat :
    sendingBeat.liu.state = .sending ∧ sendingBeat.sq.beat = some (beatRecord true false)
      ∧ (beatRecord true true).superseded = true ∧ sendingBeat.agu.pendingBeat = none
      ∧ Claims.ahead aBeat.stale sendingBeat.micros ∧ sendingBeat.fcu.state = .active ∧ sendingBeat.fcu.score ≤ 95
      ∧ sendingBeat.presentPeers = 0
      ∧ ∀ a ∈ sendingBeat.liu.attempt, parseFrame (a.sentFrame sendingBeat.btu.capture) ≠ none ∧ a.frame.cls = .beat := by
  simp only [Claims.ahead]
  decide

/-- OfferTakesLeastWaiting: nothing waits, or only a record whose stale time is reached, which leaves; a BEAT waits; and two records wait, the nearer of them before the other. -/
theorem test_meets_offer :
    let gone := withRecords [{ cueRecord 0 7 .waiting with stale := some 0 }] joined
    let near := { cueRecord 2 310 .waiting with stale := some 700 }
    let two := withRecords [cueRecord 0 7 .waiting, near] joined
    joined.liu.state = .idle ∧ joined.liu.attempt = none ∧ joined.stc.station = .joined ∧ joined.fcu.state = .active
      ∧ joined.liu.holdOff = false ∧ (∀ r ∈ (Claims.staleLeft gone).sq.records, r.state ≠ .waiting)
      ∧ (Claims.staleLeft gone).lpu.notices.length = 1 ∧ (Claims.staleLeft joined).sq.beat = none
      ∧ (Claims.staleLeft (joined.setSq { joined.sq with beat := some (beatRecord false false) })).sq.beat =
        some (beatRecord false false)
      ∧ near ∈ (Claims.staleLeft two).sq.records ∧ near.state = .waiting ∧ (Claims.staleLeft two).sq.beat = none := by
  decide

/-- The same: the record with the nearer stale time, and a RECALL, stand before a CUE. -/
theorem test_meets_offer_order :
    let near := { cueRecord 2 310 .waiting with stale := some 700 }
    Claims.selectedBefore 0 (Claims.candidate near joined) (Claims.candidate (cueRecord 0 7 .waiting) joined)
      ∧ Claims.selectedBefore 0 (Claims.candidate heldRecall joined) (Claims.candidate near joined) := by
  simp only [Claims.selectedBefore]
  decide

/-- OfferTakesLeastWaiting: each state in which there is no offer. -/
theorem test_meets_no_offer :
    receiving.liu.state ≠ .idle ∧ (sending.setLiu { sending.liu with state := .idle }).liu.attempt ≠ none
      ∧ listening.stc.station ≠ .joined ∧ (inFault .silenced 199 0 (some 100000) joined).fcu.state = .silenced
      ∧ (inFault .barred 0 0 none joined).fcu.state = .barred
      ∧ (joined.setLiu { joined.liu with holdOff := true }).liu.holdOff = true := by decide

/-- OFFER puts the least of two records in flight. -/
theorem test_offer_takes_least :
    let near := { cueRecord 2 310 .waiting with stale := some 700 }
    (run .offer (withRecords [cueRecord 0 7 .waiting, near] joined)).attemptPlace = some (.slot 2) := by decide

/-- ErrorOrAcceptanceEndsAttempt: the states and kinds of its groups. -/
theorem test_meets_errors :
    let idle := sending.setLiu { sending.liu with state := .idle }
    let withPeer := sending.setAgu { sending.agu with peers := sending.agu.peers.set 0 (some (aPeer 4 0)) }
    idle.liu.attempt.isSome ∧ sending.liu.state = .sending ∧ 0 < withPeer.presentPeers
      ∧ receiving.liu.state = .receiving ∧ receiving.stc.draining = false ∧ draining.stc.draining = true
      ∧ draining.liu.state = .sending ∧ Claims.errorAsSender .bit idle ∧ Claims.errorAsSender .form sending
      ∧ Claims.errorAsSender .ack withPeer ∧ sendingBeat.stc.draining = false := by
  simp only [Claims.errorAsSender]
  decide

/-- The same: a GUARDED sender of a BEAT, and one whose BEAT is superseded by one that is pending. -/
theorem test_meets_beat_sent :
    let superseded := (sendingBeat.setSq { sendingBeat.sq with beat := some (beatRecord true true) }).setAgu
      { sendingBeat.agu with pendingBeat := some { aBeat with sequence := 2 } }
    (inFault .guarded 96 0 none superseded).FaultOk ∧ superseded.agu.pendingBeat.isSome
      ∧ (run (.acceptance mark4 true) (inFault .guarded 96 0 none superseded)).sq.beat.map (fun b => (b.inFlight, b.beat.sequence)) =
        some (false, 2)
      ∧ (run (.acceptance mark4 true) (inFault .guarded 96 0 none superseded)).lpu.notices.map Notice.body =
        [.faultState .guarded .active] :=
  ⟨⟨show (96 : Nat) ≤ 96 ∧ (96 : Nat) ≤ 191 by decide, by decide, by decide, by decide, by decide⟩, by decide,
    by decide, by decide⟩

/-- The outcomes of the same: a record and the BEAT at their 31st and their 32nd error attempt, a record with its withdraw-pending flag set, and one whose stale time is reached. -/
theorem test_error_outcomes :
    let tag : Tag := { slot := 2, generation := 3 }
    let after := fun r : Record => run (.errorDetected .bit) (withRecords [r] sending)
    let notices := fun r : Record => (after r).lpu.notices.map Notice.body
    let beatAfter := fun n : Nat =>
      (run (.errorDetected .bit)
          (sendingBeat.setSq { sendingBeat.sq with beat := some { beatRecord true false with errors := n } })).sq.beat
    notices { cueRecord 2 310 .inFlight with errors := 31 } = [.sendQueue .failed tag false false]
      ∧ (after { cueRecord 2 310 .inFlight with errors := 30 }).sq.records.map (fun r => (r.state, r.errors)) =
        [(.waiting, 31)]
      ∧ notices { cueRecord 2 310 .inFlight with withdrawPending := true } = [.sendQueue .withdrawn tag false false]
      ∧ notices { cueRecord 2 310 .inFlight with stale := some 0 } = [.sendQueue .stale tag false false]
      ∧ beatAfter 31 = none ∧ beatAfter 30 = some { beatRecord false false with errors := 31 } := by decide

/-- The acceptance premises of the same: FaultOk, an ack, and none while no peer is PRESENT. -/
theorem test_meets_acceptance_sends : sending.FaultOk ∧ sending.stc.station = .joined ∧ sending.presentPeers = 0 :=
  ⟨⟨show (0 : Nat) ≤ 95 by decide, by decide, by decide, by decide⟩, by decide, by decide⟩

/-- Sending a record of another body in the slot and attempt that sending uses. -/
def sendingBody (body : RecordBody) : State :=
  (withRecords [{ cueRecord 2 310 .inFlight with body := body, stale := none }] sending).setLiu
    { sending.liu with attempt := some { place := .slot 2, frame := frameOf 12 0 0 body.content, stamp := none } }

set_option maxRecDepth 10000 in
/-- 6.3: at home an own CUE is scheduled through the station's own table or counted, an own RECALL acts on the schedule, and an own MARK meets no reaction. -/
theorem test_own_frames_at_home :
    let reacting := sending.mku.reactions.set 0 { Reaction.defaults with enabled := true, offset := 100 }
    let accept := run (.acceptance mark4 true)
    let subscribed := sending.setIku { sending.iku with subscriptions := table12 }
    (accept subscribed).csu.schedule.map (fun e => (e.key, e.due, e.target)) =
        [({ origin := 12, number := 310 }, 60000, some 2)]
      ∧ (accept sending).csu.schedule = [] ∧ (accept sending).iku.unsubscribed = 1
      ∧ (let t := accept
          (withSchedule [{ anEntry 1 9 with notify := false }] (sendingBody (.recallBody (.byTopic 0x0312 0xFFFF))))
        t.csu.schedule = []
          ∧ t.lpu.notices.map Notice.body = [.sendQueue .sent { slot := 2, generation := 3 } false false])
      ∧ (accept ((sendingBody (.markBody { input := 0, edge := .rising, sequence := 1, capture := 0 })).setMku
          { sending.mku with reactions := reacting })).csu.schedule = []
      ∧ (run (.acceptance mark4 true) (receiving.setMku { sending.mku with reactions := reacting })).csu.schedule.map
          Entry.key = [{ origin := 12, number := 3968 }]
      ∧ ([.recallBody (.byTopic 0x0312 0xFFFF), .markBody { input := 0, edge := .rising, sequence := 1, capture := 0 },
          (cueRecord 2 310 .inFlight).body] : List RecordBody).all (fun body =>
        parseFrame (frameOf 12 0 0 body.content) = some body.content) := by decide

/-- InterframeSpaceAndItsError, LineStatesMove and LineEventsElsewhereChangeNothing: every LIU state is met. -/
theorem test_meets_liu_states :
    (joined.setLiu (liuIn .spacing)).liu.state = .spacing
      ∧ (joined.setLiu (liuIn .integrating)).liu.state = .integrating
      ∧ (joined.setLiu (liuIn (.flagging true .sender))).liu.state = .flagging true .sender
      ∧ (joined.setLiu (liuIn (.delimiting .receiver))).liu.state = .delimiting .receiver
      ∧ State.reset.liu.state = .stopped ∧ (run .errorFlagEnd (run (.errorDetected .bit) draining)).liu.state = .delimiting .sender := by
  decide

/-- InterframeSpaceAndItsError and RecoveryFromSilenced: a FORM error in the interframe space and a stuck line that make an ACTIVE station GUARDED, in a hold-off. -/
theorem test_errors_after_the_frame :
    let at95 := fun l : LiuState => (inFault .active 95 0 none joined).setLiu { liuIn l with holdOff := true }
    let form := run (.errorDetected .form) (at95 .spacing)
    let stuck := run .stuckLineError (at95 (.delimiting .receiver))
    form.liu.state = .flagging false .receiver ∧ form.liu.holdOff = false ∧ stuck.liu.state = .delimiting .receiver
      ∧ stuck.liu.holdOff = false ∧ form.lpu.notices.map Notice.body = [.faultState .active .guarded]
      ∧ stuck.lpu.notices = form.lpu.notices := by decide

/-- AcceptanceDispatchesByClass: the four classes and a MALFORMED frame, from the first and the last station id. -/
theorem test_meets_acceptance :
    1 ≤ (mark4.station).toNat ∧ mark4.station ≠ receiving.stc.config.id
      ∧ ({ mark4 with station := 126 } : Frame).station.toNat ≤ 126 ∧ parseFrame { mark4 with payload := [] } = none
      ∧ (parseFrame mark4).isSome ∧ (parseFrame (frame4 (aBeat.content 0))).isSome
      ∧ (parseFrame (frame4 (.recallContent (.byTopic 0 0)))).isSome
      ∧ (parseFrame (frame4 (.cueContent { number := 1, action := .set, topic := 0x0312, due := 9, width := none, rpt := none }))).isSome
      ∧ receiving.btu.capture = some { time := 0, confirmed := true } := by decide

/-- AcceptanceDispatchesByClass: a station that receives while JOINED, and while LISTENING. -/
theorem test_meets_reception :
    receiving.FaultOk ∧ (listening.setLiu (liuIn .receiving)).FaultOk
      ∧ (listening.setLiu (liuIn .receiving)).stc.station = .listening :=
  ⟨⟨show (0 : Nat) ≤ 95 by decide, by decide, by decide, by decide⟩,
    ⟨show (0 : Nat) ≤ 95 by decide, by decide, by decide, by decide⟩, rfl⟩

/-- LISTENING, receiving a frame whose SOF was captured at 0. -/
def hearing : State :=
  (listening.setLiu (liuIn .receiving)).setBtu { listening.btu with capture := some { time := 0, confirmed := true } }

set_option maxRecDepth 10000 in
/-- 6.2 and 6.3: frames of station 0 and 127 are MALFORMED and not heard; while LISTENING a MARK goes no further, a BEAT is heard and sampled, and one that is MALFORMED is heard and counted. -/
theorem test_reception :
    let beat := frame4 (aBeat.content 48)
    (run (.acceptance { mark4 with station := 0 } true) receiving).lpu.notices.map Notice.body = [.peer .malformed 0]
      ∧ (run (.acceptance { mark4 with station := 127 } true) receiving).lpu.notices.map Notice.body =
        [.peer .malformed 127]
      ∧ (run (.acceptance mark4 true) hearing).lpu.notices = [] ∧ (run (.acceptance mark4 true) hearing).iku = hearing.iku
      ∧ (run (.acceptance beat true) hearing).agu.peers[(0 : Fin 32)].map (fun p => (p.station, p.offset)) =
        some (4, some 48)
      ∧ (let t := run (.acceptance { beat with payload := [] } true)
          (hearing.setAgu
            { hearing.agu with peers := hearing.agu.peers.set 0 (some { aPeer 4 0 with rounds := 2 }) })
        t.agu.peers[(0 : Fin 32)].map (fun p => p.rounds) = some 0
          ∧ t.lpu.notices.map Notice.body = [.peer .malformed 4]) := by decide

/-- JOINED, with peers as given from index 0 on and every other index free. -/
def withPeers (peers : List Peer) : State :=
  receiving.setAgu { receiving.agu with peers := Vector.ofFn fun i : Fin 32 => peers[i.val]? }

/-- 32 peers, all PRESENT but the ones at two indices, which are SILENT. -/
def fullTable (a b : Nat) (rounds : Nat) : List Peer :=
  (List.range 32).map fun i =>
    if i = a ∨ i = b then
      { Peer.created (BitVec.ofNat 7 (40 + i)) with presence := .silent, rounds := if i = a then rounds else 5 }
    else Peer.created (BitVec.ofNat 7 (40 + i))

set_option maxRecDepth 10000 in
/-- HeardReportTaken and BeatSampleTaken: an entry of the station, PRESENT and SILENT; none, with an index free; and a full table with SILENT entries, where equal ones give the lowest index, and with none. -/
theorem test_meets_heard :
    let silent := { aPeer 4 0 with presence := .silent, rounds := 7 }
    (withPeers [aPeer 9 0, aPeer 4 0]).agu.peers[(1 : Fin 32)] = some (aPeer 4 0)
      ∧ (∀ j : Fin 32, ∀ q ∈ (withPeers [aPeer 9 0, aPeer 4 0]).agu.peers[j], q.station = 4 → j = 1)
      ∧ ((withPeers [silent]).heard 4).lpu.notices.map Notice.body = [.peerState 4 .present]
      ∧ (∀ j : Fin 32, ∀ q ∈ (withPeers [aPeer 9 0]).agu.peers[j], q.station ≠ 4)
      ∧ (withPeers [aPeer 9 0]).agu.peers[(1 : Fin 32)] = none
      ∧ (∀ j : Fin 32, (withPeers (fullTable 3 8 5)).agu.peers[j] ≠ none)
      ∧ ((withPeers (fullTable 3 8 5)).heard 4).lpu.notices.map Notice.body =
        [.peerState 43 .freed, .peerState 4 .present]
      ∧ ((withPeers (fullTable 3 8 4)).heard 4).lpu.notices.map Notice.body =
        [.peerState 48 .freed, .peerState 4 .present]
      ∧ ((withPeers (fullTable 99 99 0)).heard 4).lpu.notices.map Notice.body = [.peer .peersFull 4] := by decide

/-- Subscriptions that all pass a topic over, and entry 1 as the first that matches. -/
theorem test_meets_subscription :
    (∀ i : Fin 16, receiving.iku.subscriptions[i].enabled = false) ∧ table12[(1 : Fin 16)].enabled = true
      ∧ (0x9312 : Topic) &&& 0xFFFF ≠ 0x0312 &&& 0xFFFF ∧ (0x0312 : Topic) &&& 0xFFFF = 0x0312 &&& 0xFFFF := by decide

/-- IdClashBarsStation. -/
theorem test_meets_id_clash :
    let s := listening.setLiu (liuIn .receiving)
    s.liu.state = .receiving ∧ s.stc.station = .listening ∧ ({ mark4 with station := 12 } : Frame).station = s.stc.config.id
      ∧ s.fcu.state = .active ∧ s.fcu.score ≤ 95 := by decide

set_option maxRecDepth 10000 in
/-- IdClashBarsStation: a clash while JOINED in each fault state, GUARDED also where the acceptance makes the station ACTIVE first. -/
theorem test_clash_in_each_fault_state :
    let clash := run (.acceptance { mark4 with station := 12 } true)
    let notices := fun s : State => (clash s).lpu.notices.map Notice.body
    let silenced := inFault .silenced 199 64 (some 1000) receiving
    notices (inFault .active 8 0 none receiving) = [.peer .idClash 12, .faultState .active .barred]
      ∧ notices (inFault .guarded 120 0 none receiving) = [.peer .idClash 12, .faultState .guarded .barred]
      ∧ notices (inFault .guarded 96 0 none receiving) =
        [.faultState .guarded .active, .peer .idClash 12, .faultState .active .barred]
      ∧ notices silenced = [.peer .idClash 12, .faultState .silenced .barred]
      ∧ (clash silenced).fcu =
        { score := 199, state := .barred, spans := 0, run := 0, owed := 0, recovery := none, timeReached := false }
      ∧ notices (inFault .barred 50 0 none receiving) = [.peer .idClash 12]
      ∧ (clash (inFault .barred 50 0 none receiving)).fcu =
        { score := 50, state := .barred, spans := 0, run := 0, owed := 0, recovery := none, timeReached := false } := by
  decide

/-- The same: the four fault states are in their invariant. -/
theorem test_meets_clash_fault_ok :
    (inFault .active 8 0 none receiving).FaultOk ∧ (inFault .guarded 96 0 none receiving).FaultOk
      ∧ (inFault .silenced 199 64 (some 1000) receiving).FaultOk ∧ (inFault .barred 50 0 none receiving).FaultOk :=
  ⟨⟨show (8 : Nat) ≤ 95 by decide, by decide, by decide, by decide, by decide, by decide⟩,
    ⟨show (96 : Nat) ≤ 96 ∧ (96 : Nat) ≤ 191 by decide, by decide, by decide, by decide, by decide, by decide⟩,
    ⟨show (192 : Nat) ≤ 199 ∧ (199 : Nat) ≤ 199 by decide, by decide, by decide, by decide, by decide, by decide⟩,
    ⟨show (50 : Nat) ≤ 199 by decide, by decide, by decide, by decide, by decide, by decide⟩⟩

/-- RecoveryFromSilenced: 62 and 63 spans counted, and 64 with the recovery time to come. -/
theorem test_meets_recovery :
    (inFault .silenced 199 62 (some 100) joined).fcu.spans < 63 ∧ (inFault .silenced 199 63 (some 0) joined).fcu.spans = 63
      ∧ 64 ≤ (inFault .silenced 199 64 (some 100) joined).fcu.spans ∧ .idleSpan ∉ joined.spent
      ∧ .idleSpan ∈ (joined.setSpent [.idleSpan]).spent
      ∧ ¬Claims.ahead (0 : Micros) joined.micros ∧ Claims.ahead (1 : Micros) joined.micros
      ∧ joined.fcu.state ≠ .silenced
      ∧ Claims.expiresNext 100 (inFault .silenced 199 64 (some 100) joined)
      ∧ Claims.expiresNext 100 (inFault .silenced 199 63 (some 100) joined) := by
  simp only [Claims.expiresNext, Claims.ahead]
  decide

set_option maxRecDepth 10000 in
/-- 2.4: at a SILENCED station 11 recessive bits are no idle span, the 12th completes one, and a dominant bit sets the run to 0; the delimiter and the interframe space bring a run of 11, and one idle bit the span; and so does an acknowledged frame. -/
theorem test_idle_spans :
    let s := inFault .silenced 199 0 (some 100000) joined
    let spaced := run .interframeSpaceEnd (run .errorDelimiterEnd (s.setLiu (liuIn (.delimiting .receiver))))
    s.spanRows (List.replicate 11 true) = [] ∧ s.spanRows (List.replicate 12 true) = [.idleSpan]
      ∧ s.spanRows (List.replicate 11 true ++ false :: List.replicate 11 true) = []
      ∧ s.spanRows (List.replicate 25 true) = [.idleSpan, .idleSpan] ∧ joined.spanRows (List.replicate 12 true) = []
      ∧ spaced.fcu.run = 11 ∧ spaced.spanRows [true] = [.idleSpan]
      ∧ (run .idleSpan spaced).fcu.run = 0 ∧ (run .idleSpan spaced).fcu.spans = 1
      ∧ (run (.sof true false) spaced).fcu.run = 0
      ∧ (run (.acceptance mark4 true) (inFault .silenced 199 0 (some 100000) receiving)).fcu.run = 8 := by decide

/-- R26: STUFF on 7 recessive bits leaves a run of 7, and on dominant ones, as FORM, a run of 0; 5 more bits complete a span in the delimiter, whose last 3 and the 3 of the space are a run of 6, with IDLE_SPAN before the row of those bits, behind it, or none, as time then counts it; a dominant bit before the delimiter leaves its 8; and a span is found in front of the dominant bits of a stuck line. -/
theorem test_spans_across_rows :
    let s := inFault .silenced 199 0 (some 100000) receiving
    let stuff := run (.errorDetected .stuff (false :: List.replicate 7 true)) s
    let delimiterEnd := run (.errorDelimiterEnd (List.replicate 8 true))
    let before := run .interframeSpaceEnd (delimiterEnd (run .idleSpan stuff))
    let behind := run .interframeSpaceEnd (run .idleSpan (delimiterEnd stuff))
    let stuck := run (.stuckLineError (List.replicate 5 true ++ List.replicate 16 false)) stuff
    stuff.fcu.run = 7 ∧ stuff.liu.state = .delimiting .receiver ∧ stuff.spanRows (List.replicate 8 true) = [.idleSpan]
      ∧ (run (.errorDetected .stuff (List.replicate 7 false)) s).fcu.run = 0
      ∧ (run .idleSpan stuff).fcu.owed = -1 ∧ (delimiterEnd stuff).fcu.owed = 1
      ∧ before.fcu = { s.fcu with run := 6, spans := 1 } ∧ behind = before
      ∧ (delimiterEnd stuff).settleSpans.fcu = { s.fcu with run := 3, spans := 1 }
      ∧ (run (.errorDelimiterEnd (false :: List.replicate 8 true)) stuff).fcu = { s.fcu with run := 8 }
      ∧ stuck.fcu = { s.fcu with owed := 1 } := by decide

set_option maxRecDepth 10000 in
/-- R26: the last bit of a frame that no station acknowledged completes a span: with IDLE_SPAN before ACCEPTANCE or behind it, the 3 bits of the space are the run. -/
theorem test_span_at_acceptance :
    let s := inFault .silenced 199 0 (some 100000) receiving
    let f : Frame := { cls := .mark, urgency := 4, station := 4, payload := [0, 0, 0, 0, 0, 0, 6] }
    let accepted := run (.acceptance f false)
    let space := run .interframeSpaceEnd
    Claims.quietTail f false = 12 ∧ (accepted s).fcu = { s.fcu with owed := 1 }
      ∧ (space (run .idleSpan (accepted s))).fcu = { s.fcu with run := 3, spans := 1 }
      ∧ (space (accepted (run .idleSpan s))).fcu = { s.fcu with run := 3, spans := 1 } := by decide

/-- R26: at 500 kbit/s a SILENCED station on an idle line counts one bit in each 32 cycles, in the cycle behind the sample point: 12 of them are a span, 30 two spans and a run of 6; and none while it receives. A span that the clock counts is not counted again by an IDLE_SPAN of its cycle. -/
theorem test_idle_line_counts :
    let s := inFault .silenced 199 0 (some 100000) joined
    let clocked := s.passCycles 376
    (s.passCycles 23).fcu.run = 0 ∧ (s.passCycles 24).fcu.run = 1 ∧ (s.runTo 10).fcu.run = 5
      ∧ (s.runTo 24).fcu = { s.fcu with spans := 1 } ∧ (s.runTo 60).fcu = { s.fcu with run := 6, spans := 2 }
      ∧ (s.passCycles 375).fcu = { s.fcu with run := 11 } ∧ clocked.fcu = { s.fcu with spans := 1 }
      ∧ (run .idleSpan clocked).fcu = clocked.fcu ∧ (run .idleSpan (run .idleSpan clocked)).fcu.spans = 2
      ∧ (run .idleSpan clocked.tick).fcu.spans = 2
      ∧ ((s.setLiu (liuIn .receiving)).runTo 10).fcu.run = 0 ∧ Claims.IdleTiming s := by
  simp only [Claims.IdleTiming]
  decide

/-- RecoveryFromSilenced, an idle line: with the recovery time to come, and reached with 63 spans counted; with a span that waits, and without. -/
theorem test_meets_idle_line :
    let s := inFault .silenced 199 63 (some 100) joined
    let noted := s.setFcu { s.fcu with timeReached := true }
    s.FaultOk ∧ noted.FaultOk ∧ (noted.setFcu { noted.fcu with owed := 1 }).FaultOk ∧ Claims.noSpanWaits noted
      ∧ Claims.IdleTiming noted ∧ noted.micros ≠ 100 := by
  simp only [Claims.noSpanWaits, Claims.IdleTiming]
  exact ⟨⟨show (192 : Nat) ≤ 199 ∧ (199 : Nat) ≤ 199 by decide, by decide, by decide, by decide, by decide, by decide⟩,
    ⟨show (192 : Nat) ≤ 199 ∧ (199 : Nat) ≤ 199 by decide, by decide, by decide, by decide, by decide, by decide⟩,
    ⟨show (192 : Nat) ≤ 199 ∧ (199 : Nat) ≤ 199 by decide, by decide, by decide, by decide, by decide, by decide⟩,
    by decide⟩

/-- R27: with the recovery time reached, an idle line returns the station at the bit that completes the 64th span, in µs 23 of the first 12 bits, and time runs on; and a span that waits for its IDLE_SPAN returns it before time passes. -/
theorem test_idle_line_returns :
    let s := inFault .silenced 199 63 (some 0) joined
    let noted := s.setFcu { s.fcu with recovery := some 5, timeReached := true }
    let waits := noted.setFcu { noted.fcu with owed := 1, run := 4 }
    (noted.runTo 100).fcu = FcuState.restarted ∧ (noted.runTo 100).micros = 100
      ∧ (noted.runTo 100).lpu.notices = Claims.noticesAt 23 [.faultState .silenced .active]
      ∧ (noted.runTo 22).fcu = { noted.fcu with run := 11 }
      ∧ (waits.runTo 22).fcu = FcuState.restarted
      ∧ (waits.runTo 22).lpu.notices = Claims.noticesAt 0 [.faultState .silenced .active] := by decide

/-- R27: a recovery time whose expiry comes with 63 spans counted is noted, and expires once; the station returns at the 64th span, also where bus time stands before it again, or 2^31 µs and more behind it; and an idle line brings the 64th on the way. -/
theorem test_recovery_stays_reached :
    let s := inFault .silenced 199 63 (some 100) (joined.setLiu (liuIn .receiving))
    let noted := run .recoveryTimeExpiry s
    s.fcu.timeReached = false ∧ noted.fcu = { s.fcu with timeReached := true }
      ∧ (run .recoveryTimeExpiry (inFault .silenced 199 63 (some 100) joined)).fcu = FcuState.restarted
      ∧ (at' 100 s).dueNow = [.recoveryTimeExpiry] ∧ (at' 100 noted).dueNow = []
      ∧ (run .idleSpan (at' 50 noted)).fcu.state = .active ∧ (run .idleSpan (at' 50 s)).fcu.state = .silenced
      ∧ (run .idleSpan (at' 2147483748 noted)).fcu.state = .active := by decide

/-- R39: at the recovery time, with 64 spans counted, a step taken first leaves it ahead where it is backward and reached where it is forward; the expiry taken first returns the station. The same with 63 spans, where a span counted in that µs notes nothing. -/
theorem test_recovery_time_and_step :
    let at100 := fun spans : Nat => at' 100 (inFault .silenced 199 spans (some 100) joined)
    ((at100 64).reexamineFcu 100 (-50)).fcu = (at100 64).fcu
      ∧ ((at100 64).reexamineFcu 100 50).fcu.state = .active ∧ (run .recoveryTimeExpiry (at100 64)).fcu.state = .active
      ∧ ((at100 63).reexamineFcu 100 (-50)).fcu = (at100 63).fcu
      ∧ ((at100 63).reexamineFcu 100 50).fcu = { (at100 63).fcu with timeReached := true }
      ∧ (run .idleSpan (at100 62)).fcu = { (at100 62).fcu with spans := 63 }
      ∧ (run .idleSpan (at100 63)).fcu.state = .active := by decide

/-- R41: the BEAT of station 12 at 500 kbit/s. Its payload begins in bit 19 on the line, behind SOF, the 17 bits of the header and one stuff bit; its stamp is copied in the cycle that begins it, and keeps that reading: a step in a cycle before moves the stamp, and in that cycle either. -/
theorem test_stamp_copied :
    let f := frameOf 12 0 0 (aBeat.content 0)
    let stamped := fun s : State => (s.liu.attempt.bind Attempt.stamp)
    let stepped := fun (startsNow : Bool) (n : Nat) =>
      stamped (sendingBeat.setLiu
        ((sendingBeat.cyclesPassed n).liu.copyStamp (some { time := 5, confirmed := true }) startsNow))
    payloadStart f = 19 ∧ Claims.payloadStart f = 19
      ∧ stamped (sendingBeat.cyclesPassed 608) = none ∧ stamped (sendingBeat.cyclesPassed 609) = some 0
      ∧ stamped (sendingBeat.cyclesPassed 5000) = some 0 ∧ stamped (sending.cyclesPassed 5000) = none
      ∧ stepped true 607 = none ∧ stepped false 608 = none ∧ stepped true 608 = some 5
      ∧ stepped false 609 = some 0 := by
  decide

/-- StepMovesTimesAndOwnersAct, a stamp: a payload that begins in this cycle, one that has begun, and one yet to begin. -/
theorem test_meets_step_stamp :
    (∃ a, (sendingBeat.cyclesPassed 608).liu.attempt = some a
        ∧ Claims.payloadBegins a (sendingBeat.cyclesPassed 608).liu.timing)
      ∧ (∃ a, (sendingBeat.cyclesPassed 609).liu.attempt = some a
        ∧ Claims.payloadBegun a (sendingBeat.cyclesPassed 609).liu.timing = true)
      ∧ ∃ a, sendingBeat.liu.attempt = some a ∧ Claims.payloadBegun a sendingBeat.liu.timing = false
        ∧ ¬Claims.payloadBegins a sendingBeat.liu.timing := by
  simp only [Claims.payloadBegins]
  exact ⟨⟨_, rfl, by decide⟩, ⟨_, rfl, by decide⟩, _, rfl, by decide, by decide⟩

/-- RunToIsFirstCycleThere, at the greatest corrections. -/
theorem test_meets_run_to :
    (15999999 : Nat) < 16000000 ∧ (-11200 : Int) ≤ (-200) * 16 + -8000 ∧ (200 : Int) * 16 + 8000 ≤ 11200 := by decide

/-- Line 7 in a pulse that ends at 250. -/
def pulsing : State :=
  joined.setClu
    { joined.clu with lines := joined.clu.lines.set 7 { Line.defaults with level := true, pulse := some 250 } }

/-- A late PULSE of 100 µs for line 7 waits in the word of a step, at the end of the pulse of line 7. -/
def lateAtEnd : State :=
  withWord .forward
    (withSchedule [{ anEntry 1 245 with action := .pulse, width := some 100, target := some 7 }] (at' 250 pulsing))

/-- 8.2: the step handling comes before the PULSE_END of its instant; its late PULSE ends the reached pulse, and the PULSE_END does nothing to the new one. -/
theorem test_late_pulse_and_pulse_end :
    .pulseEnd 7 ∈ lateAtEnd.takeWord.spent ∧ lateAtEnd.takeWord.clu.lines[(7 : Fin 8)].pulse = some 350
      ∧ (run (.pulseEnd 7) lateAtEnd).clu = lateAtEnd.takeWord.clu ∧ (run (.pulseEnd 7) lateAtEnd).spent = []
      ∧ (run (.pulseEnd 7) lateAtEnd).csu.word = none := by decide

/-- PulseAndSpacingEnd: an end armed and next, none armed, and one already ended. -/
theorem test_meets_ends :
    pulsing.clu.lines[(7 : Fin 8)].pulse = some 250 ∧ Claims.expiresNext 250 pulsing ∧ .pulseEnd 7 ∉ pulsing.spent
      ∧ (withWord .forward pulsing).takeWord.clu.lines[(7 : Fin 8)].pulse = some 250
      ∧ Claims.expiresNext 250 (withWord .forward pulsing).takeWord
      ∧ .pulseEnd 7 ∉ (withWord .forward pulsing).takeWord.spent
      ∧ .pulseEnd 7 ∈ (pulsing.setSpent [.pulseEnd 7]).takeWord.spent ∧ joined.clu.lines[(7 : Fin 8)].pulse = none ∧ (marking true (some 9)).mku.inputs[(0 : Fin 4)].spacingEnd = some 9
      ∧ Claims.expiresNext 9 (marking true (some 9)) ∧ joined.mku.inputs[(0 : Fin 4)].spacingEnd = none := by
  simp only [Claims.expiresNext]
  decide

/-- ScheduleExpiryFiresFirstEntry: first entries for no line and for line 2, counts 0, 1 and 2. -/
theorem test_meets_schedule_expiry :
    (withSchedule [aNote 1 50] joined).csu.schedule = aNote 1 50 :: [] ∧ Claims.expiresNext 50 (withSchedule [aNote 1 50] joined)
      ∧ (anEntry 1 50).target = some 2 ∧ (anEntry 1 50).action ≠ .note
      ∧ Claims.expiresNext 50 (withSchedule [anEntry 1 50] joined)
      ∧ (∀ count ∈ ([0, 1, 2] : List Nat),
        Claims.expiresNext 50
          (withSchedule [{ anEntry 1 50 with rpt := some { period := 1, count := count } }] joined)) := by
  simp only [Claims.expiresNext]
  decide

/-- 8.2: an action on line 7 at the end of its pulse ends the pulse first, and the PULSE_END of that instant does nothing; the other order ends alike. -/
theorem test_action_and_pulse_end :
    let s := withSchedule [{ anEntry 1 250 with action := .pulse, width := some 100, target := some 7 }] pulsing
    let actionFirst := run (.pulseEnd 7) (run .scheduleExpiry s)
    actionFirst.clu.lines[(7 : Fin 8)].pulse = some 350 ∧ actionFirst.micros = 250 ∧ actionFirst.spent = []
      ∧ (run .scheduleExpiry (run (.pulseEnd 7) s)).clu = actionFirst.clu := by decide

/-- 8.1: no gap shows at the pin between the end of a pulse and the pulse that follows it in one cycle. -/
theorem test_pin_shows_no_gap :
    let s := withSchedule [{ anEntry 1 250 with action := .pulse, width := some 100, target := some 7 }] pulsing
    let t := run .scheduleExpiry (run (.pulseEnd 7) s)
    s.tick.drivenPin 7 = true ∧ (run (.pulseEnd 7) s).cuePin 7 = false ∧ (run (.pulseEnd 7) s).drivenPin 7 = true
      ∧ t.drivenPin 7 = true ∧ t.tick.drivenPin 7 = true := by decide

/-- StepMovesTimesAndOwnersAct: steps forward and backward over a schedule and a send queue; a SILENCED station whose recovery time a step reaches; distances that a step carries behind and beyond. -/
theorem test_meets_step_of_bus_time :
    (16 : Int) ≠ 0 ∧ (-16 : Int) ≠ 0 ∧ Claims.microsChange 0 160 = 10 ∧ Claims.distanceAfter 10 0 10 ≤ 0
      ∧ (inFault .silenced 199 64 (some 10) joined).fcu.spans = 64
      ∧ Claims.leavesAtStep 952000 (withRecords [cueRecord 0 7 .waiting] joined) (cueRecord 0 7 .waiting) = true
      ∧ Claims.leavesAtStep 951984 (withRecords [cueRecord 0 7 .waiting] joined) (cueRecord 0 7 .waiting) = false
      ∧ (withWord .forward (withSchedule [anEntry 1 5] (at' 6 joined))).csu.word = some .forward
      ∧ (((5 : Micros) - 6).toInt ≤ 0) ∧ (withWord .backward joined).csu.word = some .backward
      ∧ 2 ^ 30 < ((1073741825 : Micros) - 0).toNat ∧ ((1073741824 : Micros) - microsOf 0).toNat ≤ 2 ^ 30
      ∧ (-2 ^ 35 : Int) ≤ -34359738368 ∧ (34359738367 : Int) < 2 ^ 35 := by decide

/-- A forward step over an entry of line 2 on a state with the word waiting: fired late, or not made. -/
theorem test_step_handling :
    (withWord .forward (withSchedule [anEntry 1 5] (at' 6 joined))).takeWord.lpu.notices.map Notice.body =
        [.schedule .firedLate { origin := 4, number := 1 } (some 2) 0]
      ∧ (withWord .forward (withSchedule [anEntry 1 5] (at' 106 joined))).takeWord.lpu.notices.map Notice.body =
        [.schedule .missed { origin := 4, number := 1 } (some 2) 1]
      ∧ (withWord .backward (withSchedule [anEntry 1 1073741825] joined)).takeWord.lpu.notices.map Notice.body =
        [.schedule .outOfRange { origin := 4, number := 1 } (some 2) 0] := by decide

/-- StaleTimeExpiryRemovesWaiting: a record and a BEAT that wait. -/
theorem test_meets_stale_expiry :
    cueRecord 0 7 .waiting ∈ (withRecords [cueRecord 0 7 .waiting] joined).sq.records
      ∧ Claims.expiresNext 59500 (withRecords [cueRecord 0 7 .waiting] joined)
      ∧ Claims.expiresNext 50000 (joined.setSq { joined.sq with beat := some (beatRecord false false) }) := by
  simp only [Claims.expiresNext]
  decide

/-- SyncRoundCorrectsAndPlacesBeat and ListenWindowEndJoins: a boundary and a window end that come next. -/
theorem test_meets_round :
    joined.agu.boundary = some 100000 ∧ Claims.expiresNext 100000 joined ∧ 1 ≤ joined.stc.config.beatMs
      ∧ (joined.setAgu { joined.agu with sync := .locked }).agu.sync ≠ .seeking ∧ joined.sq.beat = none
      ∧ listening.stc.windowEnd = some 200000 ∧ Claims.expiresNext 200000 listening
      ∧ joined.RatesOk := by
  simp only [Claims.expiresNext, State.RatesOk]
  decide

/-- A round at 100 000 that corrects by half the offset of peer 4, and steps where that is above 1000 µs. -/
def rounding (offset : Int) (beat : Option BeatRecord) : State :=
  let s := withPeers [aPeer 4 offset]
  (s.setLiu sendingBeat.liu).setSq { s.sq with beat := beat }

/-- The correction of that round. -/
def roundCorrection (offset : Int) : Int :=
  midpoint (0 :: ((rounding offset none).runTo 100000).agePeers.offsets Peer.roundOffset)

set_option maxRecDepth 10000 in
/-- SyncRoundPlacesBeat: rounds that step by less than half an interval and by half of it, and one that does not step; the beat slot empty, WAITING, IN_FLIGHT, and emptied by the step. -/
theorem test_meets_beat_of_round :
    let waiting := { beatRecord false false with beat := { aBeat with stale := 100100 } }
    roundCorrection 64000 = 32000 ∧ 16 * joined.stc.config.threshold < (roundCorrection 64000).natAbs
      ∧ roundCorrection 1600000 = 800000 ∧ Claims.microsChange (BitVec.ofNat 36 (100000 * 16)) 800000 = 50000
      ∧ roundCorrection 16 = 8 ∧ Claims.expiresNext 100000 (rounding 64000 none)
      ∧ Claims.expiresNext 100000 (rounding 16 (some waiting))
      ∧ Claims.expiresNext 100000 (rounding 16 (some (beatRecord true false)))
      ∧ (Claims.sqAfterStep 32000 ((rounding 64000 (some waiting)).runTo 100000)).beat = none
      ∧ (Claims.sqAfterStep 32000 ((rounding 64000 (some (beatRecord true false))).runTo 100000)).beat =
        some (beatRecord true false)
      ∧ (rounding 64000 none).RatesOk ∧ (rounding 16 none).RatesOk := by
  simp only [Claims.expiresNext, State.RatesOk]
  decide

/-- The same: the send queue is in its invariant. -/
theorem test_meets_beat_queue_ok (offset : Int) (beat : Option BeatRecord) : (rounding offset beat).QueueOk :=
  ⟨List.Pairwise.nil, List.nodup_nil, fun _ m => absurd m List.not_mem_nil,
    (fun h => by simp [rounding, withPeers, receiving, joined, offline, State.reset, State.setStc, State.setLiu,
      State.setAgu, State.setClu, State.setSq, State.setBtu] at h), fun _ m => absurd m List.not_mem_nil, fun _ _ _ => rfl⟩

set_option maxRecDepth 10000 in
/-- 4.5: a BEAT of a round that does not step replaces one that waits, and supersedes one in flight and stays pending. -/
theorem test_beat_replaced_or_superseded :
    let waiting := { beatRecord false false with beat := { aBeat with stale := 100100 } }
    (run .syncRound (rounding 16 (some waiting))).sq.beat.map (fun b => (b.beat.sequence, b.beat.stale)) = some (1, 150000)
      ∧ (run .syncRound (rounding 16 (some (beatRecord true false)))).sq.beat = some (beatRecord true true)
      ∧ (run .syncRound (rounding 16 none)).agu.peers[(0 : Fin 32)] = some { aPeer 4 16 with rounds := 1, fresh := false }
      ∧ (run .syncRound (rounding 16 (some (beatRecord true false)))).agu.pendingBeat.map (fun b => b.stale) =
        some 150000 := by decide

set_option maxRecDepth 10000 in
/-- RoundArithmetic: values and the same in rising order, with what four and ten of them leave; a table that ages, falls silent and is freed. -/
theorem test_meets_round_values :
    ([9, -5, 3, 100] : List Int).Perm [-5, 3, 9, 100] ∧ ([-5, 3, 9, 100] : List Int).Pairwise (· ≤ ·)
      ∧ ([-5, 3, 9, 100] : List Int)[1]? = some 3 ∧ ([-5, 3, 9, 100] : List Int)[2]? = some 9
      ∧ midpoint [9, -5, 3, 100] = 6 ∧ midpoint [0, 1, 2, 3, 4, 5, 6, 7, 8, 900] = 4 ∧ midpoint [-4, -3, -9] = -6
      ∧ (withPeers [{ aPeer 4 0 with rounds := 2 }, { aPeer 9 0 with rounds := 15, presence := .silent }]).agePeers.lpu.notices.map
          Notice.body = [.peerState 4 .silent, .peerState 9 .freed]
      ∧ Claims.agingNotices (withPeers [{ aPeer 4 0 with rounds := 2 }, { aPeer 9 0 with rounds := 15, presence := .silent }]) =
        [.peerState 4 .silent, .peerState 9 .freed] := by decide

/-- RoundArithmetic, at the ends of its ranges. -/
theorem test_meets_round_arithmetic :
    (-200 : Int) ≤ -200 ∧ (200 : Int) ≤ 200 ∧ (-127 : Int) ≤ -127 ∧ (0 : Nat) < 10000 ∧ (1000000 : Nat) < 2 ^ 32
      ∧ trimAfter 200 127 8000 = (200, 0) ∧ trimAfter (-200) (-127) (-8000) = (-200, 0)
      ∧ nextMultiple 1000000 4294967295 = 0 ∧ nextMultiple 10000 0 = 10000 := by decide

/-- TransactionBytesDecode, PayloadReadBack, WireReceivesSentFrame and ArbitrationAndErrorsFromBits: premises at the ends of their ranges. -/
theorem test_meets_bytes :
    (Instr.join).wellFormed = true ∧ commandBytes .join = some [0x08]
      ∧ Claims.contentFits (.beatContent 0 1000 .alone 32 0)
      ∧ Claims.contentFits (.recallContent (.byKey { origin := 126, number := 4095 }))
      ∧ Claims.contentFits (.cueContent { number := 3967, action := .pulse, topic := 0, due := 0, width := some 1, rpt := some { period := 16777215, count := 255 } })
      ∧ mark4.payload.length ≤ 15 ∧ (8190 : Nat) < 8191 ∧ (8191 : Nat) < 2 ^ 13 := by
  simp only [Claims.contentFits]
  decide

set_option maxRecDepth 20000 in
/-- A MARK frame received as it was sent. -/
theorem test_mark_frame_received : receive (stuff (regionBits mark4)) = .sound mark4 [] := by decide

/-- Class and urgency all dominant, from station 1: its 7th and 14th bits are stuff bits, inside the arbitration field. -/
def dominantField : Frame := { cls := .beat, urgency := 0, station := 1, payload := [] }

set_option maxRecDepth 20000 in
/-- 1.5 and 1.8: a stuff bit inside the arbitration field sampled dominant is a BIT error and no loss; the station's last bit sampled dominant is a loss, and the one before it sampled recessive a BIT error; and a dominant bit of the end field is FORM, at the sender and at a receiver. -/
theorem test_bits_of_a_frame :
    let line := Claims.lineBits dominantField true
    let sees := fun (n : Nat) => senderEnd 1 dominantField (line.take n ++ [!line.getD n true])
    (wireFields dominantField)[6]? = some (.stuffBit, true) ∧ sees 6 = .error .bit
      ∧ (wireFields dominantField)[13]? = some (.stuffBit, true) ∧ sees 13 = .error .bit
      ∧ (wireFields dominantField)[15]? = some (.arbitration, true) ∧ sees 15 = .lost ∧ sees 14 = .error .bit
      ∧ senderEnd 1 dominantField line = .accepted dominantField true
      ∧ senderEnd 1 dominantField (Claims.lineBits dominantField false) = .error .ack
      ∧ senderEnd 0 dominantField (Claims.lineBits dominantField false) = .accepted dominantField false
      ∧ sees (line.length - 1) = .error .form ∧ receiverEnd (line.dropLast ++ [false]) = .error .form
      ∧ receiverEnd line = .accepted dominantField true ∧ receiverEnd line.dropLast = .incomplete := by decide

set_option maxRecDepth 20000 in
/-- The row for those bits: at a sender, a receiver, and in the interframe space. -/
theorem test_row_for_bits :
    sending.rowFor ((wireBits (frameOf 12 0 0 (cueRecord 2 310 .inFlight).body.content)).take 3 ++ [true]) = none
      ∧ receiving.rowFor (Claims.lineBits dominantField true) = some (.acceptance dominantField true)
      ∧ receiving.rowFor (List.replicate 9 false) = some (.errorDetected .stuff (List.replicate 7 false))
      ∧ (joined.setLiu (liuIn .spacing)).rowFor [true, false, true] = some (.errorDetected .form [true, false])
      ∧ (joined.setLiu (liuIn .spacing)).rowFor [true, true, true] = some .interframeSpaceEnd
      ∧ joined.rowFor [false] = none := by decide

set_option maxRecDepth 20000 in
/-- WireReceivesSentFrame: six identical bits at the start of a region, one bit short of a region, and a check value that is another. -/
theorem test_meets_receiver_errors :
    let line := stuff (Claims.regionWith dominantField 0)
    [] ++ List.replicate 6 false <+: line ∧ line.dropLast <+: line ∧ line.dropLast ≠ line
      ∧ (0 : Nat) ≠ (crcOf (coveredBits dominantField)).toNat ∧ receiverEnd line = .error .crc
      ∧ receiverEnd line.dropLast = .incomplete := by decide

/-- ArbitrationAndErrorsFromBits: rows of bits counted in succession, behind others. -/
theorem test_row_for_counts :
    let delimiting := joined.setLiu (liuIn (.delimiting .sender))
    let held := joined.setLiu { joined.liu with holdOff := true }
    delimiting.rowFor [true, false] = none ∧ delimiting.rowFor [true, false, true] = none
      ∧ delimiting.rowFor ([true, false] ++ List.replicate 9 true) = some (.errorDelimiterEnd ([true, false] ++ List.replicate 8 true))
      ∧ delimiting.rowFor (true :: List.replicate 16 false) = some (.stuckLineError (true :: List.replicate 16 false))
      ∧ (joined.setLiu (liuIn .integrating)).rowFor (false :: List.replicate 11 true) = some .integrationComplete
      ∧ held.rowFor (List.replicate 8 true) = some .holdOffEnd ∧ held.rowFor (List.replicate 7 true) = none
      ∧ (joined.setLiu (liuIn (.flagging false .receiver))).rowFor (List.replicate 8 true) = some .errorFlagEnd := by
  decide

/-- The StepKeeps statements: the invariants hold right after pin reset, and a JOIN waits there. -/
theorem test_meets_invariants :
    let s := State.reset.setPending [.join]
    s.FaultOk ∧ s.NoticesOk ∧ s.ScheduleOk ∧ s.RatesOk ∧ s.StationOk ∧ s.QueueOk ∧ s.LinesOk ∧ s.ScheduleOrdered
      ∧ s.PeersOk ∧ ∃ t, step s = .next t := by
  refine ⟨⟨?_, by decide, by decide, by decide, by decide, by decide⟩, ⟨by decide, by decide, by decide⟩,
    ⟨by decide, by decide⟩,
    ⟨by decide, by decide, by decide, by decide, by decide, by decide⟩,
    ⟨by decide, by decide, by decide, fun _ => ⟨rfl, rfl, rfl, rfl, rfl, rfl, rfl⟩⟩,
    ⟨by decide, by decide, fun r m => absurd m List.not_mem_nil, by decide, by decide, by intro b h; cases h⟩,
    ⟨rfl, ?_⟩, ⟨List.Pairwise.nil, fun e m => absurd m List.not_mem_nil⟩, ⟨?_, ?_⟩, _, rfl⟩
  · simp only [scoreFits, State.reset, State.setPending]
    decide
  · simp only [Line.Ok]
    decide
  · intro i p h
    simp [State.reset, State.setPending] at h
  · intro i j p q h
    simp [State.reset, State.setPending] at h

set_option maxRecDepth 10000 in
/-- StepKeepsScheduleOrder: a peer table with two entries is in its invariant. -/
theorem test_meets_peers : (withPeers [aPeer 126 34359738367, aPeer 1 (-34359738368)]).PeersOk := by
  have each : ∀ i : Fin 32, ∀ p ∈ (withPeers [aPeer 126 34359738367, aPeer 1 (-34359738368)]).agu.peers[i],
      1 ≤ p.station.toNat ∧ p.station.toNat ≤ 126 ∧ p.station ≠ 12
        ∧ ∀ o ∈ p.offset, -2 ^ 35 ≤ o ∧ o < 2 ^ 35 := by decide
  have apart : ∀ i j : Fin 32, ∀ p ∈ (withPeers [aPeer 126 34359738367, aPeer 1 (-34359738368)]).agu.peers[i],
      ∀ q ∈ (withPeers [aPeer 126 34359738367, aPeer 1 (-34359738368)]).agu.peers[j],
        p.station = q.station → i = j := by decide
  exact ⟨fun i p h => ⟨by decide, each i p h⟩, fun i j p q hp hq e => apart i j p hp q hq e⟩

/-- StepKeepsScheduleOrder: entries of one due time by origin and number, one just reached, and one at the horizon; and one that a forward step has carried bus time past, while its word waits. -/
theorem test_meets_schedule_order :
    let s := withSchedule [anEntry 7 0, anEntry 1 5, anEntry 2 5, anEntry 9 1073741824] joined
    let t := withWord .forward (withSchedule [anEntry 1 5, anEntry 9 20] (at' 6 joined))
    s.csu.word = none ∧ s.micros = 0 ∧ s.csu.schedule.length ≤ 32 ∧ (s.csu.schedule.map Entry.key).Nodup
      ∧ s.csu.schedule.Pairwise (standsBefore none 0)
      ∧ (∀ e ∈ s.csu.schedule, dueInBounds none 0 e.due ∧ e.rpt = none)
      ∧ t.csu.word = some .forward ∧ t.micros = 6 ∧ t.csu.schedule.Pairwise (standsBefore (some .forward) 6)
      ∧ ∀ e ∈ t.csu.schedule, dueInBounds (some .forward) 6 e.due ∧ e.rpt = none := by
  delta standsBefore
  simp only [dueInBounds]
  decide

/-! ## The wire and the port, bit by bit -/

/-- 1.4: six identical bits at the end of what has come are no error yet; the seventh identical bit is STUFF, also where the check value differs, and the complement is removed. -/
theorem test_seventh_identical_bit :
    receive (List.replicate 6 false) = .incomplete ∧ receive (List.replicate 7 false) = .stuffError
      ∧ receive (List.replicate 6 false ++ [true]) = .incomplete
      ∧ destuff 6 (List.replicate 6 false ++ [true]) = .bits (List.replicate 6 false) []
      ∧ destuff 6 (List.replicate 7 false) = .stuffError ∧ destuff 6 (List.replicate 6 false) = .short := by decide

/-- 1.1: at 1000 kbit/s, with sample point 12, a bit is sampled in its 12th cycle; a dominant edge in quantum 3 moves the sample and the end of the bit by 2, one in quantum 13 ends it 2 sooner, and one in quantum 16 ends it at once. -/
theorem test_bit_timing :
    let c : LiuSettings := { id := 12, bitRate := .k1000, samplePoint := 12, jump := 2 }
    sampledBits c BitTiming.start true (List.replicate 16 false ++ List.replicate 16 true) = [false, true]
      ∧ BitTiming.start.sampleCycle c = 11
      ∧ (({ BitTiming.start with cycle := 2 } : BitTiming).edge c).sampleCycle c = 13
      ∧ (({ BitTiming.start with cycle := 2 } : BitTiming).edge c).bitCycles c.bitRate = 18
      ∧ (({ BitTiming.start with cycle := 12 } : BitTiming).edge c).bitCycles c.bitRate = 14
      ∧ ({ BitTiming.start with cycle := 15 } : BitTiming).edge c = { BitTiming.start with bit := 1 } := by decide

/-- 11.1: WITHDRAW 2/5 as it is clocked in, most significant bit first, and its reply UNKNOWN_TAG as it is shifted out. -/
theorem test_port_bits :
    let bits := [false, false, false, true, false, false, true, false, false, false, true, false, false, true, false, true]
    let s := run (.withdraw { slot := 2, generation := 5 }) (run .transactionBegin joined)
    bitsClocked [0x12, 0x25] = bits ∧ decodeTransactionBits bits = some (.withdraw { slot := 2, generation := 5 })
      ∧ decodeTransactionBits (bits.take 15) = none
      ∧ (List.range 8).map (fun i => s.sdoBit i) =
        [some false, some false, some false, some false, some true, some false, some false, some false] := by decide

end Sys2Proof.Tests
end

section
/-! SUPPORT. What a step can be: the command at the front of the queue, or what an empty queue has happen; and what every one of these keeps, every step keeps. -/

namespace Sys2Proof.Machine

/-! ## One step -/

/-- The expiry taken next is one that is due, and at most a free value is drawn to choose it (assumption 4). -/
theorem nextDue_cases {s : State} {due : Instr × State} (next : s.nextDue = some due) :
    due.1 ∈ s.dueNow ∧ (due.2 = s ∨ due.2 = s.drawn) := by
  unfold State.nextDue at next
  split at next
  · cases next
  · rename_i c single
    cases next
    simp [single]
  · obtain ⟨c, chosen, rfl⟩ := Option.map_eq_some_iff.mp next
    exact ⟨List.mem_of_getElem? chosen, .inr rfl⟩

/-- What every command keeps, and what an empty queue has happen, every step keeps. -/
theorem step_keeps {P : State → Prop} (command : ∀ c s t, P s → exec c s = .next t → P t)
    (queue : ∀ s q, P s → P (s.setPending q)) (draw : ∀ s, P s → P s.drawn) (word : ∀ s, P s → P s.takeWord)
    (settle : ∀ s, P s → P s.settleSpans) (tick : ∀ s, P s → P s.tick) {s t : State} (ok : P s)
    (ran : step s = .next t) : P t := by
  unfold step at ran
  split at ran
  · exact command _ _ _ (queue _ _ ok) ran
  · unfold State.idleStep at ran
    split at ran
    · cases ran
      exact word s ok
    · split at ran
      · cases ran
        exact settle s ok
      · split at ran
        · rename_i due next
          refine command _ _ _ ?_ ran
          obtain same | drawn := (nextDue_cases next).2
          · rwa [same]
          · rw [drawn]
            exact draw s ok
        · cases ran
          exact tick s ok

/-- The expiry of a stored time keeps what the word of a step, the passing of time and its owner's event keep. -/
theorem expire_keeps {P : State → Prop} {s : State} {stored : State → Option Micros} {event : State → State}
    (word : P s → P s.takeWord) (time : ∀ t s, P s → P (s.runTo t))
    (owner : ∀ t u, stored s.takeWord = some t → u = s.takeWord.runTo t → P u → P (event u)) (ok : P s) :
    P (s.expire stored event) := by
  obtain same | ⟨t, held, -, -, taken⟩ := expire_cases s stored event
  · rwa [same]
  · rw [taken]
    exact owner t _ held rfl (time t _ (word ok))

/-- An expiry that may be spent keeps what its event keeps. -/
theorem unlessSpent_keeps {P : State → Prop} {s : State} {c : Instr} {event : State → State}
    (word : P s → P s.takeWord) (spent : ∀ s l, P s → P (s.setSpent l)) (owner : P s → P (event s)) (ok : P s) :
    P (s.unlessSpent c event) := by
  unfold State.unlessSpent
  dsimp only
  split
  · exact spent _ _ (word ok)
  · exact owner ok

/-- A command at the port keeps what its owner and the latching of a reply keep. -/
theorem takeCommand_keeps {P : State → Prop} {s : State} {handle : State → State × Reply}
    (port : ∀ s b, P s → P (s.setLpu b)) (owner : P s → P (handle s).1) (ok : P s) : P (s.takeCommand handle) := by
  unfold State.takeCommand State.answered State.setTransaction
  split
  · exact port _ _ (owner ok)
  · exact port _ _ (port _ _ (owner ok))
  · exact ok
  · exact ok

/-! ## Steps of bus time and rounds, part by part -/

/-- The copy of a stamp changes no other part. -/
theorem stampAttempt_touches (s : State) : Touches [.stamp] s s.stampAttempt := by
  have attempt := copyStamp_attempt s.btu.capture (Config.stampCopied s.draws) s.liu
  unfold State.stampAttempt
  constructor <;> simp_all [LiuBlock.copyStamp]

/-- A step of bus time leaves the state of the LIU and its attempt, but for the stamp. -/
theorem stepTime_touches_stamp (amount : Int) (s : State) :
    Touches
      [.window, .stamp, .holdOff, .fcu, .btu, .pendingBeat, .sq, .csu, .clu, .mku, .notices, .posted, .spent, .draws]
      s (s.stepTime amount) := by
  unfold State.stepTime
  split
  · exact Touches.refl _ _
  · dsimp only
    refine Touches.trans ?_ ((reexamine_touches _ _ _ _).mono (by decide))
    exact ((((stampAttempt_touches s).mono (by decide)).trans ((moveLocal_touches _ _ _).mono (by decide))).trans
      ((setWord_touches _ _).mono (by decide))).trans ((drawn_touches _).mono (by decide))

/-- A step moves the end of the listen window, and neither sets nor clears it (R38). -/
theorem stepTime_windowEnd (amount : Int) (s : State) :
    (s.stepTime amount).stc.windowEnd.isSome = s.stc.windowEnd.isSome := by
  unfold State.stepTime
  split
  · rfl
  · dsimp only
    rw [(reexamine_touches _ _ _ _).window (by decide)]
    simp [State.drawn, State.setWord, State.moveLocal, State.stampAttempt]

theorem correct_touches (began : SyncState) (correction : Int) (s : State) :
    Touches
      [.window, .stamp, .holdOff, .fcu, .btu, .agu, .pendingBeat, .sq, .csu, .clu, .mku, .notices, .posted, .spent, .draws]
      s (s.correct began correction) := by
  unfold State.correct
  split
  · exact ((stepTime_touches_stamp correction s).mono (by decide)).trans ((setBtu_touches _ _).mono (by decide))
  · exact ((setBtu_touches s _).mono (by decide)).trans ((setAgu_touches _ _).mono (by decide))

theorem correct_windowEnd (began : SyncState) (correction : Int) (s : State) :
    (s.correct began correction).stc.windowEnd.isSome = s.stc.windowEnd.isSome := by
  unfold State.correct
  split
  · exact stepTime_windowEnd correction s
  · rfl

theorem updateSync_touches (began : SyncState) (fresh : Nat) (correction : Int) (s : State) :
    Touches [.agu, .clu, .notices, .posted] s (s.updateSync began fresh correction) := by
  have updated : ∀ y g, Touches [.agu, .clu, .notices, .posted] s (s.setAgu { s.agu with sync := y, good := g }) := by
    intro y g
    constructor <;> simp
  unfold State.updateSync
  dsimp only
  split
  · exact updated _ _
  · exact ((updated _ _).trans ((post_touches _ _).mono (by decide))).trans ((tellClu_touches _ _).mono (by decide))

theorem buildBeat_touches (boundary : Micros) (change : Int) (fresh : Nat) (s : State) :
    Touches [.agu, .pendingBeat, .sq] s (s.buildBeat boundary change fresh) := by
  unfold State.buildBeat
  dsimp only
  split
  · exact Touches.refl _ _
  · exact ((setAgu_touches s _).mono (by decide)).trans ((placeBeat_touches _ _).mono (by decide))

/-- A sync round leaves STC but for the window, and the LIU but for a stamp and a hold-off. -/
theorem roundAt_touches (boundary : Micros) (s : State) :
    Touches
      [.window, .stamp, .holdOff, .fcu, .btu, .agu, .pendingBeat, .sq, .iku, .csu, .clu, .mku, .notices, .posted, .spent, .draws]
      s (s.roundAt boundary) := by
  unfold State.roundAt
  dsimp only
  refine Touches.trans (t := State.buildBeat _ _ _ _) ?_
    (((setAgu_touches _ _).mono (by decide)).trans ((setIku_touches _ _).mono (by decide)))
  refine Touches.trans ?_ ((buildBeat_touches _ _ _ _).mono (by decide))
  refine Touches.trans ?_ ((setAgu_touches _ _).mono (by decide))
  refine Touches.trans ?_ ((updateSync_touches _ _ _ _).mono (by decide))
  refine Touches.trans ?_ ((correct_touches _ _ _).mono (by decide))
  exact ((agePeers_touches s).mono (by decide)).trans ((setAgu_touches _ _).mono (by decide))

theorem roundAt_windowEnd (boundary : Micros) (s : State) :
    (s.roundAt boundary).stc.windowEnd.isSome = s.stc.windowEnd.isSome := by
  unfold State.roundAt
  dsimp only
  rw [setIku_stc, setAgu_stc, (buildBeat_touches _ _ _ _).window (by decide), setAgu_stc,
    (updateSync_touches _ _ _ _).window (by decide), correct_windowEnd, setAgu_stc,
    (agePeers_touches s).window (by decide)]

end Sys2Proof.Machine
end

section
/-! SUPPORT. Station state, LIU state and drain (O59): which parts of the state the invariant reads, what each event of the line, the port and the clock makes of them, and that every step keeps it. -/

namespace Sys2Proof.Machine

/-! ## What the invariant reads -/

/-- Of the AGU the invariant reads the sync state, the boundary and the BEAT pending. -/
theorem Touches.stationOk_of_agu {bs : List Part} {s t : State} (h : Touches bs s t)
    (apart : ∀ p ∈ [Part.stc, .window, .liu, .pendingBeat, .sq, .csu], p ∉ bs) (sync : t.agu.sync = s.agu.sync)
    (boundary : t.agu.boundary = s.agu.boundary) (ok : s.StationOk) : t.StationOk := by
  obtain ⟨station, draining, -⟩ := h.stc (apart _ (by decide))
  simpa only [State.StationOk, State.Empty, station, draining, h.window (apart _ (by decide)),
    (h.liu (apart _ (by decide))).1, sync, boundary, h.pendingBeat (apart _ (by decide)),
    h.sq (apart _ (by decide)), h.csu (apart _ (by decide))] using ok

/-- The invariant reads seven parts of the state. -/
theorem Touches.stationOk {bs : List Part} {s t : State} (h : Touches bs s t)
    (apart : ∀ p ∈ [Part.stc, .window, .liu, .pendingBeat, .sq, .csu, .agu], p ∉ bs) (ok : s.StationOk) :
    t.StationOk := by
  have agreement := h.agu (apart _ (by decide))
  have sync := congrArg AguState.sync agreement
  have boundary := congrArg AguState.boundary agreement
  exact h.stationOk_of_agu (fun p m => apart p (by simp only [List.mem_cons] at m ⊢; tauto)) sync boundary ok

/-- While JOINED the invariant says that the LIU runs, nothing drains, and no listen window is held. -/
theorem stationOk_iff_of_joined {s : State} (joined : s.stc.station = .joined) :
    s.StationOk ↔ s.liu.state ≠ .stopped ∧ s.stc.draining = false ∧ s.stc.windowEnd = none := by
  simp [State.StationOk, joined]

/-- While JOINED the invariant reads STC and the LIU alone. -/
theorem Touches.stationOk_of_joined {bs : List Part} {s t : State} (h : Touches bs s t)
    (apart : .stc ∉ bs ∧ .liu ∉ bs) (window : t.stc.windowEnd.isSome = s.stc.windowEnd.isSome)
    (joined : s.stc.station = .joined) (ok : s.StationOk) : t.StationOk := by
  obtain ⟨station, draining, -⟩ := h.stc apart.1
  obtain ⟨running, free, none⟩ := (stationOk_iff_of_joined joined).mp ok
  rw [stationOk_iff_of_joined (station.trans joined), (h.liu apart.2).1, draining]
  exact ⟨running, free, by simpa [none] using window⟩

/-- An operation of a JOINED station that leaves STC and the LIU. -/
theorem Touches.stationOk_at_joined {bs : List Part} {s t : State} (h : Touches bs s t)
    (apart : .stc ∉ bs ∧ .liu ∉ bs ∧ .window ∉ bs) (joined : s.stc.station = .joined) (ok : s.StationOk) :
    t.StationOk :=
  h.stationOk_of_joined ⟨apart.1, apart.2.1⟩ (by rw [h.window apart.2.2]) joined ok

/-- An operation that only a JOINED station makes, and that leaves STC and the LIU. -/
theorem Touches.stationOk_of_joined_only {bs : List Part} {s t : State} (h : Touches bs s t)
    (apart : .stc ∉ bs ∧ .liu ∉ bs ∧ .window ∉ bs) (only : s.stc.station ≠ .joined → t = s) (ok : s.StationOk) :
    t.StationOk := by
  by_cases joined : s.stc.station = .joined
  · exact h.stationOk_at_joined apart joined ok
  · rwa [only joined]

/-- Outside JOINED nothing is held. -/
theorem State.StationOk.empty {s : State} (ok : s.StationOk) (other : s.stc.station ≠ .joined) : s.Empty := ok.2.2.2 other

/-- A draining station is OFFLINE, and its LIU is at the frame that drains (R19). -/
theorem State.StationOk.of_draining {s : State} (ok : s.StationOk) (draining : s.stc.draining = true) :
    s.stc.station = .offline ∧ s.liu.state.drains = true := ok.2.1 draining

/-- A LIU in a state that is neither STOPPED nor one of a drain is a LISTENING or JOINED station's. -/
theorem State.StationOk.not_offline {s : State} (ok : s.StationOk) (running : s.liu.state ≠ .stopped)
    (other : s.liu.state.drains = false) : s.stc.station ≠ .offline ∧ s.stc.draining = false := by
  obtain ⟨stopped, drain, -, -⟩ := ok
  have free : s.stc.draining = false := by
    by_contra draining
    simp [(drain (by simpa using draining)).2] at other
  exact ⟨fun offline => running (stopped.mpr ⟨offline, free⟩), free⟩

/-- A LIU state written that is not STOPPED, while another was held, and one of a drain where a drain is on. -/
theorem stationOk_setLiu {s : State} {l : LiuBlock} (ok : s.StationOk) (running : s.liu.state ≠ .stopped)
    (next : l.state ≠ .stopped) (drain : s.stc.draining = true → l.state.drains = true) : (s.setLiu l).StationOk := by
  obtain ⟨stopped, draining, window, empty⟩ := ok
  refine ⟨iff_of_false next (stopped.not.mp running), fun on => ⟨(draining on).1, drain on⟩, window, empty⟩

/-- The same where the LIU was in a state that no drain has. -/
theorem stationOk_setLiu_of_not_drains {s : State} {l : LiuBlock} (ok : s.StationOk) (running : s.liu.state ≠ .stopped)
    (other : s.liu.state.drains = false) (next : l.state ≠ .stopped) : (s.setLiu l).StationOk :=
  stationOk_setLiu ok running next fun on => by simp [(ok.not_offline running other).2] at on

/-! ## The word of a step, and time -/

theorem takeWord_stationOk {s : State} (ok : s.StationOk) : s.takeWord.StationOk :=
  (takeWord_touches s).stationOk_of_joined_only (by decide)
    (fun other => by
      obtain ⟨-, -, -, -, word, -⟩ := ok.empty other
      exact takeWord_of_none word)
    ok

theorem runTo_stationOk (t : Micros) {s : State} (ok : s.StationOk) : (s.runTo t).StationOk :=
  (runTo_touches t s).stationOk (by decide) ok

/-! ## Attempts and the line -/

/-- Outside JOINED the SQ has no record and no BEAT whose attempt could end. -/
theorem attemptEnded_of_empty {s : State} (empty : s.Empty) (how : AttemptEnd) (p : Place) :
    s.attemptEnded how p = s := by
  obtain ⟨-, -, -, -, -, records, beat⟩ := empty
  cases p <;> simp [State.attemptEnded, records, beat]

theorem endAttempt_stationOk (how : AttemptEnd) {s : State} (ok : s.StationOk) : (s.endAttempt how).StationOk := by
  unfold State.endAttempt
  split
  · have ended : (s.attemptEnded how ‹Attempt›.place).StationOk := by
      by_cases joined : s.stc.station = .joined
      · exact (attemptEnded_touches how _ s).stationOk_at_joined (by decide) joined ok
      · rwa [attemptEnded_of_empty (ok.empty joined)]
    exact ended
  · exact ok

/-- An attempt's end leaves the LIU's state, the station and its drain. -/
theorem endAttempt_keeps (how : AttemptEnd) (s : State) :
    (s.endAttempt how).liu.state = s.liu.state ∧ (s.endAttempt how).stc = s.stc := by
  unfold State.endAttempt
  split
  · have frame := attemptEnded_touches how ‹Attempt›.place s
    obtain ⟨station, draining, config⟩ := frame.stc (by decide)
    have window := frame.window (by decide)
    refine ⟨(frame.liu (by decide)).1, ?_⟩
    simp only [State.dropAttempt, setLiu_stc]
    cases h : (s.attemptEnded how ‹Attempt›.place).stc
    cases k : s.stc
    simp_all
  · exact ⟨rfl, rfl⟩

/-- Signalling puts the LIU in a state that is not STOPPED, and one of a drain for the role sender (R12, R19). -/
theorem signalling_running (fault : FaultState) (role : Role) :
    signalling fault role ≠ .stopped ∧ (signalling fault .sender).drains = true := by
  cases fault <;> exact ⟨nofun, rfl⟩

theorem signal_stationOk {role : Role} {s : State} (ok : s.StationOk) (running : s.liu.state ≠ .stopped)
    (drain : s.stc.draining = true → role = .sender) : (s.signal role).StationOk :=
  stationOk_setLiu ok running (signalling_running _ _).1 fun on => by
    obtain rfl := drain on
    exact (signalling_running s.fcu.state .sender).2

theorem frameError_stationOk {role : Role} {s : State} (sampled : List Bool) (ok : s.StationOk)
    (running : s.liu.state ≠ .stopped) (drain : s.stc.draining = true → role = .sender) :
    (s.frameError role sampled).StationOk := by
  unfold State.frameError
  split
  · exact signal_stationOk ((setBtu_touches s _).stationOk (by decide) ok) running drain
  · have frame := reportError_touches role sampled s
    have reported : ((s.reportError role sampled).endAttempt .error).dropCapture.StationOk :=
      (setBtu_touches _ _).stationOk (by decide) (endAttempt_stationOk _ (frame.stationOk (by decide) ok))
    obtain ⟨state, stc⟩ := endAttempt_keeps .error (s.reportError role sampled)
    have on : ((s.reportError role sampled).endAttempt .error).liu.state ≠ .stopped := by
      rw [state, (frame.liu (by decide)).1]
      exact running
    have free : ((s.reportError role sampled).endAttempt .error).stc.draining = true → role = .sender := by
      rw [stc, (frame.stc (by decide)).2.1]
      exact drain
    cases role with
    | sender => exact signal_stationOk (s := State.markOwnEnded _) reported on fun _ => rfl
    | receiver => exact signal_stationOk reported on free

theorem sof_stationOk (sampled drove : Bool) {s t : State} (ok : s.StationOk)
    (ran : exec (.sof sampled drove) s = .next t) : t.StationOk := by
  obtain rfl := Host.Outcome.next.inj ran
  split
  · rename_i idle
    have running : s.liu.state ≠ .stopped := by simp [idle]
    have other : s.liu.state.drains = false := by simp [idle, LiuState.drains]
    have begun : (s.hardSync.sofBit sampled).StationOk ∧ (s.hardSync.sofBit sampled).liu.state = .idle := by
      have synced : s.hardSync.StationOk := stationOk_setLiu_of_not_drains ok running other running
      unfold State.sofBit
      split
      · exact ⟨(sampled_touches _ _).stationOk (by decide) synced,
          ((sampled_touches _ _).liu (by decide)).1.trans idle⟩
      · exact ⟨synced, idle⟩
    obtain ⟨ok, idle⟩ := begun
    generalize s.hardSync.sofBit sampled = u at ok idle ⊢
    have running : u.liu.state ≠ .stopped := by simp [idle]
    have other : u.liu.state.drains = false := by simp [idle, LiuState.drains]
    have captured : u.captureSof.StationOk := (setBtu_touches u _).stationOk (by decide) ok
    unfold State.sampleSof
    split
    · exact stationOk_setLiu_of_not_drains captured running other nofun
    · exact frameError_stationOk _ ok running fun _ => rfl
    · obtain ⟨state, -⟩ := endAttempt_keeps .lost u.captureSof
      refine stationOk_setLiu_of_not_drains (endAttempt_stationOk _ captured) ?_ ?_ nofun
      · rw [state]; exact running
      · rw [state]; exact other
    · exact ok
  · exact ok

/-! ## Offers -/

theorem takeOffer_touches (p : Place) (s : State) :
    Touches [.liu, .timing, .stamp, .holdOff, .sq, .draws] s (s.takeOffer p) := by
  unfold State.takeOffer
  split
  · exact (((markInFlight_touches p s).mono (by decide)).trans ((drawn_touches _).mono (by decide))).trans
      ((setLiu_touches _ _).mono (by decide))
  · exact Touches.refl _ _

/-- An offer taken leaves the state of the LIU (R4). -/
theorem takeOffer_liu_state (p : Place) (s : State) : (s.takeOffer p).liu.state = s.liu.state := by
  unfold State.takeOffer
  split
  · exact ((markInFlight_touches p s).liu (by decide)).1
  · rfl

theorem offer_stationOk {s t : State} (ok : s.StationOk) (ran : exec .offer s = .next t) : t.StationOk := by
  obtain rfl := Host.Outcome.next.inj ran
  split
  · rename_i may
    have joined : s.stc.station = .joined := by simp_all [State.mayOffer]
    have cleared := (removeStale_touches s).stationOk_at_joined (by decide) joined ok
    have still : s.removeStale.stc.station = .joined := ((removeStale_touches s).stc (by decide)).1.trans joined
    unfold State.offer
    dsimp only
    split
    · rename_i c _
      have frame := takeOffer_touches c.1 s.removeStale
      rw [stationOk_iff_of_joined ((frame.stc (by decide)).1.trans still), takeOffer_liu_state,
        (frame.stc (by decide)).2.1, frame.window (by decide)]
      exact (stationOk_iff_of_joined still).mp cleared
    · exact cleared
  · exact ok

/-! ## Ends of frames -/

/-- The end of a drain leaves an OFFLINE station with its LIU STOPPED (R19). -/
theorem endDrain_stationOk {s : State} (ok : s.StationOk) (draining : s.stc.draining = true) : s.endDrain.StationOk := by
  obtain ⟨offline, -⟩ := ok.of_draining draining
  obtain ⟨-, -, window, empty⟩ := ok
  exact ⟨iff_of_true rfl ⟨offline, rfl⟩, nofun, window, empty⟩

theorem lostArbitration_stationOk {s t : State} (ok : s.StationOk) (ran : exec .lostArbitration s = .next t) :
    t.StationOk := by
  obtain rfl := Host.Outcome.next.inj ran
  split
  · rename_i sending
    split
    · exact endDrain_stationOk ok ‹_›
    · rename_i free
      obtain ⟨state, stc⟩ := endAttempt_keeps .lost s
      exact stationOk_setLiu (endAttempt_stationOk _ ok) (by simp [state, sending]) nofun fun on =>
        absurd (stc ▸ on) free
  · exact ok

/-- An error found in a frame is found by the LIU at that frame: as sender where it is this station's own (R3, R10). -/
theorem errorRole_cases {kind : ErrorKind} {role : Role} {s : State} (found : s.errorRole kind = some role) :
    s.liu.state = .idle ∧ role = .sender ∨ s.liu.state = .sending ∧ role = .sender
      ∨ s.liu.state = .receiving ∧ role = .receiver := by
  unfold State.errorRole at found
  cases state : s.liu.state <;> cases kind <;> simp_all

theorem errorDetected_stationOk (kind : ErrorKind) (sampled : List Bool) {s t : State} (ok : s.StationOk)
    (ran : exec (.errorDetected kind sampled) s = .next t) : t.StationOk := by
  obtain rfl := Host.Outcome.next.inj ran
  split
  · rename_i spacing
    have frame := reportError_touches .receiver sampled s
    have still := (frame.liu (by decide)).1.trans spacing.1
    exact stationOk_setLiu_of_not_drains (frame.stationOk (by decide) ok) (by simp [still])
      (by simp [still, LiuState.drains]) (signalling_running _ _).1
  · split
    · rename_i role found
      obtain ⟨state, sender⟩ | ⟨state, sender⟩ | ⟨state, -⟩ := errorRole_cases found
      · exact frameError_stationOk _ ok (by simp [state]) fun _ => sender
      · exact frameError_stationOk _ ok (by simp [state]) fun _ => sender
      · refine frameError_stationOk _ ok (by simp [state]) fun on => ?_
        simp [(ok.not_offline (by simp [state]) (by simp [state, LiuState.drains])).2] at on
    · exact ok

theorem errorFlagEnd_stationOk {s t : State} (ok : s.StationOk) (ran : exec .errorFlagEnd s = .next t) :
    t.StationOk := by
  obtain rfl := Host.Outcome.next.inj ran
  split
  · rename_i dominant role state
    refine stationOk_setLiu ok (by simp [state]) nofun fun on => ?_
    have drains := (ok.of_draining on).2
    cases role <;> simp_all [LiuState.drains]
  · exact ok

theorem stuckLineError_stationOk (sampled : List Bool) {s t : State} (ok : s.StationOk)
    (ran : exec (.stuckLineError sampled) s = .next t) : t.StationOk := by
  obtain rfl := Host.Outcome.next.inj ran
  split
  · split
    · exact ok
    · exact (reportError_touches _ _ _).stationOk (by decide) ok
  · exact ok

theorem errorDelimiterEnd_stationOk (sampled : List Bool) {s t : State} (ok : s.StationOk)
    (ran : exec (.errorDelimiterEnd sampled) s = .next t) : t.StationOk := by
  obtain rfl := Host.Outcome.next.inj ran
  split
  · rename_i state
    split
    · exact endDrain_stationOk ok ‹_›
    · rename_i free
      exact (sampled_touches _ _).stationOk (by decide)
        (stationOk_setLiu ok (by simp [state]) nofun fun on => absurd on free)
  · exact ok

/-! ## Acceptance -/

/-- A heard report and a BEAT sample leave the sync state and the boundary. -/
theorem heard_agreement (id : StationId) (s : State) :
    (s.heard id).agu.sync = s.agu.sync ∧ (s.heard id).agu.boundary = s.agu.boundary := by
  unfold State.heard State.heardKnown State.heardFull State.createPeer State.setPeer State.postIf
  repeat' split
  all_goals simp

theorem beatSample_agreement (id : StationId) (stamp capture : BusTime) (interval : Nat) (sync : SyncState)
    (sequence : Byte) (s : State) :
    (s.beatSample id stamp capture interval sync sequence).agu.sync = s.agu.sync
      ∧ (s.beatSample id stamp capture interval sync sequence).agu.boundary = s.agu.boundary := by
  unfold State.beatSample State.setPeer
  split <;> exact ⟨rfl, rfl⟩

theorem heard_stationOk (id : StationId) {s : State} (ok : s.StationOk) : (s.heard id).StationOk :=
  (heard_touches id s).stationOk_of_agu (by decide) (heard_agreement id s).1 (heard_agreement id s).2 ok

/-- A well-formed frame of the class BEAT carries a BEAT's content (R89). -/
theorem parseFrame_of_beat {f : Frame} {content : Content} (beat : f.cls = .beat) (parsed : parseFrame f = some content) :
    ∃ stamp interval sync fresh sequence, content = .beatContent stamp interval sync fresh sequence := by
  unfold parseFrame at parsed
  rw [beat] at parsed
  dsimp only at parsed
  split at parsed
  · cases parsed
  · unfold parseBeat at parsed
    split at parsed
    · dsimp only at parsed
      split at parsed
      · cases parsed
        exact ⟨_, _, _, _, _, rfl⟩
      · cases parsed
    · cases parsed

/-- A BEAT that the IKU takes is a sample for the AGU, or MALFORMED (R92). -/
theorem validate_stationOk_of_beat {a : Accepted} (beat : a.frame.cls = .beat) {s : State} (ok : s.StationOk) :
    (s.validate a).StationOk := by
  unfold State.validate
  split
  · exact (malformed_touches _ _).stationOk (by decide) ok
  · obtain ⟨stamp, interval, sync, fresh, sequence, rfl⟩ := parseFrame_of_beat beat ‹_›
    unfold State.dispatch
    dsimp only
    split
    · exact ok
    · split
      · obtain ⟨same, boundary⟩ := beatSample_agreement a.frame.station stamp ‹_› interval sync sequence s
        exact (beatSample_touches _ _ _ _ _ _ _).stationOk_of_agu (by decide) same boundary ok
      · exact ok

/-- What a frame may change at its owner, whatever its class. -/
theorem validate_touches (a : Accepted) (s : State) :
    Touches [.agu, .iku, .csu, .clu, .notices, .posted, .spent, .draws] s (s.validate a) := by
  unfold State.validate
  split
  · exact (malformed_touches _ _).mono (by decide)
  · exact dispatch_touches _ _ _

theorem intake_stationOk (a : Accepted) {s : State} (ok : s.StationOk) : (s.intake a).StationOk := by
  have gated : ∀ {u : State}, u.StationOk → (u.gate a).StationOk := by
    intro u ok
    unfold State.gate
    split
    · exact (validate_touches a u).stationOk_at_joined (by decide) ‹_› ok
    · split
      · exact validate_stationOk_of_beat ‹_› ok
      · exact ok
    · exact ok
  have heard : ∀ {u : State}, u.StationOk → (if u.isHeard a then u.heard a.frame.station else u).StationOk := by
    intro u ok
    split
    · exact heard_stationOk _ ok
    · exact ok
  have clashed : (if s.isClash a then s.idClash else s).StationOk := by
    split
    · exact (idClash_touches s).stationOk (by decide) ok
    · exact ok
  exact gated (heard clashed)

/-- After an acceptance the LIU spaces (R15). -/
theorem afterAcceptance_stationOk {s : State} (ok : s.StationOk) (running : s.liu.state ≠ .stopped)
    (free : s.stc.draining = false) : s.afterAcceptance.StationOk :=
  stationOk_setLiu (s := s.dropCapture) ((setBtu_touches s _).stationOk (by decide) ok) running nofun fun on => by
    simp [State.dropCapture, free] at on

theorem acceptance_stationOk (f : Frame) (ack : Bool) {s t : State} (ok : s.StationOk)
    (ran : exec (.acceptance f ack) s = .next t) : t.StationOk := by
  obtain rfl := Host.Outcome.next.inj ran
  split
  · rename_i sending
    unfold State.acceptSending
    split
    · exact endDrain_stationOk ok ‹_›
    · rename_i free
      split
      · exact ok
      · split
        · have frame := reportAcceptance_touches s
          obtain ⟨state, stc⟩ := endAttempt_keeps (.sent !ack) s.reportAcceptance
          have ended := endAttempt_stationOk (.sent !ack) (frame.stationOk (by decide) ok)
          have running : (s.reportAcceptance.endAttempt (.sent !ack)).liu.state = .sending := by
            rw [state, (frame.liu (by decide)).1, sending]
          have still : (s.reportAcceptance.endAttempt (.sent !ack)).stc.draining = false := by
            rw [stc, (frame.stc (by decide)).2.1]
            simpa using free
          exact intake_stationOk _ (afterAcceptance_stationOk (s := State.markOwnEnded _) ended (by simp [State.markOwnEnded, running]) still)
        · exact ok
  · rename_i receiving
    have free := (ok.not_offline (by simp [receiving]) (by simp [receiving, LiuState.drains])).2
    have frame : Touches [.fcu, .holdOff, .notices, .posted] s (s.sampled (lineBits f ack)).reportAcceptance :=
      ((sampled_touches _ _).mono (by decide)).trans (reportAcceptance_touches _)
    refine intake_stationOk _ (afterAcceptance_stationOk (frame.stationOk (by decide) ok) ?_ ?_)
    · simp [(frame.liu (by decide)).1, receiving]
    · rw [(frame.stc (by decide)).2.1, free]
  · exact ok

/-! ## Idle -/

theorem interframeSpaceEnd_stationOk {s t : State} (ok : s.StationOk) (ran : exec .interframeSpaceEnd s = .next t) :
    t.StationOk := by
  obtain rfl := Host.Outcome.next.inj ran
  split
  · rename_i spacing
    exact (sampled_touches _ _).stationOk (by decide)
      (stationOk_setLiu_of_not_drains ok (by simp [spacing]) (by simp [spacing, LiuState.drains]) nofun)
  · exact ok

theorem integrationComplete_stationOk {s t : State} (ok : s.StationOk)
    (ran : exec .integrationComplete s = .next t) : t.StationOk := by
  obtain rfl := Host.Outcome.next.inj ran
  split
  · rename_i integrating
    exact stationOk_setLiu_of_not_drains ok (by simp [integrating]) (by simp [integrating, LiuState.drains]) nofun
  · exact ok

theorem holdOffEnd_stationOk {s t : State} (ok : s.StationOk) (ran : exec .holdOffEnd s = .next t) :
    t.StationOk := by
  obtain rfl := Host.Outcome.next.inj ran
  split
  · exact (endHoldOff_touches s).stationOk (by decide) ok
  · exact ok

theorem drainEnd_stationOk {s t : State} (ok : s.StationOk) (ran : exec .drainEnd s = .next t) : t.StationOk := by
  obtain rfl := Host.Outcome.next.inj ran
  split
  · exact endDrain_stationOk ok ‹_›
  · exact ok

theorem idleSpan_stationOk {s t : State} (ok : s.StationOk) (ran : exec .idleSpan s = .next t) : t.StationOk := by
  obtain rfl := Host.Outcome.next.inj ran
  split
  · exact (setSpent_touches s _).stationOk (by decide) ok
  · exact (countSpan_touches s).stationOk (by decide) ok

/-! ## Commands of the port -/

/-- A command keeps the invariant where its owner does. -/
theorem takeCommand_stationOk {s : State} {handle : State → State × Reply} (owner : s.StationOk → (handle s).1.StationOk)
    (ok : s.StationOk) : (s.takeCommand handle).StationOk :=
  takeCommand_keeps (P := State.StationOk) (fun s _ ok => (setLpu_touches s _).stationOk (by decide) ok) owner ok

/-- A configuration command writes no part that the invariant reads. -/
theorem configure_stationOk {α : Type} {values : Option α} {write : α → State → State} {s : State}
    (kept : ∀ v, s.StationOk → (write v s).StationOk) (ok : s.StationOk) : (s.configure values write).1.StationOk := by
  unfold State.configure
  split
  · exact ok
  · split
    · exact ok
    · exact kept _ ok

/-- JOIN starts a LISTENING station, with its listen window and its LIU integrating (R145). -/
theorem join_stationOk {s : State} (ok : s.StationOk) : s.join.1.StationOk := by
  unfold State.join
  split
  · exact ok
  · rename_i offline
    split
    · exact ok
    · rename_i free
      split
      · exact ok
      · split
        · exact ok
        · have empty := ok.empty (by simp_all)
          exact ⟨iff_of_false nofun (by simp [State.startListening]), fun on => absurd on free,
            iff_of_true rfl rfl, fun _ => empty⟩

/-- RESTART leaves an OFFLINE station that holds nothing, and drains exactly where the LIU does (R19, R147). -/
theorem restart_stationOk (s : State) : s.restart.StationOk := by
  have blocks : s.restartBlocks.StationOk := by
    refine ⟨?_, fun on => ⟨rfl, ?_⟩, iff_of_false nofun nofun, fun _ => ⟨rfl, rfl, rfl, rfl, rfl, rfl, rfl⟩⟩
    · simp only [State.restartBlocks, LiuBlock.restarted, StcState.restarted, true_and]
      cases drains : s.liu.state.drains
      · simp [LiuBlock.halted]
      · cases state : s.liu.state <;> simp_all [LiuState.drains]
    · have drains : s.liu.state.drains = true := on
      simp [State.restartBlocks, LiuBlock.restarted, drains]
  exact (settlePosts_touches _).stationOk (by decide) ((post_touches _ _).stationOk (by decide) blocks)

theorem pinReset_stationOk (s : State) : s.pinReset.StationOk :=
  ⟨iff_of_true rfl ⟨rfl, rfl⟩, nofun, iff_of_false nofun nofun, fun _ => ⟨rfl, rfl, rfl, rfl, rfl, rfl, rfl⟩⟩

/-- Outside JOINED no tag names a record. -/
theorem withdraw_of_empty {s : State} (empty : s.Empty) (tag : Tag) : (s.withdraw tag).1 = s := by
  obtain ⟨-, -, -, -, -, records, -⟩ := empty
  simp [State.withdraw, SqState.named, records]

/-! ## Expiries -/

/-- An expiry keeps the invariant where its owner's event does. -/
theorem expire_stationOk {s : State} {stored : State → Option Micros} {event : State → State}
    (owner : ∀ t u, stored s.takeWord = some t → u = s.takeWord.runTo t → u.StationOk → (event u).StationOk)
    (ok : s.StationOk) : (s.expire stored event).StationOk :=
  expire_keeps (P := State.StationOk) takeWord_stationOk (fun t _ ok => runTo_stationOk t ok) owner ok

theorem syncRound_stationOk {s : State} (ok : s.StationOk) : s.syncRound.StationOk := by
  unfold State.syncRound
  split
  · rename_i boundary joined _
    exact (roundAt_touches boundary s).stationOk_of_joined (by decide) (roundAt_windowEnd boundary s) joined ok
  · exact ok

/-- The acquisition leaves STC but for the window, and the LIU but for a stamp and a hold-off. -/
theorem acquire_touches (s : State) :
    Touches
      [.window, .stamp, .holdOff, .fcu, .btu, .agu, .pendingBeat, .sq, .iku, .csu, .clu, .mku, .notices, .posted, .spent, .draws]
      s s.acquire := by
  unfold State.acquire
  dsimp only
  exact ((((stepTime_touches_stamp _ s).mono (by decide)).trans ((setAgu_touches _ _).mono (by decide))).trans
    ((tellClu_touches _ _).mono (by decide))).trans ((setIku_touches _ _).mono (by decide))

/-- The end of the listen window makes a LISTENING station JOINED (R146). -/
theorem endWindow_stationOk {s : State} (listening : s.stc.station = .listening) (ok : s.StationOk) :
    s.endWindow.StationOk := by
  have frame := acquire_touches s
  have running : s.liu.state ≠ .stopped := fun stopped => by simp [(ok.1.mp stopped).1] at listening
  have free : s.stc.draining = false := by
    by_contra on
    simp [(ok.of_draining (by simpa using on)).1] at listening
  refine (post_touches _ _).stationOk (by decide) ((stationOk_iff_of_joined rfl).mpr ⟨?_, ?_, rfl⟩)
  · rw [setStc_liu, (frame.liu (by decide)).1]
    exact running
  · exact ((frame.stc (by decide)).2.1).trans free

/-- The first entry expires at a JOINED station alone: no other holds one (R119). -/
theorem expireFirst_stationOk {s : State} (ok : s.StationOk) : s.expireFirst.StationOk :=
  (expireFirst_touches s).stationOk_of_joined_only (by decide)
    (fun other => by
      obtain ⟨-, -, -, schedule, -⟩ := ok.empty other
      simp [State.expireFirst, schedule])
    ok

theorem expireStale_stationOk (p : Place) {s : State} (ok : s.StationOk) : (s.expireStale p).StationOk :=
  (expireStale_touches p s).stationOk_of_joined_only (by decide)
    (fun other => by
      obtain ⟨-, -, -, -, -, records, beat⟩ := ok.empty other
      cases p <;> simp [State.expireStale, State.leaveAll, records, beat])
    ok

theorem endPulse_touches (line : Fin 8) (s : State) : Touches [.clu] s (s.endPulse line) := by
  unfold State.endPulse
  split
  · exact setClu_touches _ _
  · exact Touches.refl _ _

theorem unlessSpent_stationOk {s : State} {c : Instr} {event : State → State} (owner : s.StationOk → (event s).StationOk)
    (ok : s.StationOk) : (s.unlessSpent c event).StationOk :=
  unlessSpent_keeps (P := State.StationOk) takeWord_stationOk
    (fun s _ ok => (setSpent_touches s _).stationOk (by decide) ok) owner ok

/-- A listen window is held while LISTENING, and time leaves it so. -/
theorem listening_of_windowEnd {s u : State} {t : Micros} (held : s.takeWord.stc.windowEnd = some t)
    (later : u = s.takeWord.runTo t) (ok : u.StationOk) : u.stc.station = .listening :=
  ok.2.2.1.mp (by rw [later, (runTo_touches t s.takeWord).window (by decide), held]; rfl)

/-! ## Every step -/

theorem selRises_touches (s : State) : Touches [.port] s s.selRises := by
  unfold State.selRises State.setTransaction
  split
  · exact Touches.refl _ _
  all_goals constructor <;> simp

theorem setTransaction_touches (p : Transaction) (s : State) : Touches [.port] s (s.setTransaction p) := by
  constructor <;> simp [State.setTransaction]

/-- What holds of a meaning's next state holds of the state it answers. -/
theorem next_keeps {P : State → Prop} {t u : State}
    (ran : (.next u : Host.Outcome State Fault Refusal) = .next t) (kept : P u) : P t := by
  obtain rfl := Host.Outcome.next.inj ran
  exact kept

theorem exec_stationOk (c : Instr) {s t : State} (ok : s.StationOk) (ran : exec c s = .next t) : t.StationOk := by
  cases c with
  | setStation a => exact next_keeps ran (takeCommand_stationOk (configure_stationOk fun _ ok => ok) ok)
  | setLine a =>
    exact next_keeps ran (takeCommand_stationOk
      (configure_stationOk fun _ => (setClu_touches s _).stationOk (by decide)) ok)
  | setInput a =>
    exact next_keeps ran (takeCommand_stationOk
      (configure_stationOk fun _ => (setMarkInput_touches _ _ s).stationOk (by decide)) ok)
  | setSubscription a =>
    exact next_keeps ran (takeCommand_stationOk
      (configure_stationOk fun _ => (setIku_touches s _).stationOk (by decide)) ok)
  | setReaction a =>
    exact next_keeps ran (takeCommand_stationOk
      (configure_stationOk fun _ => (setMku_touches s _).stationOk (by decide)) ok)
  | join => exact next_keeps ran (takeCommand_stationOk join_stationOk ok)
  | restart => exact next_keeps ran (takeCommand_stationOk (fun _ => restart_stationOk s) ok)
  | postCueShared a =>
    exact next_keeps ran (takeCommand_stationOk
      ((postShared_touches a s).stationOk_of_joined_only (by decide) fun other => by simp [State.postShared, other]) ok)
  | postCueLocal a =>
    exact next_keeps ran (takeCommand_stationOk
      ((postLocal_touches a s).stationOk_of_joined_only (by decide) fun other => by simp [State.postLocal, other]) ok)
  | postRecallShared a =>
    exact next_keeps ran (takeCommand_stationOk
      ((recallShared_touches a s).stationOk_of_joined_only (by decide) fun other => by
        simp [State.recallShared, other]) ok)
  | postRecallLocal a =>
    exact next_keeps ran (takeCommand_stationOk
      ((recallLocal_touches a s).stationOk_of_joined_only (by decide) fun other => by
        simp [State.recallLocal, other]) ok)
  | withdraw tag =>
    exact next_keeps ran (takeCommand_stationOk
      (fun ok => (withdraw_touches tag s).stationOk_of_joined_only (by decide)
        (fun other => withdraw_of_empty (ok.empty other) tag) ok) ok)
  | readNotice => exact next_keeps ran (takeCommand_stationOk ((takeNotice_touches s).stationOk (by decide)) ok)
  | readStatus | readTime | readPeer | readEntry | readRecord =>
    exact next_keeps ran (takeCommand_stationOk id ok)
  | badCommand code =>
    refine next_keeps ran ?_
    split
    · exact ok
    · exact takeCommand_stationOk id ok
  | transactionTruncated =>
    refine next_keeps ran ?_
    split
    · exact (setLpu_touches s _).stationOk (by decide) ok
    · exact (selRises_touches s).stationOk (by decide) ok
  | transactionBegin =>
    refine next_keeps ran ?_
    split
    · exact (setTransaction_touches _ s).stationOk (by decide) ok
    · exact ok
  | transactionEnd => exact next_keeps ran ((selRises_touches s).stationOk (by decide) ok)
  | pinReset => exact next_keeps ran (pinReset_stationOk s)
  | markEdge input edge =>
    refine next_keeps ran ?_
    split
    · rename_i takes
      have joined : s.stc.station = .joined := by simp_all [State.takesEdge]
      exact (takeEdge_touches input edge s).stationOk_at_joined (by decide) joined ok
    · exact ok
  | sof sampled drove => exact sof_stationOk sampled drove ok ran
  | offer => exact offer_stationOk ok ran
  | lostArbitration => exact lostArbitration_stationOk ok ran
  | errorDetected kind sampled => exact errorDetected_stationOk kind sampled ok ran
  | acceptance f ack => exact acceptance_stationOk f ack ok ran
  | errorFlagEnd => exact errorFlagEnd_stationOk ok ran
  | stuckLineError sampled => exact stuckLineError_stationOk sampled ok ran
  | errorDelimiterEnd sampled => exact errorDelimiterEnd_stationOk sampled ok ran
  | interframeSpaceEnd => exact interframeSpaceEnd_stationOk ok ran
  | integrationComplete => exact integrationComplete_stationOk ok ran
  | holdOffEnd => exact holdOffEnd_stationOk ok ran
  | drainEnd => exact drainEnd_stationOk ok ran
  | idleSpan => exact idleSpan_stationOk ok ran
  | recoveryTimeExpiry =>
    exact next_keeps ran (expire_stationOk
      (fun _ u _ _ => (recoverBy_touches true u).stationOk (by decide)) ok)
  | syncRound => exact next_keeps ran (expire_stationOk (fun _ _ _ _ => syncRound_stationOk) ok)
  | listenWindowEnd =>
    exact next_keeps ran (expire_stationOk
      (fun _ _ held later ok => endWindow_stationOk (listening_of_windowEnd held later ok) ok) ok)
  | scheduleExpiry => exact next_keeps ran (expire_stationOk (fun _ _ _ _ => expireFirst_stationOk) ok)
  | staleTimeExpiry p => exact next_keeps ran (expire_stationOk (fun _ _ _ _ => expireStale_stationOk p) ok)
  | pulseEnd line =>
    exact next_keeps ran (unlessSpent_stationOk
      (expire_stationOk fun _ u _ _ => (endPulse_touches line u).stationOk (by decide)) ok)
  | spacingEnd input =>
    exact next_keeps ran (unlessSpent_stationOk
      (expire_stationOk fun _ u _ _ => (setMarkInput_touches _ _ u).stationOk (by decide)) ok)

/-- Settles O59: what every command and every event of an empty queue keeps, a step keeps. -/
theorem stepKeepsStationState : Obligations.StepKeepsStationState := fun _ _ =>
  step_keeps (P := State.StationOk) (fun c _ _ => exec_stationOk c) (fun _ _ => id) (fun _ => id)
    (fun _ => takeWord_stationOk) (fun s => (settleSpans_touches s).stationOk (by decide))
    (fun s => (tick_touches s).stationOk (by decide))

end Sys2Proof.Machine
end

section
/-! SUPPORT. The send queue and the attempt in flight (O60): what the operations of the SQ make of its records and its beat slot, what each event makes of the attempt, and that every step keeps the two together. -/

namespace Sys2Proof.Machine

/-! ## Records and beat slot -/

/-- What the invariant says of the general records while the LIU holds the attempt of a place. -/
def RecordsOk (place : Option Place) (records : List Record) : Prop :=
  records.Pairwise (fun a b => a.tag.slot < b.tag.slot)
    ∧ (records.filterMap Record.cueNumber).Nodup
    ∧ (∀ r ∈ records, ∀ behind, r.state = .held behind → ∃ what, r.body = .recallBody what)
    ∧ ∀ r ∈ records, r.state = .inFlight → place = some (.slot r.tag.slot)

/-- What it says of the beat slot and of the BEAT pending behind it. -/
def BeatOk (place : Option Place) (pending : Option Beat) (beat : Option BeatRecord) : Prop :=
  (pending.isSome → ∃ b, beat = some b ∧ b.inFlight = true ∧ b.superseded = true)
    ∧ ∀ b, beat = some b → b.inFlight = true → place = some .beat

theorem queueOk_iff (s : State) :
    s.QueueOk ↔ RecordsOk s.attemptPlace s.sq.records ∧ BeatOk s.attemptPlace s.agu.pendingBeat s.sq.beat := by
  unfold State.QueueOk RecordsOk BeatOk
  tauto

/-- The invariant reads the SQ, the pending BEAT and the place of the attempt. -/
theorem queueOk_of_eq {s t : State} (place : t.attemptPlace = s.attemptPlace) (sq : t.sq = s.sq)
    (pending : t.agu.pendingBeat = s.agu.pendingBeat) (ok : s.QueueOk) : t.QueueOk := by
  simpa only [State.QueueOk, place, sq, pending] using ok

theorem Touches.attemptPlace {bs : List Part} {s t : State} (h : Touches bs s t) (apart : .liu ∉ bs) :
    t.attemptPlace = s.attemptPlace := by
  have same := congrArg (Option.map Prod.fst) (h.liu apart).2.1
  rw [Option.map_map, Option.map_map] at same
  exact same

theorem Touches.queueOk {bs : List Part} {s t : State} (h : Touches bs s t)
    (apart : .liu ∉ bs ∧ .sq ∉ bs ∧ .pendingBeat ∉ bs) (ok : s.QueueOk) : t.QueueOk :=
  queueOk_of_eq (h.attemptPlace apart.1) (h.sq apart.2.1) (h.pendingBeat apart.2.2) ok

/-- Two records of one slot are one. -/
theorem RecordsOk.slots_nodup {place : Option Place} {records : List Record} (ok : RecordsOk place records) :
    (records.map fun r => r.tag.slot).Nodup :=
  List.pairwise_map.mpr (ok.1.imp fun below => below.ne)

theorem RecordsOk.sublist {place : Option Place} {l records : List Record} (ok : RecordsOk place records)
    (sub : l.Sublist records) : RecordsOk place l := by
  obtain ⟨order, numbers, held, flying⟩ := ok
  exact ⟨order.sublist sub, numbers.sublist (sub.filterMap _), fun r m => held r (sub.subset m),
    fun r m => flying r (sub.subset m)⟩

/-- Records rewritten one by one, each with its slot and its body, none held that was not, and in flight only where the attempt is. -/
theorem RecordsOk.map {place place' : Option Place} {records : List Record} {f : Record → Record}
    (ok : RecordsOk place records) (slot : ∀ r ∈ records, (f r).tag.slot = r.tag.slot)
    (body : ∀ r ∈ records, (f r).body = r.body)
    (held : ∀ r ∈ records, ∀ behind, (f r).state = .held behind → r.state = .held behind)
    (flying : ∀ r ∈ records, (f r).state = .inFlight → place' = some (.slot r.tag.slot)) :
    RecordsOk place' (records.map f) := by
  obtain ⟨order, numbers, wasHeld, -⟩ := ok
  have same : ∀ r ∈ records, (Record.cueNumber ∘ f) r = r.cueNumber := fun r m => by
    simp [Record.cueNumber, body r m]
  refine ⟨List.pairwise_map.mpr (order.imp_of_mem fun ma mb below => ?_), ?_, ?_, ?_⟩
  · rwa [slot _ ma, slot _ mb]
  · rwa [List.filterMap_map, List.filterMap_congr same]
  · intro r m behind state
    obtain ⟨x, mx, rfl⟩ := List.mem_map.mp m
    rw [body x mx]
    exact wasHeld x mx behind (held x mx behind state)
  · intro r m state
    obtain ⟨x, mx, rfl⟩ := List.mem_map.mp m
    rw [slot x mx]
    exact flying x mx state

/-- With none in flight the LIU may hold any attempt, or none. -/
theorem RecordsOk.of_landed {place place' : Option Place} {records : List Record} (ok : RecordsOk place records)
    (landed : ∀ r ∈ records, r.state ≠ .inFlight) : RecordsOk place' records :=
  ⟨ok.1, ok.2.1, ok.2.2.1, fun r m flying => absurd flying (landed r m)⟩

/-- Without an attempt none is in flight. -/
theorem RecordsOk.landed {records : List Record} (ok : RecordsOk none records) :
    ∀ r ∈ records, r.state ≠ .inFlight := fun r m flying => nomatch ok.2.2.2 r m flying

/-- A released record keeps its tag and its body, and is held or in flight only where it was. -/
theorem released_keeps (tag : Tag) (r : Record) :
    (r.released tag).tag = r.tag ∧ (r.released tag).body = r.body
      ∧ (∀ behind, (r.released tag).state = .held behind → r.state = .held behind)
      ∧ ((r.released tag).state = .inFlight → r.state = .inFlight) := by
  unfold Record.released
  split <;> simp

theorem RecordsOk.without {place : Option Place} {records : List Record} (ok : RecordsOk place records) (tag : Tag) :
    RecordsOk place (recordsWithout tag records) := by
  have kept := ok.sublist (List.filter_sublist (p := fun r => decide (r.tag ≠ tag)))
  refine kept.map (fun r _ => ?_) (fun r _ => (released_keeps tag r).2.1)
    (fun r _ => (released_keeps tag r).2.2.1)
    (fun r m flying => kept.2.2.2 r m ((released_keeps tag r).2.2.2 flying))
  rw [(released_keeps tag r).1]

/-- Records in slot order, and one more of a free slot. -/
theorem insertRecord_pairwise {r : Record} {records : List Record} (free : ∀ x ∈ records, x.tag.slot ≠ r.tag.slot)
    (order : records.Pairwise fun a b => a.tag.slot < b.tag.slot) :
    (insertRecord r records).Pairwise fun a b => a.tag.slot < b.tag.slot := by
  induction records with
  | nil => simp [insertRecord]
  | cons x rest ih =>
    obtain ⟨first, order⟩ := List.pairwise_cons.mp order
    unfold insertRecord
    split
    · rename_i below
      refine List.pairwise_cons.mpr ⟨fun y m => ?_, List.pairwise_cons.mpr ⟨first, order⟩⟩
      obtain rfl | m := List.mem_cons.mp m
      · exact below
      · exact below.trans (first y m)
    · rename_i notBelow
      refine List.pairwise_cons.mpr ⟨fun y m => ?_, ih (fun y m => free y (List.mem_cons_of_mem _ m)) order⟩
      obtain rfl | m := mem_insertRecord.mp m
      · exact lt_of_le_of_ne (not_lt.mp notBelow) (free x List.mem_cons_self)
      · exact first y m

theorem insertRecord_perm (r : Record) (records : List Record) : (insertRecord r records).Perm (r :: records) := by
  induction records with
  | nil => exact List.Perm.refl _
  | cons x rest ih =>
    unfold insertRecord
    split
    · exact List.Perm.refl _
    · exact (ih.cons x).trans (List.Perm.swap r x rest)

theorem RecordsOk.insert {place : Option Place} {records : List Record} {r : Record} (ok : RecordsOk place records)
    (free : ∀ x ∈ records, x.tag.slot ≠ r.tag.slot)
    (number : ∀ n, r.cueNumber = some n → ∀ x ∈ records, x.cueNumber ≠ some n)
    (held : ∀ behind, r.state = .held behind → ∃ what, r.body = .recallBody what) (rests : r.state ≠ .inFlight) :
    RecordsOk place (insertRecord r records) := by
  obtain ⟨order, numbers, wasHeld, flying⟩ := ok
  refine ⟨insertRecord_pairwise free order, ?_, ?_, ?_⟩
  · refine (((insertRecord_perm r records).filterMap _).nodup_iff).mpr ?_
    cases own : r.cueNumber with
    | none => simpa [List.filterMap_cons, own] using numbers
    | some n =>
      rw [List.filterMap_cons, own]
      refine List.nodup_cons.mpr ⟨fun m => ?_, numbers⟩
      obtain ⟨x, mx, same⟩ := List.mem_filterMap.mp m
      exact number n own x mx same
  · intro x m
    obtain rfl | m := mem_insertRecord.mp m
    · exact held
    · exact wasHeld x m
  · intro x m state
    obtain rfl | m := mem_insertRecord.mp m
    · exact absurd state rests
    · exact flying x m state

/-! ## Operations of the SQ -/

theorem leave_sq (r : Record) (how : Completion) (unheard late : Bool) (s : State) :
    (s.leave r how unheard late).sq =
      { s.sq with
        records := recordsWithout r.tag s.sq.records
        generations := s.sq.generations.set r.tag.slot (s.sq.generations[r.tag.slot] + 1) } := by
  simp [State.leave]

theorem leave_queueOk (r : Record) (how : Completion) (unheard late : Bool) {s : State} (ok : s.QueueOk) :
    (s.leave r how unheard late).QueueOk := by
  have frame := leave_touches r how unheard late s
  obtain ⟨records, beat⟩ := (queueOk_iff s).mp ok
  rw [queueOk_iff, frame.attemptPlace (by decide), frame.pendingBeat (by decide), leave_sq]
  exact ⟨records.without r.tag, beat⟩

theorem leaveAll_queueOk (which : Record → Bool) (how : Completion) {s : State} (ok : s.QueueOk) :
    (s.leaveAll which how).QueueOk := by
  unfold State.leaveAll
  generalize s.sq.records.filter which = gone
  induction gone generalizing s with
  | nil => exact ok
  | cons r rest ih => exact ih (leave_queueOk r how false false ok)

/-- A record written over one of its tag: none held that was not, and in flight only where the attempt is. -/
theorem updateRecord_queueOk {r x : Record} {s : State} (ok : s.QueueOk) (held : x ∈ s.sq.records) (tag : r.tag = x.tag)
    (body : r.body = x.body) (state : r.state = x.state ∨ r.state = .waiting) : (s.updateRecord r).QueueOk := by
  obtain ⟨records, beat⟩ := (queueOk_iff s).mp ok
  have one : ∀ y ∈ s.sq.records, y.tag = r.tag → y = x := fun y m same =>
    record_eq_of_slot records.slots_nodup held m (by rw [same, tag])
  refine (queueOk_iff _).mpr ⟨records.map (fun y m => ?_) (fun y m => ?_) (fun y m behind => ?_) (fun y m => ?_), beat⟩
  · split
    · simp_all
    · rfl
  · split
    · rename_i same
      rw [one y m same, body]
    · rfl
  · split
    · rename_i same
      rw [one y m same]
      obtain as | waits := state
      · rw [as]; exact id
      · rw [waits]; exact nofun
    · exact id
  · split
    · rename_i same
      rw [one y m same]
      obtain as | waits := state
      · rw [as]; exact records.2.2.2 x held
      · rw [waits]; exact nofun
    · exact records.2.2.2 y m

theorem freeSlot_free {q : SqState} {slot : Fin 16} (found : q.freeSlot = some slot) :
    ∀ r ∈ q.records, r.tag.slot ≠ slot := by
  have free : q.isFree slot = true := List.find?_some found
  simpa [SqState.isFree] using free

/-- A record created in a free slot: a CUE of a number that no other has, or a RECALL or MARK; and only a RECALL held. -/
theorem createRecord_queueOk {slot : Fin 16} {body : RecordBody} {stale : Option Micros} {state : RecordState}
    {s : State} (ok : s.QueueOk) (free : ∀ r ∈ s.sq.records, r.tag.slot ≠ slot)
    (number : ∀ c, body = .cueBody c → s.sq.holdsCue c.number = false)
    (held : ∀ behind, state = .held behind → ∃ what, body = .recallBody what) (rests : state ≠ .inFlight) :
    (s.createRecord slot body stale state).QueueOk := by
  obtain ⟨records, beat⟩ := (queueOk_iff s).mp ok
  refine (queueOk_iff _).mpr ⟨records.insert free (fun n own x m same => ?_) held rests, beat⟩
  cases body with
  | recallBody => simp [Record.cueNumber] at own
  | markBody => simp [Record.cueNumber] at own
  | cueBody c =>
    obtain rfl : c.number = n := by simpa [Record.cueNumber] using own
    have other := number c rfl
    simp only [SqState.holdsCue, List.any_eq_false] at other
    have differs := other x m
    unfold Record.cueNumber at same
    split at same <;> simp_all

/-! ## The beat slot -/

theorem BeatOk.placed {place : Option Place} {b : BeatRecord} (waits : b.inFlight = false) :
    BeatOk place none (some b) :=
  ⟨nofun, fun c same flying => by cases same; simp [waits] at flying⟩

theorem placeBeat_queueOk (b : Beat) {s : State} (ok : s.QueueOk) : (s.placeBeat b).QueueOk := by
  obtain ⟨records, pending, flying⟩ := (queueOk_iff s).mp ok
  unfold State.placeBeat
  dsimp only
  split
  · rename_i empty
    have none : s.agu.pendingBeat = none := by
      by_contra some
      obtain ⟨c, held, -⟩ := pending (Option.isSome_iff_ne_none.mpr some)
      simp [empty] at held
    refine (queueOk_iff _).mpr ⟨records, ?_⟩
    rw [setSq_agu, none]
    exact BeatOk.placed rfl
  · rename_i held slot
    split
    · rename_i inFlight
      refine (queueOk_iff _).mpr ⟨records, fun _ => ⟨_, rfl, inFlight, rfl⟩, fun c same _ => flying held slot inFlight⟩
    · rename_i waits
      have none : s.agu.pendingBeat = none := by
        by_contra some
        obtain ⟨c, same, inFlight, -⟩ := pending (Option.isSome_iff_ne_none.mpr some)
        simp_all
      refine (queueOk_iff _).mpr ⟨records, ?_⟩
      rw [setSq_agu, none]
      exact BeatOk.placed rfl

/-- A BEAT that leaves the slot takes the pending one with it, or makes room for it; none is in flight then. -/
theorem beatLeft_beat (s : State) :
    s.beatLeft.agu.pendingBeat = none ∧ s.beatLeft.sq.records = s.sq.records
      ∧ ∀ b, s.beatLeft.sq.beat = some b → b.inFlight = false := by
  unfold State.beatLeft
  dsimp only
  split
  · exact ⟨‹_›, rfl, nofun⟩
  · split
    · exact ⟨rfl, rfl, nofun⟩
    · exact ⟨rfl, rfl, fun b same => by cases same; rfl⟩

theorem beatLeft_queueOk {s : State} (ok : s.QueueOk) : s.beatLeft.QueueOk := by
  obtain ⟨records, -⟩ := (queueOk_iff s).mp ok
  obtain ⟨pending, same, rests⟩ := beatLeft_beat s
  rw [queueOk_iff, (beatLeft_touches s).attemptPlace (by decide), pending, same]
  exact ⟨records, nofun, fun b held flying => by simp [rests b held] at flying⟩

/-! ## Stale records, withdrawals, posts -/

theorem removeStale_queueOk {s : State} (ok : s.QueueOk) : s.removeStale.QueueOk := by
  have cleared := leaveAll_queueOk (fun r => decide (r.state = .waiting) && r.isStale s.micros) .stale ok
  unfold State.removeStale
  dsimp only
  split
  · split
    · exact beatLeft_queueOk cleared
    · exact cleared
  · exact cleared

theorem reexamineSq_queueOk (old : Micros) (change : Int) {s : State} (ok : s.QueueOk) :
    (s.reexamineSq old change).QueueOk := by
  unfold State.reexamineSq
  dsimp only
  split
  · split
    · exact beatLeft_queueOk (leaveAll_queueOk _ _ ok)
    · exact leaveAll_queueOk _ _ ok
  · exact leaveAll_queueOk _ _ ok

theorem expireStale_queueOk (p : Place) {s : State} (ok : s.QueueOk) : (s.expireStale p).QueueOk := by
  unfold State.expireStale
  split
  · exact leaveAll_queueOk _ _ ok
  · split
    · split
      · exact ok
      · exact beatLeft_queueOk ok
    · exact ok

theorem mem_of_named {q : SqState} {tag : Tag} {r : Record} (named : q.named tag = some r) : r ∈ q.records :=
  List.mem_of_find?_eq_some named

theorem withdraw_queueOk (tag : Tag) {s : State} (ok : s.QueueOk) : (s.withdraw tag).1.QueueOk := by
  unfold State.withdraw
  split
  · exact ok
  · rename_i r named
    split
    · exact leave_queueOk _ _ _ _ ok
    · exact leave_queueOk _ _ _ _ ok
    · exact updateRecord_queueOk ok (mem_of_named named) rfl rfl (.inl rfl)

theorem postShared_queueOk (a : CueArgs) {s : State} (ok : s.QueueOk) : (s.postShared a).1.QueueOk := by
  unfold State.postShared
  split
  · exact ok
  · split
    · exact ok
    · split
      · exact ok
      · split
        · exact ok
        · rename_i other
          split
          · exact ok
          · exact createRecord_queueOk ok (freeSlot_free ‹_›) (fun c same => by cases same; simpa using other) nofun nofun

theorem holdBehind_queueOk (matching : Record → Bool) {s : State} (ok : s.QueueOk) :
    (s.holdBehind matching).1.QueueOk ∧ (s.holdBehind matching).2 ≠ .inFlight := by
  unfold State.holdBehind
  split
  · rename_i r found
    exact ⟨updateRecord_queueOk ok (List.mem_of_find?_eq_some found) rfl rfl (.inl rfl), nofun⟩
  · exact ⟨ok, nofun⟩

theorem recallShared_queueOk (a : RecallArgs) {s : State} (ok : s.QueueOk) : (s.recallShared a).1.QueueOk := by
  unfold State.recallShared
  split
  · exact ok
  · split
    · exact ok
    · rename_i what _
      unfold State.takeRecall
      dsimp only
      split
      · exact ok
      · obtain ⟨held, rests⟩ := holdBehind_queueOk (recallMatches s.stc.config.id what) (leaveAll_queueOk _ .withdrawn ok)
        exact createRecord_queueOk held (freeSlot_free ‹_›) nofun (fun _ _ => ⟨what, rfl⟩) rests

theorem announce_queueOk (m : MarkContent) {s : State} (ok : s.QueueOk) : (s.announce m).QueueOk := by
  unfold State.announce
  dsimp only
  split
  · exact (post_touches _ _).queueOk (by decide) ok
  · have created := fun stale => createRecord_queueOk (body := .markBody m) (stale := stale) (state := .waiting) ok
      (freeSlot_free ‹_›) nofun nofun nofun
    split
    · split
      · exact leave_queueOk _ _ _ _ (created _)
      · exact created _
    · exact created _

/-! ## Attempts -/

/-- None of the records and no BEAT is in flight. -/
def State.Landed (s : State) : Prop :=
  (∀ r ∈ s.sq.records, r.state ≠ .inFlight) ∧ ∀ b, s.sq.beat = some b → b.inFlight = false

/-- Without an attempt nothing is in flight. -/
theorem State.QueueOk.landed {s : State} (ok : s.QueueOk) (none : s.attemptPlace = none) : s.Landed := by
  obtain ⟨records, -, flying⟩ := (queueOk_iff s).mp ok
  rw [none] at records flying
  exact ⟨records.landed, fun b held => by
    by_contra on
    exact nomatch flying b held (by simpa using on)⟩

/-- With nothing in flight the LIU may come to hold any attempt, or none. -/
theorem State.QueueOk.setLiu_of_landed {s : State} (ok : s.QueueOk) (landed : s.Landed) (l : LiuBlock) :
    (s.setLiu l).QueueOk := by
  obtain ⟨records, pending, -⟩ := (queueOk_iff s).mp ok
  exact (queueOk_iff _).mpr ⟨records.of_landed landed.1, pending, fun b held on => by simp [landed.2 b held] at on⟩

/-- The LIU written with its attempt. -/
theorem State.QueueOk.setLiu {s : State} {l : LiuBlock} (ok : s.QueueOk)
    (attempt : l.attempt.map Attempt.place = s.attemptPlace) : (s.setLiu l).QueueOk :=
  queueOk_of_eq attempt rfl rfl ok

/-- While the attempt is a general record's, no other record and no BEAT is in flight. -/
theorem landed_of_slot {slot : Fin 16} {s : State} (ok : s.QueueOk) (place : s.attemptPlace = some (.slot slot))
    (rests : ∀ r ∈ s.sq.records, r.tag.slot = slot → r.state ≠ .inFlight) : s.Landed := by
  obtain ⟨records, -, flying⟩ := (queueOk_iff s).mp ok
  rw [place] at records flying
  refine ⟨fun r m on => rests r m ?_ on, fun b held => ?_⟩
  · simpa using (records.2.2.2 r m on).symm
  · by_contra on
    simpa using flying b held (by simpa using on)

/-- A record of the SQ that leaves, or waits again, is in flight no longer. -/
theorem leave_rests {x : Record} (r : Record) (how : Completion) (unheard late : Bool) {s : State} (ok : s.QueueOk)
    (held : x ∈ s.sq.records) (tag : r.tag = x.tag) :
    ∀ y ∈ (s.leave r how unheard late).sq.records, y.tag.slot ≠ x.tag.slot := by
  obtain ⟨records, -⟩ := (queueOk_iff s).mp ok
  rw [leave_sq]
  intro y m same
  obtain ⟨z, mz, rfl⟩ := List.mem_map.mp m
  rw [(released_keeps r.tag z).1] at same
  obtain ⟨mz, other⟩ := List.mem_filter.mp mz
  obtain rfl := record_eq_of_slot records.slots_nodup held mz same
  simp [tag] at other

theorem updateRecord_rests {x r : Record} {s : State} (ok : s.QueueOk) (held : x ∈ s.sq.records) (tag : r.tag = x.tag)
    (rests : r.state ≠ .inFlight) :
    ∀ y ∈ (s.updateRecord r).sq.records, y.tag.slot = x.tag.slot → y.state ≠ .inFlight := by
  obtain ⟨records, -⟩ := (queueOk_iff s).mp ok
  intro y m same
  obtain ⟨z, mz, rfl⟩ := List.mem_map.mp m
  split
  · exact rests
  · rename_i other
    rw [if_neg other] at same
    exact absurd (by rw [record_eq_of_slot records.slots_nodup held mz same, tag]) other

theorem endedUnsent_queueOk {x r : Record} (usedUp : Bool) {s : State} (ok : s.QueueOk) (held : x ∈ s.sq.records)
    (tag : r.tag = x.tag) (body : r.body = x.body) :
    (s.endedUnsent usedUp r).QueueOk
      ∧ ∀ y ∈ (s.endedUnsent usedUp r).sq.records, y.tag.slot = x.tag.slot → y.state ≠ .inFlight := by
  have left : ∀ how, (s.leave r how false false).QueueOk
      ∧ ∀ y ∈ (s.leave r how false false).sq.records, y.tag.slot = x.tag.slot → y.state ≠ .inFlight := fun how =>
    ⟨leave_queueOk r how false false ok, fun y m same => absurd same (leave_rests r how false false ok held tag y m)⟩
  unfold State.endedUnsent
  split
  · exact left _
  · split
    · exact left _
    · split
      · exact left _
      · exact ⟨updateRecord_queueOk ok held tag body (.inr rfl), updateRecord_rests ok held tag nofun⟩

theorem recordEnded_queueOk {r : Record} (how : AttemptEnd) {s : State} (ok : s.QueueOk) (held : r ∈ s.sq.records) :
    (s.recordEnded how r).QueueOk
      ∧ ∀ y ∈ (s.recordEnded how r).sq.records, y.tag.slot = r.tag.slot → y.state ≠ .inFlight := by
  cases how with
  | sent unheard =>
    exact ⟨leave_queueOk _ _ _ _ ok, fun y m same => absurd same (leave_rests _ _ _ _ ok held rfl y m)⟩
  | lost => exact endedUnsent_queueOk _ ok held rfl rfl
  | error => exact endedUnsent_queueOk _ ok held rfl rfl

theorem beatEnded_queueOk {b : BeatRecord} (how : AttemptEnd) {s : State} (ok : s.QueueOk) (held : s.sq.beat = some b) :
    (s.beatEnded how b).QueueOk ∧ ∀ c, (s.beatEnded how b).sq.beat = some c → c.inFlight = false := by
  have left := And.intro (beatLeft_queueOk ok) (beatLeft_beat s).2.2
  have unsent : ∀ usedUp (c : BeatRecord), c.superseded = b.superseded →
      (s.beatEndedUnsent usedUp c).QueueOk ∧ ∀ d, (s.beatEndedUnsent usedUp c).sq.beat = some d → d.inFlight = false := by
    intro usedUp c same
    unfold State.beatEndedUnsent
    split
    · exact left
    · rename_i stays
      obtain ⟨records, pending, -⟩ := (queueOk_iff s).mp ok
      have none : s.agu.pendingBeat = none := by
        by_contra some
        obtain ⟨d, eq, -, superseded⟩ := pending (Option.isSome_iff_ne_none.mpr some)
        simp_all
      refine ⟨(queueOk_iff _).mpr ⟨records, ?_⟩, fun d eq => by cases eq; rfl⟩
      rw [setSq_agu, none]
      exact BeatOk.placed rfl
  cases how with
  | sent unheard => exact left
  | lost => exact unsent _ _ rfl
  | error => exact unsent _ _ rfl

/-- The end of the attempt that the LIU holds leaves nothing in flight. -/
theorem attemptEnded_queueOk {p : Place} (how : AttemptEnd) {s : State} (ok : s.QueueOk) (place : s.attemptPlace = some p) :
    (s.attemptEnded how p).QueueOk ∧ (s.attemptEnded how p).Landed := by
  have still := (attemptEnded_touches how p s).attemptPlace (by decide)
  have both : (s.attemptEnded how p).QueueOk
      ∧ match p with
        | .slot slot => ∀ r ∈ (s.attemptEnded how p).sq.records, r.tag.slot = slot → r.state ≠ .inFlight
        | .beat => ∀ b, (s.attemptEnded how p).sq.beat = some b → b.inFlight = false := by
    cases p with
    | slot slot =>
      simp only [State.attemptEnded]
      split
      · rename_i r found
        obtain ⟨rfl, -⟩ : r.tag.slot = slot ∧ r.state = .inFlight := by simpa using List.find?_some found
        exact recordEnded_queueOk how ok (List.mem_of_find?_eq_some found)
      · rename_i none
        exact ⟨ok, fun r m same on => by simpa [same, on] using List.find?_eq_none.mp none r m⟩
    | beat =>
      simp only [State.attemptEnded]
      split
      · rename_i b held
        split
        · exact beatEnded_queueOk how ok held
        · exact ⟨ok, fun c same => by simp_all⟩
      · exact ⟨ok, fun b same => by simp_all⟩
  obtain ⟨kept, rests⟩ := both
  refine ⟨kept, ?_⟩
  cases p with
  | slot slot => exact landed_of_slot kept (still.trans place) rests
  | beat =>
    obtain ⟨records, -⟩ := (queueOk_iff _).mp kept
    rw [still, place] at records
    exact ⟨fun r m on => (nomatch records.2.2.2 r m on), rests⟩

theorem endAttempt_queueOk (how : AttemptEnd) {s : State} (ok : s.QueueOk) : (s.endAttempt how).QueueOk := by
  unfold State.endAttempt
  split
  · rename_i a held
    obtain ⟨kept, landed⟩ := attemptEnded_queueOk how ok (p := a.place) (by simp [State.attemptPlace, held])
    exact kept.setLiu_of_landed landed _
  · exact ok

/-! ## The line -/

theorem setLiuState_queueOk (l : LiuState) {s : State} (ok : s.QueueOk) : (s.setLiuState l).QueueOk := ok.setLiu rfl

theorem frameError_queueOk (role : Role) (sampled : List Bool) {s : State} (ok : s.QueueOk) :
    (s.frameError role sampled).QueueOk := by
  unfold State.frameError
  split
  · exact setLiuState_queueOk _ (s := s.dropCapture) ((setBtu_touches s _).queueOk (by decide) ok)
  · have ended : ((s.reportError role sampled).endAttempt .error).dropCapture.QueueOk :=
      (setBtu_touches _ _).queueOk (by decide)
        (endAttempt_queueOk _ ((reportError_touches role sampled s).queueOk (by decide) ok))
    cases role with
    | sender => exact setLiuState_queueOk _ (s := State.markOwnEnded _) (ended.setLiu rfl)
    | receiver => exact setLiuState_queueOk _ ended

theorem sof_queueOk (sampled drove : Bool) {s t : State} (ok : s.QueueOk)
    (ran : exec (.sof sampled drove) s = .next t) : t.QueueOk := by
  refine next_keeps ran ?_
  split
  · have begun : (s.hardSync.sofBit sampled).QueueOk := by
      have synced : s.hardSync.QueueOk := ok.setLiu rfl
      unfold State.sofBit
      split
      · exact (sampled_touches _ _).queueOk (by decide) synced
      · exact synced
    generalize s.hardSync.sofBit sampled = u at begun ⊢
    have captured : u.captureSof.QueueOk := (setBtu_touches u _).queueOk (by decide) begun
    unfold State.sampleSof
    split
    · exact setLiuState_queueOk _ captured
    · exact frameError_queueOk _ _ begun
    · exact (endAttempt_queueOk .lost captured).setLiu rfl
    · exact begun
  · exact ok

/-- An offer taken puts one record or the BEAT in flight, where nothing was (R73). -/
theorem takeOffer_queueOk (p : Place) {s : State} (ok : s.QueueOk) (landed : s.Landed) : (s.takeOffer p).QueueOk := by
  obtain ⟨records, pending, -⟩ := (queueOk_iff s).mp ok
  have rest : s.agu.pendingBeat.isSome → ∀ {P : Prop}, P := fun some => by
    obtain ⟨b, held, on, -⟩ := pending some
    simp [landed.2 b held] at on
  unfold State.takeOffer
  split
  · cases p with
    | slot slot =>
      refine (queueOk_iff _).mpr ⟨records.map (fun r _ => ?_) (fun r _ => ?_) (fun r _ behind => ?_) (fun r m => ?_),
        fun some => rest some, fun b held on => by simp [landed.2 b held] at on⟩
      · split <;> rfl
      · split <;> rfl
      · split
        · exact nofun
        · exact id
      · split
        · rename_i here
          exact fun _ => by rw [here]; rfl
        · exact fun on => absurd on (landed.1 r m)
    | beat =>
      exact (queueOk_iff _).mpr ⟨records.of_landed landed.1, fun some => rest some, fun _ _ _ => rfl⟩
  · exact ok

theorem offer_queueOk {s t : State} (ok : s.QueueOk) (ran : exec .offer s = .next t) : t.QueueOk := by
  refine next_keeps ran ?_
  split
  · rename_i may
    have none : s.attemptPlace = none := by simp_all [State.mayOffer, State.attemptPlace]
    have cleared := removeStale_queueOk ok
    have landed := cleared.landed (((removeStale_touches s).attemptPlace (by decide)).trans none)
    unfold State.offer
    dsimp only
    split
    · exact takeOffer_queueOk _ cleared landed
    · exact cleared
  · exact ok

/-- A draining station is OFFLINE and holds no record, so its attempt ends unreported (R19). -/
theorem endDrain_queueOk {s : State} (station : s.StationOk) (ok : s.QueueOk) (draining : s.stc.draining = true) :
    s.endDrain.QueueOk := by
  obtain ⟨-, -, -, -, -, records, beat⟩ := station.empty (by simp [(station.of_draining draining).1])
  have landed : s.Landed := ⟨fun r m => by simp [records] at m, fun b held => by simp [beat] at held⟩
  exact (setStc_touches _ _).queueOk (by decide)
    ((setBtu_touches _ _).queueOk (by decide) (ok.setLiu_of_landed landed _))

theorem lostArbitration_queueOk {s t : State} (station : s.StationOk) (ok : s.QueueOk)
    (ran : exec .lostArbitration s = .next t) : t.QueueOk := by
  refine next_keeps ran ?_
  split
  · split
    · exact endDrain_queueOk station ok ‹_›
    · exact setLiuState_queueOk _ (endAttempt_queueOk _ ok)
  · exact ok

theorem errorDetected_queueOk (kind : ErrorKind) (sampled : List Bool) {s t : State} (ok : s.QueueOk)
    (ran : exec (.errorDetected kind sampled) s = .next t) : t.QueueOk := by
  refine next_keeps ran ?_
  split
  · exact setLiuState_queueOk _ ((reportError_touches .receiver sampled s).queueOk (by decide) ok)
  · split
    · exact frameError_queueOk _ _ ok
    · exact ok

theorem errorFlagEnd_queueOk {s t : State} (ok : s.QueueOk) (ran : exec .errorFlagEnd s = .next t) : t.QueueOk := by
  refine next_keeps ran ?_
  split
  · exact setLiuState_queueOk _ ok
  · exact ok

theorem stuckLineError_queueOk (sampled : List Bool) {s t : State} (ok : s.QueueOk)
    (ran : exec (.stuckLineError sampled) s = .next t) : t.QueueOk := by
  refine next_keeps ran ?_
  split
  · split
    · exact ok
    · exact (reportError_touches _ _ _).queueOk (by decide) ok
  · exact ok

theorem errorDelimiterEnd_queueOk (sampled : List Bool) {s t : State} (station : s.StationOk) (ok : s.QueueOk)
    (ran : exec (.errorDelimiterEnd sampled) s = .next t) : t.QueueOk := by
  refine next_keeps ran ?_
  split
  · split
    · exact endDrain_queueOk station ok ‹_›
    · exact (sampled_touches _ _).queueOk (by decide) (setLiuState_queueOk _ ok)
  · exact ok

theorem acceptance_queueOk (f : Frame) (ack : Bool) {s t : State} (station : s.StationOk) (ok : s.QueueOk)
    (ran : exec (.acceptance f ack) s = .next t) : t.QueueOk := by
  refine next_keeps ran ?_
  have reported : s.reportAcceptance.QueueOk := (reportAcceptance_touches s).queueOk (by decide) ok
  have spaced : ∀ {u : State}, u.QueueOk → u.afterAcceptance.QueueOk := fun {u} ok =>
    setLiuState_queueOk _ (s := u.dropCapture) ((setBtu_touches u _).queueOk (by decide) ok)
  split
  · unfold State.acceptSending
    split
    · exact endDrain_queueOk station ok ‹_›
    · split
      · exact ok
      · split
        · exact (intake_touches _ _).queueOk (by decide)
            (spaced (u := State.markOwnEnded _) ((endAttempt_queueOk _ reported).setLiu rfl))
        · exact ok
  · exact (intake_touches _ _).queueOk (by decide) (spaced ((reportAcceptance_touches _).queueOk (by decide)
      ((sampled_touches (lineBits f ack) s).queueOk (by decide) ok)))
  · exact ok

/-! ## Steps of bus time and rounds -/

theorem stepTime_queueOk (amount : Int) {s : State} (ok : s.QueueOk) : (s.stepTime amount).QueueOk := by
  have word : ∀ {u : State}, u.QueueOk → u.takeWord.QueueOk := fun {u} => (takeWord_touches u).queueOk (by decide)
  have fault : ∀ old change {u : State}, u.QueueOk → (u.reexamineFcu old change).QueueOk := fun old change {u} =>
    (reexamineFcu_touches old change u).queueOk (by decide)
  have queue : ∀ old change {u : State}, u.QueueOk → (u.reexamineSq old change).QueueOk := fun old change {u} =>
    reexamineSq_queueOk old change
  have taken : ∀ order old change {u : State}, u.QueueOk → (u.reexamine order old change).QueueOk := by
    intro order old change u ok
    unfold State.reexamine
    split
    · exact fault _ _ (queue _ _ (word ok))
    · exact queue _ _ (fault _ _ (word ok))
    · exact fault _ _ (word (queue _ _ ok))
    · exact word (fault _ _ (queue _ _ ok))
    · exact queue _ _ (word (fault _ _ ok))
    · exact word (queue _ _ (fault _ _ ok))
    · exact fault _ _ (queue _ _ ok)
    · exact queue _ _ (fault _ _ ok)
  unfold State.stepTime
  split
  · exact ok
  · exact taken _ _ _ ((drawn_touches _).queueOk (by decide) ((setWord_touches _ _).queueOk (by decide)
      ((moveLocal_touches _ _ _).queueOk (by decide) ((stampAttempt_touches s).queueOk (by decide) ok))))

/-- The AGU written with its pending BEAT. -/
theorem State.QueueOk.setAgu {s : State} {a : AguState} (ok : s.QueueOk) (pending : a.pendingBeat = s.agu.pendingBeat) :
    (s.setAgu a).QueueOk := queueOk_of_eq (s := s) (t := s.setAgu a) rfl rfl pending ok

theorem roundAt_queueOk (boundary : Micros) {s : State} (ok : s.QueueOk) : (s.roundAt boundary).QueueOk := by
  have corrected : ∀ began correction {u : State}, u.QueueOk → (u.correct began correction).QueueOk := by
    intro began correction u ok
    unfold State.correct
    split
    · exact (setBtu_touches _ _).queueOk (by decide) (stepTime_queueOk correction ok)
    · exact State.QueueOk.setAgu (s := u.setBtu _) ok rfl
  have built : ∀ change fresh {u : State}, u.QueueOk → (u.buildBeat boundary change fresh).QueueOk := by
    intro change fresh u ok
    unfold State.buildBeat
    dsimp only
    split
    · exact ok
    · exact placeBeat_queueOk _ (ok.setAgu rfl)
  have cleared : ∀ {u : State}, u.QueueOk → (u.setAgu u.agu.cleared).QueueOk := fun ok => ok.setAgu rfl
  have bounded : ∀ b {u : State}, u.QueueOk → (u.setAgu { u.agu with boundary := b }).QueueOk := fun _ {_} ok =>
    ok.setAgu rfl
  have counted : ∀ n {u : State}, u.QueueOk → (u.setAgu { u.agu with fresh := n }).QueueOk := fun _ {_} ok =>
    ok.setAgu rfl
  unfold State.roundAt
  dsimp only
  refine (setIku_touches _ _).queueOk (by decide) (bounded _ (built _ _ (cleared ?_)))
  refine (updateSync_touches _ _ _ _).queueOk (by decide) (corrected _ _ (counted _ ?_))
  exact (agePeers_touches s).queueOk (by decide) ok

theorem syncRound_queueOk {s : State} (ok : s.QueueOk) : s.syncRound.QueueOk := by
  unfold State.syncRound
  split
  · exact roundAt_queueOk _ ok
  · exact ok

theorem endWindow_queueOk {s : State} (ok : s.QueueOk) : s.endWindow.QueueOk := by
  have acquired : s.acquire.QueueOk := by
    unfold State.acquire
    exact (setIku_touches _ _).queueOk (by decide) ((tellClu_touches _ _).queueOk (by decide)
      (State.QueueOk.setAgu (stepTime_queueOk _ ok) rfl))
  exact (post_touches _ _).queueOk (by decide) ((setStc_touches _ _).queueOk (by decide) acquired)

/-! ## Every step -/

theorem takeWord_queueOk {s : State} (ok : s.QueueOk) : s.takeWord.QueueOk := (takeWord_touches s).queueOk (by decide) ok

theorem takeCommand_queueOk {s : State} {handle : State → State × Reply} (owner : s.QueueOk → (handle s).1.QueueOk)
    (ok : s.QueueOk) : (s.takeCommand handle).QueueOk :=
  takeCommand_keeps (P := State.QueueOk) (fun s _ => (setLpu_touches s _).queueOk (by decide)) owner ok

/-- Configuration commands, LOCAL posts and reads leave the SQ and the LIU. -/
theorem takeCommand_queueOk_of_touches {bs : List Part} {s : State} {handle : State → State × Reply}
    (frame : Touches bs s (handle s).1) (apart : .liu ∉ bs ∧ .sq ∉ bs ∧ .pendingBeat ∉ bs) (ok : s.QueueOk) :
    (s.takeCommand handle).QueueOk :=
  takeCommand_queueOk (frame.queueOk apart) ok

theorem configure_touches {α : Type} {bs : List Part} {values : Option α} {write : α → State → State} {s : State}
    (frame : ∀ v, Touches bs s (write v s)) : Touches bs s (s.configure values write).1 := by
  unfold State.configure
  split
  · exact Touches.refl _ _
  · split
    · exact Touches.refl _ _
    · exact frame _

theorem expire_queueOk {s : State} {stored : State → Option Micros} {event : State → State}
    (owner : ∀ u : State, u.QueueOk → (event u).QueueOk) (ok : s.QueueOk) : (s.expire stored event).QueueOk :=
  expire_keeps (P := State.QueueOk) takeWord_queueOk (fun t s => (runTo_touches t s).queueOk (by decide))
    (fun _ u _ _ => owner u) ok

theorem unlessSpent_queueOk {s : State} {c : Instr} {event : State → State} (owner : s.QueueOk → (event s).QueueOk)
    (ok : s.QueueOk) : (s.unlessSpent c event).QueueOk :=
  unlessSpent_keeps (P := State.QueueOk) takeWord_queueOk (fun s _ => (setSpent_touches s _).queueOk (by decide)) owner ok

theorem restart_queueOk (s : State) : s.restart.QueueOk := by
  have blocks : s.restartBlocks.QueueOk := ⟨.nil, .nil, nofun, nofun, nofun, nofun⟩
  exact (settlePosts_touches _).queueOk (by decide) ((post_touches _ _).queueOk (by decide) blocks)

theorem join_queueOk {s : State} (ok : s.QueueOk) : s.join.1.QueueOk := by
  unfold State.join
  repeat' split
  all_goals exact ok

theorem markEdge_queueOk (input : Fin 4) (edge : Edge) {s t : State} (ok : s.QueueOk)
    (ran : exec (.markEdge input edge) s = .next t) : t.QueueOk := by
  refine next_keeps ran ?_
  split
  · have seen : s.edgeSeen.2.QueueOk := (edgeSeen_touches s).queueOk (by decide) ok
    unfold State.takeEdge State.takeSeenEdge
    generalize s.edgeSeen.2 = u at seen ⊢
    have reacted : ∀ {k x c b m}, (((u.spend k (.spacingEnd input)).setMarkInput input x).postIf c b |>.react m).QueueOk :=
      fun {_ _ _ _ _} => (react_touches _ _).queueOk (by decide) ((postIf_touches _ _ _).queueOk (by decide)
        ((setMarkInput_touches _ _ _).queueOk (by decide) ((spend_touches _ _ _).queueOk (by decide) seen)))
    dsimp only
    split
    · exact announce_queueOk _ reacted
    · exact reacted
  · exact ok

theorem exec_queueOk (c : Instr) {s t : State} (station : s.StationOk) (ok : s.QueueOk) (ran : exec c s = .next t) :
    t.QueueOk := by
  cases c with
  | setStation a =>
    exact next_keeps ran (takeCommand_queueOk_of_touches (configure_touches fun _ => setStc_touches s _) (by decide) ok)
  | setLine a =>
    exact next_keeps ran (takeCommand_queueOk_of_touches (configure_touches fun _ => setClu_touches s _) (by decide) ok)
  | setInput a =>
    exact next_keeps ran (takeCommand_queueOk_of_touches
      (configure_touches fun _ => setMarkInput_touches _ _ s) (by decide) ok)
  | setSubscription a =>
    exact next_keeps ran (takeCommand_queueOk_of_touches (configure_touches fun _ => setIku_touches s _) (by decide) ok)
  | setReaction a =>
    exact next_keeps ran (takeCommand_queueOk_of_touches (configure_touches fun _ => setMku_touches s _) (by decide) ok)
  | join => exact next_keeps ran (takeCommand_queueOk join_queueOk ok)
  | restart => exact next_keeps ran (takeCommand_queueOk (fun _ => restart_queueOk s) ok)
  | postCueShared a => exact next_keeps ran (takeCommand_queueOk (postShared_queueOk a) ok)
  | postCueLocal a => exact next_keeps ran (takeCommand_queueOk_of_touches (postLocal_touches a s) (by decide) ok)
  | postRecallShared a => exact next_keeps ran (takeCommand_queueOk (recallShared_queueOk a) ok)
  | postRecallLocal a => exact next_keeps ran (takeCommand_queueOk_of_touches (recallLocal_touches a s) (by decide) ok)
  | withdraw tag => exact next_keeps ran (takeCommand_queueOk (withdraw_queueOk tag) ok)
  | readNotice => exact next_keeps ran (takeCommand_queueOk_of_touches (takeNotice_touches s) (by decide) ok)
  | readStatus | readTime | readPeer | readEntry | readRecord => exact next_keeps ran (takeCommand_queueOk id ok)
  | badCommand code =>
    refine next_keeps ran ?_
    split
    · exact ok
    · exact takeCommand_queueOk id ok
  | transactionTruncated =>
    refine next_keeps ran ?_
    split
    · exact (setLpu_touches s _).queueOk (by decide) ok
    · exact (selRises_touches s).queueOk (by decide) ok
  | transactionBegin =>
    refine next_keeps ran ?_
    split
    · exact (setTransaction_touches _ s).queueOk (by decide) ok
    · exact ok
  | transactionEnd => exact next_keeps ran ((selRises_touches s).queueOk (by decide) ok)
  | pinReset => exact next_keeps ran ⟨.nil, .nil, nofun, nofun, nofun, nofun⟩
  | markEdge input edge => exact markEdge_queueOk input edge ok ran
  | sof sampled drove => exact sof_queueOk sampled drove ok ran
  | offer => exact offer_queueOk ok ran
  | lostArbitration => exact lostArbitration_queueOk station ok ran
  | errorDetected kind sampled => exact errorDetected_queueOk kind sampled ok ran
  | acceptance f ack => exact acceptance_queueOk f ack station ok ran
  | errorFlagEnd => exact errorFlagEnd_queueOk ok ran
  | stuckLineError sampled => exact stuckLineError_queueOk sampled ok ran
  | errorDelimiterEnd sampled => exact errorDelimiterEnd_queueOk sampled station ok ran
  | interframeSpaceEnd =>
    refine next_keeps ran ?_
    split
    · exact (sampled_touches _ _).queueOk (by decide) (State.QueueOk.setLiu ok rfl)
    · exact ok
  | integrationComplete =>
    refine next_keeps ran ?_
    split
    · exact setLiuState_queueOk _ ok
    · exact ok
  | holdOffEnd =>
    refine next_keeps ran ?_
    split
    · exact ok.setLiu rfl
    · exact ok
  | drainEnd =>
    refine next_keeps ran ?_
    split
    · exact endDrain_queueOk station ok ‹_›
    · exact ok
  | idleSpan =>
    refine next_keeps ran ?_
    split
    · exact (setSpent_touches s _).queueOk (by decide) ok
    · exact (countSpan_touches s).queueOk (by decide) ok
  | recoveryTimeExpiry =>
    exact next_keeps ran (expire_queueOk (fun u => (recoverBy_touches true u).queueOk (by decide)) ok)
  | syncRound => exact next_keeps ran (expire_queueOk (fun _ => syncRound_queueOk) ok)
  | listenWindowEnd => exact next_keeps ran (expire_queueOk (fun _ => endWindow_queueOk) ok)
  | scheduleExpiry =>
    exact next_keeps ran (expire_queueOk (fun u => (expireFirst_touches u).queueOk (by decide)) ok)
  | staleTimeExpiry p => exact next_keeps ran (expire_queueOk (fun _ => expireStale_queueOk p) ok)
  | pulseEnd line =>
    exact next_keeps ran (unlessSpent_queueOk
      (expire_queueOk fun u => (endPulse_touches line u).queueOk (by decide)) ok)
  | spacingEnd input =>
    exact next_keeps ran (unlessSpent_queueOk
      (expire_queueOk fun u => (setMarkInput_touches _ _ u).queueOk (by decide)) ok)

/-- Settles O60: what every command and every event of an empty queue keeps, with the station state beside it, a step keeps. -/
theorem stepKeepsOneInFlight : Obligations.StepKeepsOneInFlight := fun s t station ok ran =>
  (step_keeps (P := fun s => s.StationOk ∧ s.QueueOk)
    (fun c _ _ ok ran => ⟨exec_stationOk c ok.1 ran, exec_queueOk c ok.1 ok.2 ran⟩) (fun _ _ ok => ok) (fun _ ok => ok)
    (fun _ ok => ⟨takeWord_stationOk ok.1, takeWord_queueOk ok.2⟩)
    (fun s ok => ⟨(settleSpans_touches s).stationOk (by decide) ok.1, (settleSpans_touches s).queueOk (by decide) ok.2⟩)
    (fun s ok => ⟨(tick_touches s).stationOk (by decide) ok.1, (tick_touches s).queueOk (by decide) ok.2⟩)
    ⟨station, ok⟩ ran).2

end Sys2Proof.Machine
end

section
/-! SUPPORT. The statements' words for what the FCU, the SQ and the LPU do, tied to the operations of the model: the run of recessive bits, error and acceptance reports, records and BEATs that leave, stale times, and the posting of notices beside writes of other blocks. -/

namespace Sys2Proof.Machine

/-! ## Posting beside other writes -/

section Post

variable (s : State) (body : NoticeBody)

/-- Posting reads the notice queue, what is kept of this cycle's notices, and bus time. -/
theorem post_congr {s t : State} (lpu : t.lpu = s.lpu) (posted : t.posted = s.posted) (now : t.micros = s.micros)
    (body : NoticeBody) : (t.post body).lpu = (s.post body).lpu ∧ (t.post body).posted = (s.post body).posted := by
  have places : t.freePlaces body.poster = s.freePlaces body.poster := by simp [State.freePlaces, lpu, posted]
  have joined : ∀ n (u v : State), v.lpu = u.lpu → v.posted = u.posted → v.micros = u.micros →
      (v.joinQueue n body).lpu = (u.joinQueue n body).lpu ∧ (v.joinQueue n body).posted = (u.joinQueue n body).posted := by
    intro n u v lpu posted now
    unfold State.joinQueue
    dsimp only
    rw [lpu, posted, now]
    split <;> exact ⟨rfl, rfl⟩
  unfold State.post
  dsimp only
  rw [places, posted]
  split
  · exact joined _ _ _ lpu posted now
  · exact joined _ _ _ lpu rfl now

/-- Posting writes the notice queue and what is kept of this cycle's notices. -/
theorem post_eq : s.post body = (s.setLpu (s.post body).lpu).setPosted (s.post body).posted :=
  State.ext_of (by simp) (by simp) (by simp) (by simp) (by simp) (by simp) (by simp) (by simp) (by simp) (by simp)
    (by simp) (by simp) (by simp) (by simp) (by simp)

/-- A notice posted in a state that differs in other blocks. -/
theorem post_of_congr {s t : State} (lpu : t.lpu = s.lpu) (posted : t.posted = s.posted) (now : t.micros = s.micros)
    (body : NoticeBody) : t.post body = (t.setLpu (s.post body).lpu).setPosted (s.post body).posted := by
  obtain ⟨sameLpu, samePosted⟩ := post_congr lpu posted now body
  rw [post_eq t, sameLpu, samePosted]

theorem setLiu_post (b : LiuBlock) : (s.setLiu b).post body = (s.post body).setLiu b := by
  rw [post_of_congr (s := s) (t := s.setLiu b) rfl rfl rfl]; conv_rhs => rw [post_eq s]
  rfl
theorem setFcu_post (b : FcuState) : (s.setFcu b).post body = (s.post body).setFcu b := by
  rw [post_of_congr (s := s) (t := s.setFcu b) rfl rfl rfl]; conv_rhs => rw [post_eq s]
  rfl
theorem setSq_post (b : SqState) : (s.setSq b).post body = (s.post body).setSq b := by
  rw [post_of_congr (s := s) (t := s.setSq b) rfl rfl rfl]; conv_rhs => rw [post_eq s]
  rfl
theorem setAgu_post (b : AguState) : (s.setAgu b).post body = (s.post body).setAgu b := by
  rw [post_of_congr (s := s) (t := s.setAgu b) rfl rfl rfl]; conv_rhs => rw [post_eq s]
  rfl
theorem setBtu_post {b : BtuState} (now : b.time = s.btu.time) :
    (s.setBtu b).post body = (s.post body).setBtu b := by
  rw [post_of_congr (s := s) (t := s.setBtu b) rfl rfl (congrArg microsOf now)]; conv_rhs => rw [post_eq s]
  rfl

end Post

/-! ## Bus time beside writes of other blocks -/

section Micros

variable (s : State)

@[simp] theorem setStc_micros (b : StcState) : (s.setStc b).micros = s.micros := rfl
@[simp] theorem setLiu_micros (b : LiuBlock) : (s.setLiu b).micros = s.micros := rfl
@[simp] theorem setFcu_micros (b : FcuState) : (s.setFcu b).micros = s.micros := rfl
@[simp] theorem setAgu_micros (b : AguState) : (s.setAgu b).micros = s.micros := rfl
@[simp] theorem setSq_micros (b : SqState) : (s.setSq b).micros = s.micros := rfl
@[simp] theorem setIku_micros (b : IkuState) : (s.setIku b).micros = s.micros := rfl
@[simp] theorem setCsu_micros (b : CsuState) : (s.setCsu b).micros = s.micros := rfl
@[simp] theorem setClu_micros (b : CluState) : (s.setClu b).micros = s.micros := rfl
@[simp] theorem setMku_micros (b : MkuState) : (s.setMku b).micros = s.micros := rfl
@[simp] theorem setLpu_micros (b : LpuState) : (s.setLpu b).micros = s.micros := rfl
@[simp] theorem setPosted_micros (b : Posted) : (s.setPosted b).micros = s.micros := rfl
@[simp] theorem setDraws_micros (b : Nat) : (s.setDraws b).micros = s.micros := rfl

/-- A write of the BTU that leaves the counter. -/
theorem setBtu_micros {b : BtuState} (now : b.time = s.btu.time) : (s.setBtu b).micros = s.micros :=
  congrArg microsOf now

end Micros

/-! ## The run of recessive bits -/

/-- A recessive bit in front of others lengthens the run that they find (R26). -/
theorem runBehind_recessive (run : Nat) (bits : List Bool) :
    Claims.runBehind run (true :: bits) = Claims.runBehind (run + 1) bits := by
  unfold Claims.runBehind
  by_cases dominant : false ∈ bits
  · have inner : ∃ x ∈ bits.reverse, ¬(id x = true) := ⟨false, by simpa using dominant, by simp⟩
    have : ((bits.reverse ++ [true]).takeWhile id).length = (bits.reverse.takeWhile id).length := by
      rw [List.takeWhile_append, if_neg]
      intro all
      obtain ⟨x, m, not⟩ := inner
      have whole := (List.takeWhile_prefix id (l := bits.reverse)).eq_of_length all
      exact not (List.mem_takeWhile_imp (by rwa [whole]))
    simp [dominant, this]
  · simp [dominant]
    omega

/-- Before a dominant bit nothing counts (R26). -/
theorem runBehind_dominant (run : Nat) (bits : List Bool) :
    Claims.runBehind run (false :: bits) = Claims.runBehind 0 bits := by
  unfold Claims.runBehind
  by_cases dominant : false ∈ bits
  · have : ((bits.reverse ++ [false]).takeWhile id).length = (bits.reverse.takeWhile id).length := by
      rw [List.takeWhile_append]
      split <;> simp_all
    simp [dominant, this]
  · simp [dominant]

/-- The run that the FCU keeps is that of the bits, counted modulo 12. -/
theorem runAfter_eq_runBehind (run : Nat) (bits : List Bool) :
    runAfter run bits = if bits = [] then run else Claims.runBehind run bits % 12 := by
  induction bits generalizing run with
  | nil => rfl
  | cons b rest ih =>
    have modulo : ∀ r, Claims.runBehind (r % 12) rest % 12 = Claims.runBehind r rest % 12 := fun r => by
      unfold Claims.runBehind
      split <;> omega
    cases b with
    | true =>
      rw [runAfter_recessive, ih, runBehind_recessive, if_neg (List.cons_ne_nil _ _), modulo]
      split
      · simp [*, Claims.runBehind]
      · rfl
    | false =>
      rw [runAfter_dominant, ih, runBehind_dominant, if_neg (List.cons_ne_nil _ _)]
      split
      · simp [*, Claims.runBehind]
      · rfl

/-- The spans completed at the bits behind the first, whatever multiple of 12 the run has passed. -/
theorem spansWithin_cons (b : Bool) (run run' : Nat) (rest : List Bool)
    (behind : ∀ bits : List Bool, Claims.runBehind run (b :: bits) = Claims.runBehind run' bits) :
    Claims.spansWithin run (b :: rest) =
      (if 0 < run' ∧ run' % 12 = 0 then 1 else 0) + Claims.spansWithin run' rest := by
  have first : Claims.runBehind run' [] = run' := by simp [Claims.runBehind]
  unfold Claims.spansWithin
  rw [List.length_cons, List.range_succ_eq_map, List.filter_cons, List.filter_map, apply_ite List.length,
    List.length_cons, List.length_map]
  simp only [Function.comp_def, List.take_succ_cons, behind, List.take_zero, first, decide_eq_true_eq, Nat.succ_eq_add_one]
  split <;> omega

theorem spansWithin_mod (run : Nat) (bits : List Bool) :
    Claims.spansWithin (run % 12) bits = Claims.spansWithin run bits := by
  unfold Claims.spansWithin
  congr 1
  refine List.filter_congr fun k m => ?_
  have short : k < bits.length := List.mem_range.mp m
  dsimp only
  rw [decide_eq_decide]
  unfold Claims.runBehind
  split
  · rfl
  · rw [List.length_take]
    omega

/-- The spans that the FCU counts are those that the bits complete. -/
theorem spansIn_eq_spansWithin (run : Nat) (bits : List Bool) : spansIn run bits = Claims.spansWithin run bits := by
  induction bits generalizing run with
  | nil => simp [spansIn, Claims.spansWithin]
  | cons b rest ih =>
    cases b with
    | true =>
      rw [spansIn, ih, spansWithin_mod, spansWithin_cons true run (run + 1) rest fun _ => runBehind_recessive _ _]
      simp
    | false =>
      rw [spansIn, ih, spansWithin_cons false run 0 rest fun _ => runBehind_dominant _ _]
      simp

/-- The bits that a row reports, taken by the FCU. -/
theorem sampled_eq (bits : List Bool) (s : State) : s.sampled bits = s.setFcu (Claims.fcuSampled bits s) := by
  unfold State.sampled Claims.fcuSampled
  rw [runAfter_eq_runBehind, spansIn_eq_spansWithin]
  split <;> rfl

/-- The dominant bit of a SOF ends the run. -/
theorem sampled_sof (s : State) : s.sampled [false] = s.setFcu (Claims.runSince 0 s) := by
  unfold State.sampled Claims.runSince
  split <;> rfl

/-! ## Reports to the FCU -/

theorem setFcu_self (s : State) : s.setFcu s.fcu = s := rfl

/-- A fault state entered: FAULT_STATE, and the end of a hold-off (R22, R24). -/
theorem changeFault_setFcu (f : FcuState) (new : FaultState) (s : State) :
    (s.setFcu f).changeFault new =
      if f.state = new then s.setFcu f
      else ((s.setFcu { f with state := new }).setLiu { s.liu with holdOff := false }).post (.faultState f.state new) := by
  unfold State.changeFault
  rfl

/-- A score written: the fault state it gives, and on entry to SILENCED the recovery time armed (R22, R25). -/
theorem scoreTo_eq (score : Nat) (s : State) :
    s.scoreTo score =
      if s.fcu.state ≠ .silenced ∧ faultStateFor s.fcu.state score = .silenced then
        (s.setFcu
            { s.fcu with
              score := score, spans := 0, run := 0, owed := 0
              recovery := some (s.micros + BitVec.ofNat 32 (s.stc.config.beatMs * 1000)), timeReached := false }).changeFault
          .silenced
      else (s.setFcu { s.fcu with score := score }).changeFault (faultStateFor s.fcu.state score) := by
  unfold State.scoreTo
  dsimp only
  split
  · rename_i enters
    rw [enters.2]
    rfl
  · rfl

/-- An error report, as the statements have it. -/
theorem reportError_eq (role : Role) (bits : List Bool) (s : State) :
    s.reportError role bits = Claims.errorReported role bits s := by
  have counted : ∀ score, (if score < 191 then score + 1 else score) = max score (min 191 (score + 1)) := fun score => by
    split <;> omega
  unfold State.reportError Claims.errorReported
  cases state : s.fcu.state with
  | active =>
    rw [sampled_of_not_silenced (by simp [state]), scoreTo_eq, state, changeFault_setFcu, changeFault_setFcu, state]
    cases role <;>
      simp only [Claims.fcuAfterError, state, scoreAfterError, FaultState.counts, faultStateFor, counted, if_true] <;>
      split <;> simp_all
  | guarded =>
    rw [sampled_of_not_silenced (by simp [state]), scoreTo_eq, state, changeFault_setFcu, changeFault_setFcu, state]
    cases role <;>
      simp only [Claims.fcuAfterError, state, scoreAfterError, FaultState.counts, faultStateFor, counted, if_true] <;>
      split_ifs <;> simp_all
  | silenced =>
    rw [sampled_eq, scoreTo_eq]
    simp [Claims.fcuAfterError, state, Claims.fcuSampled, scoreAfterError, FaultState.counts, faultStateFor,
      changeFault_setFcu]
    rfl
  | barred =>
    rw [sampled_of_not_silenced (by simp [state]), scoreTo_eq, state, changeFault_setFcu, changeFault_setFcu, state]
    simp only [Claims.fcuAfterError, state, scoreAfterError, FaultState.counts, faultStateFor]
    simp
    rw [← state]

/-- An acceptance report of a station whose score fits its fault state, as the statements have it. -/
theorem reportAcceptance_eq {s : State} (ok : s.FaultOk) : s.reportAcceptance = Claims.acceptanceReported s := by
  obtain ⟨fits, -⟩ := ok
  unfold State.reportAcceptance Claims.acceptanceReported
  rw [scoreTo_eq, changeFault_setFcu, changeFault_setFcu]
  cases state : s.fcu.state with
  | active =>
    simp only [Claims.fcuAfterAcceptance, state, scoreAfterAcceptance, FaultState.counts, faultStateFor, if_true]
    split <;> simp_all
  | guarded =>
    have most : s.fcu.score - 1 < 192 := by
      rw [state] at fits
      exact Nat.lt_of_le_of_lt (Nat.sub_le _ _) (Nat.lt_succ_of_le fits.2)
    simp only [Claims.fcuAfterAcceptance, state, scoreAfterAcceptance, FaultState.counts, faultStateFor, if_true, most]
    split <;> simp_all
  | silenced =>
    simp [Claims.fcuAfterAcceptance, state, scoreAfterAcceptance, FaultState.counts, faultStateFor]
    rw [← state]
  | barred =>
    simp [Claims.fcuAfterAcceptance, state, scoreAfterAcceptance, FaultState.counts, faultStateFor]
    rw [← state]

/-- The signalling after an error, by the fault state. -/
theorem signalling_eq (state : FaultState) (role : Role) : signalling state role = Claims.signalling state role := by
  cases state <;> rfl

/-! ## Stale times -/

/-- A time lies ahead of bus time by the modular rule (R33). -/
theorem isAhead_iff (t now : Micros) : isAhead t now = true ↔ Claims.ahead t now := decide_eq_true_iff

theorem reached_iff (t now : Micros) : reached t now = true ↔ ¬Claims.ahead t now := by
  rw [reached, Bool.not_eq_true', ← Bool.not_eq_true, isAhead_iff]

/-- A stale time out of date, as the statements have it (R79). -/
theorem outOfDate_iff (t now : Micros) : outOfDate t now = true ↔ Claims.staleNow (some t) now := by
  rw [outOfDate, Bool.or_eq_true, reached_iff, decide_eq_true_iff]
  simp only [Claims.staleNow, Option.some.injEq, exists_eq_left']
  rfl

theorem isStale_iff (r : Record) (now : Micros) : r.isStale now = true ↔ Claims.staleNow r.stale now := by
  unfold Record.isStale
  split
  · rename_i t stale
    rw [stale, outOfDate_iff]
  · rename_i stale
    simp [stale, Claims.staleNow]

/-! ## Records and BEATs that leave -/

/-- A record that leaves, as the statements have it. -/
theorem leave_eq (r : Record) (how : Completion) (unheard late : Bool) (s : State) :
    s.leave r how unheard late = Claims.recordLeft r how unheard late s := rfl

theorem setLiu_recordLeft (r : Record) (how : Completion) (unheard late : Bool) (b : LiuBlock) (s : State) :
    Claims.recordLeft r how unheard late (s.setLiu b) = (Claims.recordLeft r how unheard late s).setLiu b :=
  setLiu_post (s.setSq _) _ b

theorem setFcu_recordLeft (r : Record) (how : Completion) (unheard late : Bool) (b : FcuState) (s : State) :
    Claims.recordLeft r how unheard late (s.setFcu b) = (Claims.recordLeft r how unheard late s).setFcu b :=
  setFcu_post (s.setSq _) _ b

theorem setBtu_recordLeft (r : Record) (how : Completion) (unheard late : Bool) {b : BtuState} {s : State}
    (now : b.time = s.btu.time) :
    Claims.recordLeft r how unheard late (s.setBtu b) = (Claims.recordLeft r how unheard late s).setBtu b :=
  setBtu_post (s.setSq _) _ now

/-- A BEAT that leaves, as the statements have it. -/
theorem beatLeft_eq (s : State) : s.beatLeft = Claims.beatLeft s := by
  unfold State.beatLeft Claims.beatLeft
  dsimp only
  cases pending : s.agu.pendingBeat with
  | none => rfl
  | some next =>
    dsimp only
    by_cases ahead : Claims.ahead next.stale s.micros
    · rw [if_neg (by rw [reached_iff]; simpa using ahead)]
      exact (if_pos ahead).symm
    · rw [if_pos ((reached_iff _ _).mpr ahead)]
      exact (if_neg ahead).symm

/-- What a BEAT that leaves makes room for (R78): nothing, the BEAT that waits, or nothing where that is out of date. -/
theorem beatLeft_of_none {s : State} (none : s.agu.pendingBeat = none) :
    Claims.beatLeft s = s.setSq { s.sq with beat := .none } := by
  simp only [Claims.beatLeft, none]

theorem beatLeft_of_ahead {s : State} {next : Beat} (pending : s.agu.pendingBeat = some next)
    (ahead : Claims.ahead next.stale s.micros) :
    Claims.beatLeft s =
      (s.setSq
        { s.sq with
          beat := some { beat := next, inFlight := false, superseded := false, errors := 0, order := s.sq.nextOrder }
          nextOrder := s.sq.nextOrder + 1 }).setAgu { s.agu with pendingBeat := none } := by
  simp only [Claims.beatLeft, pending]
  exact if_pos ahead

theorem beatLeft_of_reached {s : State} {next : Beat} (pending : s.agu.pendingBeat = some next)
    (reached : ¬Claims.ahead next.stale s.micros) :
    Claims.beatLeft s = (s.setSq { s.sq with beat := none }).setAgu { s.agu with pendingBeat := none } := by
  simp only [Claims.beatLeft, pending]
  exact if_neg reached

theorem setLiu_beatLeft (b : LiuBlock) (s : State) :
    Claims.beatLeft (s.setLiu b) = (Claims.beatLeft s).setLiu b := by
  cases pending : s.agu.pendingBeat with
  | none =>
    rw [beatLeft_of_none (s := s.setLiu b) pending, beatLeft_of_none pending]
    rfl
  | some next =>
    by_cases ahead : Claims.ahead next.stale s.micros
    · rw [beatLeft_of_ahead (s := s.setLiu b) pending ahead, beatLeft_of_ahead pending ahead]
      rfl
    · rw [beatLeft_of_reached (s := s.setLiu b) pending ahead, beatLeft_of_reached pending ahead]
      rfl

theorem setFcu_beatLeft (b : FcuState) (s : State) :
    Claims.beatLeft (s.setFcu b) = (Claims.beatLeft s).setFcu b := by
  cases pending : s.agu.pendingBeat with
  | none =>
    rw [beatLeft_of_none (s := s.setFcu b) pending, beatLeft_of_none pending]
    rfl
  | some next =>
    by_cases ahead : Claims.ahead next.stale s.micros
    · rw [beatLeft_of_ahead (s := s.setFcu b) pending ahead, beatLeft_of_ahead pending ahead]
      rfl
    · rw [beatLeft_of_reached (s := s.setFcu b) pending ahead, beatLeft_of_reached pending ahead]
      rfl

theorem setBtu_beatLeft {b : BtuState} {s : State} (now : b.time = s.btu.time) :
    Claims.beatLeft (s.setBtu b) = (Claims.beatLeft s).setBtu b := by
  cases pending : s.agu.pendingBeat with
  | none =>
    rw [beatLeft_of_none (s := s.setBtu b) pending, beatLeft_of_none pending]
    rfl
  | some next =>
    by_cases ahead : Claims.ahead next.stale s.micros
    · rw [beatLeft_of_ahead (s := s.setBtu b) pending (by rwa [setBtu_micros s now]), beatLeft_of_ahead pending ahead]
      rfl
    · rw [beatLeft_of_reached (s := s.setBtu b) pending (by rwa [setBtu_micros s now]), beatLeft_of_reached pending ahead]
      rfl

/-! ## Whole blocks that an operation leaves -/

theorem Touches.attempt_eq {bs : List Part} {s t : State} (h : Touches bs s t) (apart : .liu ∉ bs ∧ .stamp ∉ bs) :
    t.liu.attempt = s.liu.attempt := by
  obtain ⟨-, attempt, -, -⟩ := h.liu apart.1
  have stamp := h.stamp apart.2
  cases now : t.liu.attempt <;> cases old : s.liu.attempt
  · rfl
  · simp [now, old] at attempt
  · simp [now, old] at attempt
  · rename_i a b
    cases a
    cases b
    simp_all

theorem Touches.liu_eq {bs : List Part} {s t : State} (h : Touches bs s t)
    (apart : .liu ∉ bs ∧ .timing ∉ bs ∧ .stamp ∉ bs ∧ .holdOff ∉ bs) : t.liu = s.liu := by
  obtain ⟨state, -, settings, ended⟩ := h.liu apart.1
  have timing := h.timing apart.2.1
  have attempt := h.attempt_eq ⟨apart.1, apart.2.2.1⟩
  have holdOff := h.holdOff apart.2.2.2
  cases l : t.liu
  cases m : s.liu
  simp_all

theorem Touches.stc_eq {bs : List Part} {s t : State} (h : Touches bs s t) (apart : .stc ∉ bs ∧ .window ∉ bs) :
    t.stc = s.stc := by
  obtain ⟨station, draining, config⟩ := h.stc apart.1
  have window := h.window apart.2
  cases l : t.stc
  cases m : s.stc
  simp_all

theorem Touches.agu_eq {bs : List Part} {s t : State} (h : Touches bs s t) (apart : .agu ∉ bs ∧ .pendingBeat ∉ bs) :
    t.agu = s.agu := by
  have agreement := h.agu apart.1
  have pending := h.pendingBeat apart.2
  cases l : t.agu
  cases m : s.agu
  simp_all

/-! ## The end of an attempt -/

/-- The record whose attempt the LIU holds is the one that the SQ finds in flight in its slot. -/
theorem attemptEnded_of_record {a : Attempt} {r : Record} {s : State} (how : AttemptEnd)
    (own : (s.sq.records.map fun r => r.tag.slot).Nodup) (attempt : Claims.attemptOf a r s) :
    s.attemptEnded how a.place = s.recordEnded how r := by
  obtain ⟨-, place, held, inFlight⟩ := attempt
  simp only [State.attemptEnded, place, find_inFlight own held inFlight]

theorem attemptEnded_of_beat {b : BeatRecord} {s : State} (how : AttemptEnd) (held : s.sq.beat = some b)
    (inFlight : b.inFlight = true) : s.attemptEnded how .beat = s.beatEnded how b := by
  simp [State.attemptEnded, held, inFlight]

/-- A record not sent leaves as WITHDRAWN first, then as STALE, then as FAILED, and waits again otherwise (R76, R77). -/
theorem endedUnsent_of_withdraw {r : Record} {s : State} (usedUp : Bool) (withdraw : r.withdrawPending = true) :
    s.endedUnsent usedUp r = s.leave r .withdrawn false false := if_pos withdraw

theorem endedUnsent_of_stale {r : Record} {s : State} (usedUp : Bool) (kept : r.withdrawPending = false)
    (stale : Claims.staleNow r.stale s.micros) : s.endedUnsent usedUp r = s.leave r .stale false false := by
  simp [State.endedUnsent, kept, (isStale_iff r s.micros).mpr stale]

theorem endedUnsent_of_failed {r : Record} {s : State} (kept : r.withdrawPending = false)
    (fresh : ¬Claims.staleNow r.stale s.micros) : s.endedUnsent true r = s.leave r .failed false false := by
  rw [← isStale_iff] at fresh
  simp [State.endedUnsent, kept, fresh]

theorem endedUnsent_of_waits {r : Record} {s : State} (kept : r.withdrawPending = false)
    (fresh : ¬Claims.staleNow r.stale s.micros) :
    s.endedUnsent false r = s.updateRecord { r with state := .waiting } := by
  rw [← isStale_iff] at fresh
  simp [State.endedUnsent, kept, fresh]

/-- A BEAT not sent leaves where it is superseded, out of date or used up, and waits again otherwise (R78). -/
theorem beatEndedUnsent_of_leaves {b : BeatRecord} {s : State} {usedUp : Bool}
    (leaves : b.superseded = true ∨ Claims.staleNow (some b.beat.stale) s.micros ∨ usedUp = true) :
    s.beatEndedUnsent usedUp b = Claims.beatLeft s := by
  rw [← outOfDate_iff] at leaves
  rw [← beatLeft_eq]
  exact if_pos (by simpa [or_assoc] using leaves)

theorem beatEndedUnsent_of_waits {b : BeatRecord} {s : State} (kept : b.superseded = false)
    (fresh : ¬Claims.staleNow (some b.beat.stale) s.micros) :
    s.beatEndedUnsent false b = s.setSq { s.sq with beat := some { b with inFlight := false } } := by
  rw [← outOfDate_iff] at fresh
  exact if_neg (by simpa [kept] using fresh)

/-- Where the LIU holds an attempt its end is the SQ's, and it holds none then. -/
theorem endAttempt_of_attempt {a : Attempt} {s : State} (how : AttemptEnd) (held : s.liu.attempt = some a) :
    s.endAttempt how = (s.attemptEnded how a.place).setLiu { s.liu with attempt := none } := by
  have liu := (attemptEnded_touches how a.place s).liu_eq (by decide)
  simp only [State.endAttempt, held, State.dropAttempt, liu]

theorem endAttempt_of_none {s : State} (how : AttemptEnd) (none : s.liu.attempt = none) : s.endAttempt how = s := by
  simp [State.endAttempt, none]

end Sys2Proof.Machine
end

section
/-! SUPPORT. Starts of frames, lost arbitration, the LIU's own transitions, the interframe space and RESTART (O11, O29, O30, O33, O38). -/

namespace Sys2Proof.Machine

/-! ## Lost arbitration -/

/-- A station that loses arbitration receives from the lost bit on, and its attempt is lost (R8). -/
theorem lostArbitration_eq {a : Attempt} {s : State} (sending : s.liu.state = .sending) (free : s.stc.draining = false)
    (held : s.liu.attempt = some a) :
    exec .lostArbitration s = .next
      ((s.attemptEnded .lost a.place).setLiu { s.liu with state := .receiving, attempt := none }) := by
  change Host.Outcome.next _ = _
  rw [if_pos sending, if_neg (by simp [free]), endAttempt_of_attempt .lost held]
  rfl

theorem lostArbitrationReturnsRecord : Claims.LostArbitrationReturnsRecord := by
  intro a r s sending free own attempt out
  rw [lostArbitration_eq sending free attempt.1, attemptEnded_of_record .lost own attempt]
  exact ⟨fun withdraw => congrArg (fun t => Host.Outcome.next (out t)) (endedUnsent_of_withdraw false withdraw),
    fun kept stale => congrArg (fun t => Host.Outcome.next (out t)) (endedUnsent_of_stale false kept stale),
    fun kept fresh => congrArg (fun t => Host.Outcome.next (out t)) (endedUnsent_of_waits kept fresh)⟩

theorem lostBeatReturnsOrMakesRoom : Claims.LostBeatReturnsOrMakesRoom := by
  intro a b s sending free attempt place held inFlight out
  rw [lostArbitration_eq sending free attempt, place, attemptEnded_of_beat .lost held inFlight]
  exact ⟨fun kept fresh => congrArg (fun t => Host.Outcome.next (out t)) (beatEndedUnsent_of_waits kept fresh),
    fun leaves => congrArg (fun t => Host.Outcome.next (out t))
      (beatEndedUnsent_of_leaves (usedUp := false) (leaves.imp_right Or.inl))⟩

/-- Settles O30: the SQ's answer to a lost attempt, record or BEAT. -/
theorem lostArbitrationReturnsRecordOrBeat : Obligations.LostArbitrationReturnsRecordOrBeat :=
  ⟨lostArbitrationReturnsRecord, lostBeatReturnsOrMakesRoom⟩

/-! ## Start of a frame -/

theorem quantum_eq (r : BitRate) : Claims.quantum r = r.cyclesPerQuantum := by cases r <;> rfl

/-- An edge seen inside a frame by what it moves (R1). -/
theorem edge_of_moved {c : LiuSettings} {t : BitTiming} {moved : Int}
    (by_edge : resync c.samplePoint c.jump (t.quantum c.bitRate) = moved) (first : t.resynced = false) (some : moved ≠ 0) :
    t.edge c =
      if 16 + moved < t.quantum c.bitRate then
        { bit := t.bit + 1, cycle := t.cycle % c.bitRate.cyclesPerQuantum, shift := 0, resynced := false }
      else { t with shift := moved, resynced := true } := by
  unfold BitTiming.edge
  dsimp only
  rw [by_edge, if_neg (by simp [first, some])]
  rfl

theorem edgesResynchronise : Claims.EdgesResynchronise := by
  intro c t
  rw [quantum_eq]
  intro q e late early
  refine ⟨fun nothing => ?_, fun first low high inBit jump => ?_, fun first low high inBit jump => ⟨fun goesOn => ?_,
    fun ends => ?_⟩, fun _ => rfl, fun before level rest => ?_⟩
  · have moves : t.resynced = true ∨ resync c.samplePoint c.jump (t.quantum c.bitRate) = 0 :=
      nothing.imp_right fun quantum => if_pos quantum
    exact if_pos moves
  · have moved : resync c.samplePoint c.jump e = late := by
      rw [resync, if_neg (by omega), if_pos high]
    rw [edge_of_moved moved first (by omega), if_neg]
    change ¬(16 + (late : Int) < (e : Nat))
    omega
  · have moved : resync c.samplePoint c.jump e = -early := by
      rw [resync, if_neg (by omega), if_neg (by omega)]
    rw [edge_of_moved moved first (by omega), if_neg]
    change ¬(16 + -(early : Int) < (e : Nat))
    omega
  · have moved : resync c.samplePoint c.jump e = -early := by
      rw [resync, if_neg (by omega), if_neg (by omega)]
    rw [edge_of_moved moved first (by omega), if_pos]
    change 16 + -(early : Int) < (e : Nat)
    omega
  · intro u bit next
    have seen : (if before && !level then t.edge c else t) = u := by
      cases before <;> cases level <;> rfl
    have later : u.pass c.bitRate 1 = next := rfl
    rw [sampledBits, seen, later]
    change (if u.cycle = (c.samplePoint + u.shift.toNat) * q - 1 then _ else _) = _
    split <;> rfl

/-- SOF in IDLE, with the bit timing hard-synchronised and the bit sampled taken into the run (R1, R26). -/
theorem sof_of_idle {s : State} (idle : s.liu.state = .idle) (sampled drove : Bool) :
    exec (.sof sampled drove) s = .next ((s.hardSync.sofBit sampled).sampleSof sampled drove) := by
  change Host.Outcome.next _ = _
  rw [if_pos idle]

theorem sof_elsewhere {s : State} (other : s.liu.state ≠ .idle) (sampled drove : Bool) :
    exec (.sof sampled drove) s = .next s := by
  change Host.Outcome.next _ = _
  rw [if_neg other]

/-- A dominant SOF bit at the FCU. -/
theorem sofBit_dominant (s : State) : s.sofBit true = s.setFcu (Claims.runSince 0 s) := sampled_sof s

/-- The bit of a SOF sampled, by whether this station drove it (R3, R4, R10). -/
theorem sampleSof_recessive {s : State} {drove : Bool} (other : (drove && s.liu.attempt.isSome) = false) :
    s.sampleSof false drove = s := by
  unfold State.sampleSof
  rw [other]

theorem sampleSof_dominant {s : State} {drove : Bool} (other : (drove && s.liu.attempt.isSome) = false) :
    s.sampleSof true drove = s.receiveSof := by
  unfold State.sampleSof
  rw [other]

theorem sampleSof_driven {s : State} (held : s.liu.attempt.isSome = true) :
    s.sampleSof true true = s.captureSof.setLiuState .sending ∧ s.sampleSof false true = s.frameError .sender [true] := by
  unfold State.sampleSof
  rw [held]
  exact ⟨rfl, rfl⟩

/-- What a SOF of another station finds: the bit timing at its start, the run ended, the edge captured. -/
def State.sofCaptured (s : State) : State :=
  ((s.setLiu { s.liu with timing := BitTiming.start }).setFcu (Claims.runSince 0 s)).setBtu
    { s.btu with capture := some { time := s.btu.time, confirmed := true } }

/-- A record, or the BEAT, that leaves there leaves as it does before the SOF. -/
theorem sofCaptured_recordLeft (r : Record) (how : Completion) (unheard late : Bool) (s : State) :
    Claims.recordLeft r how unheard late s.sofCaptured =
      (((Claims.recordLeft r how unheard late s).setBtu
            { s.btu with capture := some { time := s.btu.time, confirmed := true } }).setLiu
          { s.liu with timing := BitTiming.start }).setFcu (Claims.runSince 0 s) := by
  have now : ({ s.btu with capture := some { time := s.btu.time, confirmed := true } } : BtuState).time = s.btu.time := rfl
  rw [← setBtu_recordLeft _ _ _ _ now, ← setLiu_recordLeft, ← setFcu_recordLeft]
  rfl

theorem sofCaptured_beatLeft (s : State) :
    Claims.beatLeft s.sofCaptured =
      (((Claims.beatLeft s).setBtu { s.btu with capture := some { time := s.btu.time, confirmed := true } }).setLiu
          { s.liu with timing := BitTiming.start }).setFcu (Claims.runSince 0 s) := by
  have now : ({ s.btu with capture := some { time := s.btu.time, confirmed := true } } : BtuState).time = s.btu.time := rfl
  rw [← setBtu_beatLeft now, ← setLiu_beatLeft, ← setFcu_beatLeft]
  rfl

theorem sof_received {s : State} (idle : s.liu.state = .idle) {drove : Bool}
    (other : drove = false ∨ s.liu.attempt = none) :
    exec (.sof true drove) s = .next
      ((s.sofCaptured.endAttempt .lost).setLiu
        { (s.sofCaptured.endAttempt .lost).liu with state := .receiving, holdOff := false }) := by
  have drives : (drove && s.liu.attempt.isSome) = false := by
    obtain rfl | none := other
    · rfl
    · simp [none]
  rw [sof_of_idle idle, sofBit_dominant,
    sampleSof_dominant (s := s.hardSync.setFcu (Claims.runSince 0 s.hardSync)) drives]
  rfl

/-- The same where an offer is returned: its attempt is lost (R4). -/
theorem sof_received_of_attempt {a : Attempt} {s : State} (idle : s.liu.state = .idle) (held : s.liu.attempt = some a) :
    exec (.sof true false) s = .next
      ((s.sofCaptured.attemptEnded .lost a.place).setLiu
        { s.liu with state := .receiving, timing := BitTiming.start, attempt := none, holdOff := false }) := by
  rw [sof_received idle (.inl rfl), endAttempt_of_attempt (s := s.sofCaptured) .lost held]
  rfl

theorem offerReturnedAtSof : Claims.OfferReturnedAtSof := by
  intro a s idle out
  refine ⟨fun r own attempt => ?_, fun b held place beat inFlight => ?_⟩
  · have left : ∀ how, (s.sofCaptured.leave r how false false).setLiu
        { s.liu with state := .receiving, timing := BitTiming.start, attempt := none, holdOff := false }
          = out (Claims.recordLeft r how false false s) := fun how => by
      rw [leave_eq, sofCaptured_recordLeft]
      rfl
    have there : Claims.attemptOf { a with stamp := a.stamp } r s.sofCaptured := attempt
    rw [sof_received_of_attempt idle attempt.1, attemptEnded_of_record (s := s.sofCaptured) .lost own there]
    refine ⟨fun withdraw => ?_, fun kept stale => ?_, fun kept fresh => ?_⟩
    · rw [← left, ← endedUnsent_of_withdraw false withdraw]
      rfl
    · rw [← left, ← endedUnsent_of_stale (s := s.sofCaptured) false kept stale]
      rfl
    · have waits := endedUnsent_of_waits (s := s.sofCaptured) kept fresh
      exact congrArg (fun t : State => Host.Outcome.next (t.setLiu _)) waits
  · rw [sof_received_of_attempt idle held, place, attemptEnded_of_beat (s := s.sofCaptured) .lost beat inFlight]
    refine ⟨fun kept fresh => ?_, fun leaves => ?_⟩
    · have waits := beatEndedUnsent_of_waits (s := s.sofCaptured) kept fresh
      exact congrArg (fun t : State => Host.Outcome.next (t.setLiu _)) waits
    · have left := beatEndedUnsent_of_leaves (s := s.sofCaptured) (b := b) (usedUp := false) (leaves.imp_right Or.inl)
      rw [sofCaptured_beatLeft] at left
      exact congrArg (fun t : State => Host.Outcome.next (t.setLiu _)) left

theorem sofTaken : Claims.SofTaken := by
  refine ⟨fun drove s idle none => ⟨?_, ?_⟩, fun a s idle held => ⟨?_, ?_, ?_, ?_⟩, fun sampled drove s other =>
    sof_elsewhere other sampled drove⟩
  · rw [sof_of_idle idle]
    exact congrArg Host.Outcome.next (sampleSof_recessive (s := s.hardSync) (by simp [State.hardSync, none]))
  · rw [sof_received idle (.inr none), endAttempt_of_none (s := s.sofCaptured) .lost none]
    rfl
  · rw [sof_of_idle idle, sofBit_dominant, (sampleSof_driven (by simp [State.hardSync, held])).1]
    rfl
  · rw [sof_of_idle idle]
    exact congrArg Host.Outcome.next (sampleSof_recessive (s := s.hardSync) rfl)
  · have role : s.hardSync.errorRole .bit = some .sender := by
      simp [State.errorRole, State.hardSync, idle, held]
    have taken : exec (.errorDetected .bit [true]) s.hardSync = .next (s.hardSync.frameError .sender [true]) := by
      change Host.Outcome.next _ = _
      rw [if_neg (by simp), role]
    rw [sof_of_idle idle]
    exact (congrArg Host.Outcome.next (sampleSof_driven (s := s.hardSync) (by simp [State.hardSync, held])).2).trans
      taken.symm
  · have frame := attemptEnded_touches .lost a.place s.sofCaptured
    refine ⟨_, sof_received_of_attempt idle held, ?_⟩
    simp only [setLiu_btu, setLiu_liu, setLiu_fcu, setLiu_stc, setLiu_iku, setLiu_csu, setLiu_clu, setLiu_mku,
      setLiu_pending]
    rw [frame.btu (by decide), frame.fcu (by decide), frame.stc_eq (by decide), frame.iku (by decide),
      frame.csu (by decide), frame.clu (by decide), frame.mku (by decide), frame.pending (by decide)]
    exact ⟨rfl, rfl, rfl, rfl, rfl, rfl, rfl, rfl, rfl⟩

/-- Settles O29: what SOF is in IDLE and elsewhere, the offer it returns, and the edges inside a frame. -/
theorem sofBeginsFrame : Obligations.SofBeginsFrame := ⟨sofTaken, offerReturnedAtSof, edgesResynchronise⟩

/-! ## The LIU's own transitions -/

/-- The error delimiter completes, the station not draining (R13, R26). -/
theorem errorDelimiterEnd_eq {role : Role} (sampled : List Bool) {s : State} (state : s.liu.state = .delimiting role)
    (free : s.stc.draining = false) :
    exec (.errorDelimiterEnd sampled) s = .next
      ((s.setLiu { s.liu with state := .spacing }).setFcu (Claims.fcuSampled sampled s)) := by
  change Host.Outcome.next _ = _
  rw [state]
  dsimp only
  rw [if_neg (by simp [free]), sampled_eq]
  rfl

/-- The interframe space completes (R15, R24, R26). -/
theorem interframeSpaceEnd_eq {s : State} (spacing : s.liu.state = .spacing) :
    exec .interframeSpaceEnd s = .next
      ((s.setLiu
        { s.liu with
          state := .idle, ownEnded := false
          holdOff := s.liu.ownEnded && decide (s.fcu.state = .guarded) }).setFcu
        (Claims.fcuSampled (List.replicate 3 true) s)) := by
  change Host.Outcome.next _ = _
  rw [if_pos spacing, sampled_eq]
  rfl

/-- The events by which a drain ends, each unreported (R19). -/
theorem drain_ends {c : Instr} {s : State} (draining : s.stc.draining = true)
    (ends : c = .drainEnd ∨ (c = .lostArbitration ∧ s.liu.state = .sending)
      ∨ ((∃ f ack, c = .acceptance f ack) ∧ s.liu.state = .sending)
      ∨ ((∃ sampled, c = .errorDelimiterEnd sampled) ∧ ∃ role, s.liu.state = .delimiting role)) :
    exec c s = .next s.endDrain := by
  obtain rfl | ⟨rfl, state⟩ | ⟨⟨f, ack, rfl⟩, state⟩ | ⟨⟨sampled, rfl⟩, role, state⟩ := ends
  · change Host.Outcome.next _ = _
    rw [if_pos draining]
  · change Host.Outcome.next _ = _
    rw [if_pos state, if_pos draining]
  · change Host.Outcome.next _ = _
    rw [state]
    dsimp only
    rw [State.acceptSending, if_pos draining]
  · change Host.Outcome.next _ = _
    rw [state]
    dsimp only
    rw [if_pos draining]

theorem lineTransitions : Claims.LineTransitions := by
  refine ⟨fun dominant role s state => ?_, fun role sampled s => errorDelimiterEnd_eq sampled,
    fun s => interframeSpaceEnd_eq, fun s state => ?_, fun s state => ?_, fun c s => drain_ends⟩
  · change Host.Outcome.next _ = _
    rw [state]
    rfl
  · change Host.Outcome.next _ = _
    rw [if_pos state]
    rfl
  · change Host.Outcome.next _ = _
    rw [if_pos state]

/-- An error found while receiving (R10): the receiver's report, and the flag. -/
theorem errorDetected_of_receiving {kind : ErrorKind} (sampled : List Bool) {s : State} (state : s.liu.state = .receiving)
    (detects : kind = .stuff ∨ kind = .form ∨ kind = .crc) :
    exec (.errorDetected kind sampled) s = .next (s.frameError .receiver sampled) := by
  have role : s.errorRole kind = some .receiver := by
    obtain rfl | rfl | rfl := detects <;> simp [State.errorRole, state]
  change Host.Outcome.next _ = _
  rw [if_neg (by simp [state]), role]

/-- After an error the LIU signals by the fault state that the error's report has left (R12). -/
theorem frameError_signals (role : Role) (sampled : List Bool) (s : State) :
    (s.frameError role sampled).liu.state = signalling (s.frameError role sampled).fcu.state role := by
  unfold State.frameError
  split
  · rfl
  · cases role <;> rfl

/-- BTX while an error is signalled as receiver: the fault state decides (R12). -/
theorem btx_of_signalling {s : State} {role : Role} (signals : s.liu.state = signalling s.fcu.state role) :
    s.btx = if s.fcu.state = .active then .dominantFlag else .recessive := by
  unfold State.btx
  rw [signals]
  cases s.fcu.state <;> rfl

theorem acksSoundFrame_iff (s : State) :
    s.acksSoundFrame = true ↔
      s.liu.state = .receiving ∧ (s.stc.station = .listening ∨ s.stc.station = .joined)
        ∧ (s.fcu.state = .active ∨ s.fcu.state = .guarded) := by
  unfold State.acksSoundFrame
  cases s.stc.station <;> cases s.fcu.state <;> simp [FaultState.mayDrive]

theorem lineDriven : Claims.LineDriven := by
  refine ⟨fun s state => ?_, fun role s state => ?_, fun s other noFlag => ?_, fun kind sampled s state detects => ?_,
    acksSoundFrame_iff⟩
  · simp [State.btx, state]
  · simp [State.btx, state]
  · unfold State.btx
    split
    · contradiction
    · exact absurd ‹_› (noFlag _)
    all_goals rfl
  · exact ⟨_, errorDetected_of_receiving sampled state detects, btx_of_signalling (frameError_signals _ _ _)⟩

/-- Settles O38: the LIU's transitions, and what it drives. -/
theorem lineStatesMove : Obligations.LineStatesMove := ⟨lineTransitions, lineDriven⟩

/-! ## The interframe space -/

theorem afterAcceptance_intake_spacing (a : Accepted) (s : State) : (s.afterAcceptance.intake a).liu.state = .spacing :=
  ((intake_touches a s.afterAcceptance).liu (by decide)).1

/-- ACCEPTANCE of an own frame, acknowledged, or unheard while no peer is PRESENT (R9, R14). -/
theorem acceptance_of_sending {a : Attempt} (f : Frame) {ack : Bool} {s : State} (sending : s.liu.state = .sending)
    (free : s.stc.draining = false) (held : s.liu.attempt = some a) (heard : ack = true ∨ s.presentPeers = 0) :
    exec (.acceptance f ack) s = .next (s.acceptOwn a (!ack)) := by
  have taken : (!ack && decide (0 < s.presentPeers)) = false := by
    obtain rfl | none := heard
    · rfl
    · simp [none]
  change Host.Outcome.next _ = _
  rw [sending]
  dsimp only
  rw [State.acceptSending, if_neg (by simp [free]), if_neg (by simp [taken]), held]

/-- ACCEPTANCE of another station's frame (R14). -/
theorem acceptance_of_receiving (f : Frame) (ack : Bool) {s : State} (receiving : s.liu.state = .receiving) :
    exec (.acceptance f ack) s = .next (s.acceptReceived f ack) := by
  change Host.Outcome.next _ = _
  rw [receiving]

/-- A FORM error in the interframe space (R11, R15). -/
theorem errorDetected_of_spacing (sampled : List Bool) {s : State} (spacing : s.liu.state = .spacing) :
    exec (.errorDetected .form sampled) s = .next
      ((Claims.errorReported .receiver sampled s).setLiu
        { (Claims.errorReported .receiver sampled s).liu with
          state := Claims.signalling (Claims.errorReported .receiver sampled s).fcu.state .receiver }) := by
  change Host.Outcome.next _ = _
  rw [if_pos ⟨spacing, rfl⟩, State.spacingError, reportError_eq, State.signal, signalling_eq]
  rfl

/-- Settles O33: how the LIU comes to space, and how it leaves the interframe space, with an error in it. -/
theorem interframeSpaceAndItsError : Obligations.InterframeSpaceAndItsError :=
  ⟨fun f ack _ receiving => ⟨_, acceptance_of_receiving f ack receiving, afterAcceptance_intake_spacing _ _⟩,
    fun f _ _ _ sending free held heard =>
      ⟨_, acceptance_of_sending f sending free held heard, afterAcceptance_intake_spacing _ _⟩,
    fun _ sampled _ => errorDelimiterEnd_eq sampled,
    fun _ spacing => ⟨_, interframeSpaceEnd_eq spacing, rfl⟩,
    fun sampled _ => errorDetected_of_spacing sampled⟩

/-! ## RESTART -/

/-- RESTARTED alone waits after RESTART, in front of what comes later (R147, R155). -/
theorem restart_eq (s : State) :
    s.restart =
      (s.restartBlocks.setLpu
        { s.lpu with notices := [{ posted := s.micros, body := .restarted }], lost := 0 }).setPosted
        { s.posted with recent := 0, shut := [] } := by
  unfold State.restart
  rw [post_of_first _ rfl]
  rfl

theorem drains_iff (l : LiuState) : l.drains = true ↔ Claims.draining l := by
  unfold Claims.draining LiuState.drains
  split <;> simp

/-- Settles O11: the blocks as RESTART leaves them, and the drain where the LIU is at a frame of its own. -/
theorem restartResetsEveryBlock : Obligations.RestartResetsEveryBlock := by
  intro s isOpen
  have lines : ∀ i : Fin 8, s.clu.restarted.lines[i] = s.clu.lines[i].toSafe := fun i => by
    simp [CluState.restarted]
  have inputs : ∀ i : Fin 4, s.mku.restarted.inputs[i] = s.mku.inputs[i].restarted := fun i => by
    simp [MkuState.restarted]
  have peers : ∀ i : Fin 32, AguState.restarted.peers[i] = none := by simp [AguState.restarted]
  have generations : ∀ i : Fin 16, SqState.restarted.generations[i] = 0 := by simp [SqState.restarted]
  have taken : exec .restart s = .next (s.restart.replied 0 []) := by
    refine congrArg Host.Outcome.next (takeCommand_replied isOpen ?_ ?_) <;> rw [restart_eq] <;> rfl
  refine ⟨s.restart, taken, ?_⟩
  rw [restart_eq]
  refine ⟨rfl, fun drain => ?_, fun noDrain => ?_, rfl, rfl, peers, rfl, rfl, rfl, rfl, rfl, rfl, rfl, rfl, rfl, rfl,
    generations, rfl, rfl, rfl, rfl, lines, inputs, rfl, rfl, rfl, rfl, rfl, rfl⟩
  · have drains := (drains_iff _).mpr drain
    simp [State.restartBlocks, StcState.restarted, LiuBlock.restarted, BtuState.restarted, drains]
  · have drains : s.liu.state.drains = false := by simpa [← drains_iff] using noDrain
    simp [State.restartBlocks, StcState.restarted, LiuBlock.restarted, LiuBlock.halted, BtuState.restarted, drains]

end Sys2Proof.Machine
end

section
/-! SUPPORT. Fields of bytes, and the payloads of the four classes read back (O50). -/

namespace Sys2Proof.Machine

/-! ## Fields of several bytes -/

theorem natOfBytes_append (bytes : List Byte) (b : Byte) : natOfBytes (bytes ++ [b]) = natOfBytes bytes * 256 + b.toNat := by
  simp [natOfBytes]

/-- A first byte counts 256 to the number of bytes behind it. -/
theorem natOfBytes_cons (b : Byte) (rest : List Byte) :
    natOfBytes (b :: rest) = b.toNat * 256 ^ rest.length + natOfBytes rest := by
  induction rest using List.reverseRecOn with
  | nil => simp [natOfBytes]
  | append_singleton rest last ih =>
    rw [← List.cons_append, natOfBytes_append, ih, natOfBytes_append, List.length_append, List.length_singleton, pow_succ]
    ring

theorem natOfBytes_lt (bytes : List Byte) : natOfBytes bytes < 256 ^ bytes.length := by
  induction bytes with
  | nil => simp [natOfBytes]
  | cons b rest ih =>
    rw [natOfBytes_cons, List.length_cons, pow_succ]
    have := b.isLt
    nlinarith

theorem bytesBe_length (n v : Nat) : (bytesBe n v).length = n := by
  induction n with
  | zero => rfl
  | succ n ih => simp [bytesBe, ih]

/-- A field of n bytes is read back as its value modulo 256 to the n (R159). -/
theorem natOfBytes_bytesBe (n v : Nat) : natOfBytes (bytesBe n v) = v % 256 ^ n := by
  induction n with
  | zero => simp [bytesBe, natOfBytes, Nat.mod_one]
  | succ n ih =>
    rw [bytesBe, natOfBytes_cons, bytesBe_length, ih, BitVec.toNat_ofNat, pow_succ 256, Nat.mod_mul, Nat.add_comm,
      Nat.mul_comm]

theorem bytesBe_mod (n v : Nat) : bytesBe n (v % 256 ^ n) = bytesBe n v := by
  induction n generalizing v with
  | zero => rfl
  | succ n ih =>
    have high : v % 256 ^ (n + 1) / 256 ^ n % 2 ^ 8 = v / 256 ^ n % 2 ^ 8 := by
      rw [pow_succ, Nat.mod_mul_right_div_self, show 2 ^ 8 = 256 from rfl, Nat.mod_mod]
    rw [bytesBe, bytesBe, ← ih (v % 256 ^ (n + 1)), Nat.mod_mod_of_dvd _ (pow_dvd_pow 256 n.le_succ), ih]
    congr 1
    exact BitVec.eq_of_toNat_eq (by simpa [BitVec.toNat_ofNat] using high)

/-- Bytes are those of the value they spell (R159). -/
theorem bytesBe_natOfBytes (bytes : List Byte) : bytesBe bytes.length (natOfBytes bytes) = bytes := by
  induction bytes with
  | nil => rfl
  | cons b rest ih =>
    have low := natOfBytes_lt rest
    have high : natOfBytes (b :: rest) / 256 ^ rest.length = b.toNat := by
      rw [natOfBytes_cons, Nat.mul_comm, Nat.mul_add_div (by positivity), Nat.div_eq_of_lt low, Nat.add_zero]
    have rests : natOfBytes (b :: rest) % 256 ^ rest.length = natOfBytes rest := by
      rw [natOfBytes_cons, Nat.mul_comm, Nat.mul_add_mod, Nat.mod_eq_of_lt low]
    rw [List.length_cons, bytesBe, high, ← bytesBe_mod, rests, ih]
    simp

/-- Bytes are those of any value that they spell. -/
theorem bytesBe_of_spells {n v : Nat} {bytes : List Byte} (size : bytes.length = n) (spells : v = natOfBytes bytes) :
    bytesBe n v = bytes := by
  rw [spells, ← size, bytesBe_natOfBytes]

/-- A word of as many bits as its bytes hold. -/
theorem toNat_wordOfBytes {w : Nat} {bytes : List Byte} (wide : 256 ^ bytes.length = 2 ^ w) :
    (wordOfBytes w bytes).toNat = natOfBytes bytes := by
  rw [wordOfBytes, BitVec.toNat_ofNat, ← wide, Nat.mod_eq_of_lt (natOfBytes_lt bytes)]

theorem natOfBytes_word {w n : Nat} (wide : 256 ^ n = 2 ^ w) (v : BitVec w) : natOfBytes (bytesBe n v.toNat) = v.toNat := by
  rw [natOfBytes_bytesBe, wide, Nat.mod_eq_of_lt v.isLt]

theorem wordOfBytes_word {w n : Nat} (wide : 256 ^ n = 2 ^ w) (v : BitVec w) : wordOfBytes w (bytesBe n v.toNat) = v := by
  rw [wordOfBytes, natOfBytes_word wide, BitVec.ofNat_toNat, BitVec.setWidth_eq]

/-- The bytes of the word that they spell. -/
theorem bytesBe_word {w n : Nat} {bytes : List Byte} (size : bytes.length = n) (wide : 256 ^ n = 2 ^ w) :
    bytesBe n (wordOfBytes w bytes).toNat = bytes :=
  bytesBe_of_spells size (toNat_wordOfBytes (size ▸ wide))

theorem stationOfNat_some {n : Nat} {id : StationId} :
    stationOfNat n = some id ↔ 1 ≤ n ∧ n ≤ 126 ∧ id = BitVec.ofNat 7 n := by
  unfold stationOfNat
  split <;> simp_all [eq_comm]

/-! ## BEAT -/

theorem parseBeat_fields (v : Nat) (b6 b7 : Byte) :
    parseBeat (bytesBe 6 v ++ [b6, b7]) =
      if 10 ≤ v % 256 ^ 6 / 4 % 1024 ∧ v % 256 ^ 6 / 4 % 1024 ≤ 1000 ∧ b6.toNat / 4 ≤ 32 then
        some (.beatContent (BitVec.ofNat 36 (v % 256 ^ 6 / 4096)) (v % 256 ^ 6 / 4 % 1024)
          (syncOfBeatCode (v % 256 ^ 6 % 4)) (b6.toNat / 4) b7)
      else none := by
  rw [← natOfBytes_bytesBe]
  rfl

theorem beatCode_lt (sync : SyncState) : sync.beatCode < 4 := by cases sync <;> decide

theorem syncOfBeatCode_beatCode {sync : SyncState} (sent : sync ≠ .nosync) : syncOfBeatCode sync.beatCode = sync := by
  cases sync with
  | nosync => contradiction
  | _ => rfl

theorem beatCode_syncOfBeatCode {code : Nat} (small : code < 4) : (syncOfBeatCode code).beatCode = code := by
  match code with
  | 0 | 1 | 2 | 3 => rfl

theorem syncOfBeatCode_sent (code : Nat) : syncOfBeatCode code ≠ .nosync := by
  unfold syncOfBeatCode
  split <;> simp

theorem beat_readBack {stamp : BusTime} {interval : Nat} {sync : SyncState} {fresh : Nat} {sequence : Byte}
    (unused : Nat) (fits : Claims.contentFits (.beatContent stamp interval sync fresh sequence)) :
    parseBeat (payloadBytes unused (.beatContent stamp interval sync fresh sequence)) =
      some (.beatContent stamp interval sync fresh sequence) := by
  obtain ⟨least, most, sent, few⟩ := fits
  have code := beatCode_lt sync
  have size := stamp.isLt
  have freshByte : (BitVec.ofNat 8 (fresh * 4 + unused % 4)).toNat / 4 = fresh := by
    rw [BitVec.toNat_ofNat]
    omega
  have whole : (stamp.toNat * 4096 + interval * 4 + sync.beatCode) % 256 ^ 6 =
      stamp.toNat * 4096 + interval * 4 + sync.beatCode := Nat.mod_eq_of_lt (by omega)
  have high : (stamp.toNat * 4096 + interval * 4 + sync.beatCode) / 4096 = stamp.toNat := by omega
  have middle : (stamp.toNat * 4096 + interval * 4 + sync.beatCode) / 4 % 1024 = interval := by omega
  have low : (stamp.toNat * 4096 + interval * 4 + sync.beatCode) % 4 = sync.beatCode := by omega
  rw [payloadBytes, parseBeat_fields, whole, high, middle, low, freshByte, if_pos ⟨least, most, few⟩,
    syncOfBeatCode_beatCode sent, BitVec.ofNat_toNat, BitVec.setWidth_eq]

/-- A BEAT payload that is read is one that is written, with these unused bits. -/
theorem beat_of_parseBeat {bytes : List Byte} {c : Content} (read : parseBeat bytes = some c) :
    c.cls = .beat ∧ Claims.contentFits c ∧ ∃ unused, bytes = payloadBytes unused c := by
  unfold parseBeat at read
  split at read
  case h_2 => simp at read
  case h_1 b0 b1 b2 b3 b4 b5 b6 b7 =>
    generalize value : natOfBytes [b0, b1, b2, b3, b4, b5] = v at read
    have size : v < 256 ^ 6 := value ▸ natOfBytes_lt [b0, b1, b2, b3, b4, b5]
    have few := b6.isLt
    dsimp only at read
    split at read
    case isFalse => simp at read
    case isTrue ranges =>
      obtain ⟨least, most, fresh⟩ := ranges
      cases read
      refine ⟨rfl, ⟨least, most, syncOfBeatCode_sent _, fresh⟩, b6.toNat % 4, ?_⟩
      have fields : bytesBe 6 ((BitVec.ofNat 36 (v / 4096)).toNat * 4096 + v / 4 % 1024 * 4
          + (syncOfBeatCode (v % 4)).beatCode) = [b0, b1, b2, b3, b4, b5] := by
        refine bytesBe_of_spells rfl ?_
        rw [value, beatCode_syncOfBeatCode (Nat.mod_lt _ (by decide)), BitVec.toNat_ofNat,
          Nat.mod_eq_of_lt (by omega)]
        omega
      have freshByte : BitVec.ofNat 8 (b6.toNat / 4 * 4 + b6.toNat % 4 % 4) = b6 :=
        BitVec.eq_of_toNat_eq (by rw [BitVec.toNat_ofNat]; omega)
      rw [payloadBytes, fields, freshByte]
      rfl

/-! ## RECALL -/

theorem recall_readBack {what : Recall} (unused : Nat) (fits : Claims.contentFits (.recallContent what)) :
    parseRecall (payloadBytes unused (.recallContent what)) = some (.recallContent what) := by
  cases what with
  | byKey key =>
    obtain ⟨least, most⟩ := fits
    have small := key.number.isLt
    have originByte : (BitVec.ofNat 8 (unused % 2 * 128 + key.origin.toNat)).toNat % 128 = key.origin.toNat := by
      rw [BitVec.toNat_ofNat]
      omega
    have origin : stationOfNat key.origin.toNat = some key.origin :=
      stationOfNat_some.mpr ⟨least, most, by simp⟩
    have number : BitVec.ofNat 12 (natOfBytes (bytesBe 2 (unused / 2 % 16 * 4096 + key.number.toNat))) = key.number := by
      refine BitVec.eq_of_toNat_eq ?_
      rw [natOfBytes_bytesBe, BitVec.toNat_ofNat]
      omega
    have read : ∀ (o : Byte) (v : Nat), parseRecall ([0x01, o] ++ bytesBe 2 v) =
        (stationOfNat (o.toNat % 128)).map fun id =>
          .recallContent (.byKey { origin := id, number := BitVec.ofNat 12 (natOfBytes (bytesBe 2 v)) }) := by
      intro o v
      change (match stationOfNat (o.toNat % 128) with
        | some id => some _
        | none => none) = _
      cases stationOfNat (o.toNat % 128) <;> rfl
    rw [payloadBytes, read, originByte, origin, number]
    rfl
  | byTopic code mask =>
    have read : ∀ v w : Nat, parseRecall ([0x02] ++ bytesBe 2 v ++ bytesBe 2 w) =
        some (.recallContent (.byTopic (wordOfBytes 16 (bytesBe 2 v)) (wordOfBytes 16 (bytesBe 2 w)))) := fun _ _ => rfl
    rw [payloadBytes, read, wordOfBytes_word rfl, wordOfBytes_word rfl]

theorem recall_of_parseRecall {bytes : List Byte} {c : Content} (read : parseRecall bytes = some c) :
    c.cls = .recallFrame ∧ Claims.contentFits c ∧ ∃ unused, bytes = payloadBytes unused c := by
  unfold parseRecall at read
  split at read
  case h_1 form origin c1 c0 =>
    split at read
    case isFalse => simp at read
    case isTrue form =>
      split at read
      case h_2 => simp at read
      case h_1 id station =>
        cases read
        obtain ⟨least, most, rfl⟩ := stationOfNat_some.mp station
        have size := natOfBytes_lt [c1, c0]
        have wide := origin.isLt
        simp only [List.length_cons, List.length_nil] at size
        have small : (BitVec.ofNat 7 (origin.toNat % 128)).toNat = origin.toNat % 128 := by
          rw [BitVec.toNat_ofNat]
          omega
        refine ⟨rfl, by simpa [Claims.contentFits, small] using ⟨least, most⟩,
          origin.toNat / 128 + natOfBytes [c1, c0] / 4096 * 2, ?_⟩
        have originByte : BitVec.ofNat 8
            ((origin.toNat / 128 + natOfBytes [c1, c0] / 4096 * 2) % 2 * 128 + origin.toNat % 128) = origin :=
          BitVec.eq_of_toNat_eq (by rw [BitVec.toNat_ofNat]; omega)
        have numberBytes : bytesBe 2 ((origin.toNat / 128 + natOfBytes [c1, c0] / 4096 * 2) / 2 % 16 * 4096
            + (BitVec.ofNat 12 (natOfBytes [c1, c0])).toNat) = [c1, c0] := by
          refine bytesBe_of_spells rfl ?_
          rw [BitVec.toNat_ofNat]
          omega
        rw [payloadBytes, small, originByte, numberBytes, form]
        rfl
  case h_2 form c1 c0 m1 m0 =>
    split at read
    case isFalse => simp at read
    case isTrue form =>
      cases read
      refine ⟨rfl, trivial, 0, ?_⟩
      rw [payloadBytes, bytesBe_word (n := 2) (w := 16) (bytes := [c1, c0]) rfl rfl, bytesBe_word (n := 2) (w := 16) (bytes := [m1, m0]) rfl rfl, form]
      rfl
  case h_3 => simp at read

/-! ## MARK -/

theorem mark_readBack (m : MarkContent) (unused : Nat) :
    parseMark (payloadBytes unused (.markContent m)) = some (.markContent m) := by
  obtain ⟨input, edge, sequence, capture⟩ := m
  have few := input.isLt
  have size := capture.isLt
  have read : ∀ (b : Byte) (v : Nat), parseMark ([b, sequence] ++ bytesBe 5 v) =
      some (.markContent
        { input := ⟨b.toNat % 4, by omega⟩
          edge := if b.toNat / 4 % 2 = 0 then .rising else .falling
          sequence := sequence
          capture := BitVec.ofNat 36 (natOfBytes (bytesBe 5 v)) }) := fun _ _ => rfl
  have first : (BitVec.ofNat 8 (unused % 32 * 8 + edgeCode edge * 4 + input.val)).toNat =
      unused % 32 * 8 + edgeCode edge * 4 + input.val := by
    rw [BitVec.toNat_ofNat]
    cases edge <;> simp only [edgeCode] <;> omega
  have inputField : (unused % 32 * 8 + edgeCode edge * 4 + input.val) % 4 = input.val := by omega
  have edgeField : (unused % 32 * 8 + edgeCode edge * 4 + input.val) / 4 % 2 = edgeCode edge := by
    cases edge <;> simp only [edgeCode] <;> omega
  have captureField : BitVec.ofNat 36 (natOfBytes (bytesBe 5 (unused / 32 % 16 * 2 ^ 36 + capture.toNat))) = capture := by
    refine BitVec.eq_of_toNat_eq ?_
    rw [natOfBytes_bytesBe, BitVec.toNat_ofNat]
    omega
  rw [payloadBytes, read]
  simp only [first, inputField, edgeField, captureField]
  cases edge <;> rfl

theorem mark_of_parseMark {bytes : List Byte} {c : Content} (read : parseMark bytes = some c) :
    c.cls = .mark ∧ Claims.contentFits c ∧ ∃ unused, bytes = payloadBytes unused c := by
  unfold parseMark at read
  split at read
  case h_2 => simp at read
  case h_1 b0 sequence t4 t3 t2 t1 t0 =>
    cases read
    have size := natOfBytes_lt [t4, t3, t2, t1, t0]
    have wide := b0.isLt
    simp only [List.length_cons, List.length_nil] at size
    refine ⟨rfl, trivial, b0.toNat / 8 + natOfBytes [t4, t3, t2, t1, t0] / 2 ^ 36 * 32, ?_⟩
    have captureBytes : bytesBe 5 ((b0.toNat / 8 + natOfBytes [t4, t3, t2, t1, t0] / 2 ^ 36 * 32) / 32 % 16 * 2 ^ 36
        + (BitVec.ofNat 36 (natOfBytes [t4, t3, t2, t1, t0])).toNat) = [t4, t3, t2, t1, t0] := by
      refine bytesBe_of_spells rfl ?_
      rw [BitVec.toNat_ofNat]
      omega
    have edgeField : edgeCode (if b0.toNat / 4 % 2 = 0 then Edge.rising else .falling) = b0.toNat / 4 % 2 := by
      split <;> simp only [edgeCode] <;> omega
    have firstByte : BitVec.ofNat 8 ((b0.toNat / 8 + natOfBytes [t4, t3, t2, t1, t0] / 2 ^ 36 * 32) % 32 * 8
        + b0.toNat / 4 % 2 * 4 + b0.toNat % 4) = b0 :=
      BitVec.eq_of_toNat_eq (by rw [BitVec.toNat_ofNat]; omega)
    simp only [payloadBytes, captureBytes, edgeField, firstByte]
    rfl

/-! ## CUE -/

theorem actionOfCode_code (a : Action) : actionOfCode a.code = some a := by cases a <;> rfl

theorem actionOfCode_some {n : Nat} {a : Action} (read : actionOfCode n = some a) : n = a.code := by
  unfold actionOfCode at read
  split at read <;> cases read <;> rfl

/-- The ranges of the optional parts of a CUE (R18). -/
def WidthFits (action : Action) : Option (BitVec 16) → Prop
  | some w => action = .pulse ∧ 1 ≤ w.toNat
  | none => action ≠ .pulse

def RepeatFits : Option Repeat → Prop
  | some r => 1 ≤ r.period ∧ r.period < 2 ^ 24 ∧ r.count < 256
  | none => True

theorem contentFits_cue (c : CueContent) :
    Claims.contentFits (.cueContent c) ↔ c.number.toNat ≤ 3967 ∧ WidthFits c.action c.width ∧ RepeatFits c.rpt := by
  unfold Claims.contentFits WidthFits RepeatFits
  rfl

/-- The optional parts as bytes, each for itself. -/
def widthBytes : Option (BitVec 16) → List Byte
  | some w => bytesBe 2 w.toNat
  | none => []

def repeatBytes : Option Repeat → List Byte
  | some r => bytesBe 3 r.period ++ bytesBe 1 r.count
  | none => []

theorem cueTail_eq (c : CueContent) : cueTail c = widthBytes c.width ++ repeatBytes c.rpt := rfl

theorem parseRepeat_repeatBytes {r : Repeat} (fits : RepeatFits (some r)) : parseRepeat (repeatBytes (some r)) = some r := by
  obtain ⟨least, most, few⟩ := fits
  have read : ∀ p q : Nat, parseRepeat (bytesBe 3 p ++ bytesBe 1 q) =
      if natOfBytes (bytesBe 3 p) = 0 then none
      else some { period := natOfBytes (bytesBe 3 p), count := (BitVec.ofNat 8 (q / 256 ^ 0)).toNat } := fun _ _ => rfl
  have period : natOfBytes (bytesBe 3 r.period) = r.period := by
    rw [natOfBytes_bytesBe, Nat.mod_eq_of_lt (by omega)]
  have count : (BitVec.ofNat 8 (r.count / 256 ^ 0)).toNat = r.count := by
    rw [BitVec.toNat_ofNat]
    omega
  rw [repeatBytes, read, period, count, if_neg (by omega)]

theorem repeat_of_parseRepeat {bytes : List Byte} {r : Repeat} (read : parseRepeat bytes = some r) :
    RepeatFits (some r) ∧ bytes = repeatBytes (some r) := by
  unfold parseRepeat at read
  split at read
  case h_2 => simp at read
  case h_1 p2 p1 p0 count =>
    have size := natOfBytes_lt [p2, p1, p0]
    dsimp only at read
    split at read
    case isTrue => simp at read
    case isFalse some =>
      cases read
      have period : bytesBe 3 (natOfBytes [p2, p1, p0]) = [p2, p1, p0] := bytesBe_natOfBytes [p2, p1, p0]
      have last : bytesBe 1 count.toNat = [count] := by simp [bytesBe]
      refine ⟨⟨Nat.one_le_iff_ne_zero.mpr some, by simpa using size, count.isLt⟩, ?_⟩
      rw [repeatBytes, period, last]
      rfl

theorem parseCueTail_cueTail {action : Action} {width : Option (BitVec 16)} {rpt : Option Repeat}
    (widthFits : WidthFits action width) (repeatFits : RepeatFits rpt) :
    parseCueTail action rpt.isSome (widthBytes width ++ repeatBytes rpt) = some (width, rpt) := by
  cases width with
  | some w =>
    obtain ⟨rfl, least⟩ := widthFits
    have value := natOfBytes_word (n := 2) rfl w
    have word := wordOfBytes_word (n := 2) rfl w
    cases rpt with
    | none =>
      change (if natOfBytes (bytesBe 2 w.toNat) = 0 then none else some (some (wordOfBytes 16 (bytesBe 2 w.toNat)), none)) = _
      rw [value, word, if_neg (by omega)]
    | some r =>
      change (if natOfBytes (bytesBe 2 w.toNat) = 0 then none
        else match parseRepeat (repeatBytes (some r)) with
          | some r => some (some (wordOfBytes 16 (bytesBe 2 w.toNat)), some r)
          | none => none) = _
      rw [value, word, if_neg (by omega), parseRepeat_repeatBytes repeatFits]
  | none =>
    have other : action ≠ .pulse := widthFits
    cases rpt with
    | none =>
      cases action with
      | pulse => contradiction
      | _ => rfl
    | some r =>
      have read := parseRepeat_repeatBytes repeatFits
      cases action with
      | pulse => contradiction
      | _ => simp only [parseCueTail, widthBytes, List.nil_append, Option.isSome, read]

theorem tail_of_parseCueTail {action : Action} {repeating : Bool} {tail : List Byte} {width : Option (BitVec 16)}
    {rpt : Option Repeat} (read : parseCueTail action repeating tail = some (width, rpt)) :
    rpt.isSome = repeating ∧ WidthFits action width ∧ RepeatFits rpt ∧ tail = widthBytes width ++ repeatBytes rpt := by
  have word : ∀ a b : Byte, (wordOfBytes 16 [a, b]).toNat = natOfBytes [a, b] := fun a b =>
    toNat_wordOfBytes (by simp)
  have wordBytes : ∀ a b : Byte, widthBytes (some (wordOfBytes 16 [a, b])) = [a, b] := fun a b => bytesBe_word rfl rfl
  unfold parseCueTail at read
  split at read
  case h_1 w1 w0 =>
    split at read
    case isTrue => simp at read
    case isFalse some =>
      cases read
      exact ⟨rfl, ⟨rfl, by rw [word]; omega⟩, trivial, by rw [wordBytes]; rfl⟩
  case h_2 w1 w0 rest =>
    split at read
    case isTrue => simp at read
    case isFalse some =>
      split at read
      case h_2 => simp at read
      case h_1 r found =>
        cases read
        obtain ⟨fits, rfl⟩ := repeat_of_parseRepeat found
        exact ⟨rfl, ⟨rfl, by rw [word]; omega⟩, fits, by rw [wordBytes]; rfl⟩
  case h_3 => simp at read
  case h_4 notPulse =>
    cases read
    exact ⟨rfl, fun pulse => by simp_all, trivial, rfl⟩
  case h_5 =>
    split at read
    case h_2 => simp at read
    case h_1 r found =>
      cases read
      obtain ⟨fits, rfl⟩ := repeat_of_parseRepeat found
      exact ⟨rfl, fun pulse => by simp_all, fits, rfl⟩
  case h_6 => simp at read

/-- A CUE payload of these bytes whose action, optional parts and number are in their ranges. -/
theorem parseCue_of_fields {b0 b1 t1 t0 d3 d2 d1 d0 : Byte} {tail : List Byte} {action : Action}
    {width : Option (BitVec 16)} {rpt : Option Repeat} (code : actionOfCode (natOfBytes [b0, b1] / 8192) = some action)
    (parts : parseCueTail action (decide (natOfBytes [b0, b1] / 4096 % 2 = 1)) tail = some (width, rpt))
    (number : natOfBytes [b0, b1] % 4096 ≤ 3967) :
    parseCue (b0 :: b1 :: t1 :: t0 :: d3 :: d2 :: d1 :: d0 :: tail) =
      some (.cueContent
        { number := BitVec.ofNat 12 (natOfBytes [b0, b1]), action := action, topic := wordOfBytes 16 [t1, t0]
          due := wordOfBytes 32 [d3, d2, d1, d0], width := width, rpt := rpt }) := by
  simp only [parseCue, code, parts, if_pos number]

/-- The first two bytes of a CUE: action, repeat flag and number. -/
def CueContent.head (c : CueContent) : Nat :=
  c.action.code * 8192 + (if c.rpt.isSome then 4096 else 0) + c.number.toNat

theorem CueContent.head_fields (c : CueContent) :
    c.head < 256 ^ 2 ∧ c.head / 8192 = c.action.code ∧ decide (c.head / 4096 % 2 = 1) = c.rpt.isSome
      ∧ c.head % 4096 = c.number.toNat := by
  have small := c.number.isLt
  have code : c.action.code ≤ 4 := by cases c.action <;> decide
  unfold CueContent.head
  cases c.rpt <;>
    simp only [Option.isSome, decide_eq_false_iff_not, decide_eq_true_eq, if_true, Bool.false_eq_true, if_false] <;> omega

theorem cue_readBack {c : CueContent} (unused : Nat) (fits : Claims.contentFits (.cueContent c)) :
    parseCue (payloadBytes unused (.cueContent c)) = some (.cueContent c) := by
  obtain ⟨number, widthFits, repeatFits⟩ := (contentFits_cue c).mp fits
  obtain ⟨size, code, repeats, low⟩ := c.head_fields
  have head : natOfBytes (bytesBe 2 c.head) = c.head := by rw [natOfBytes_bytesBe, Nat.mod_eq_of_lt size]
  have numberField : BitVec.ofNat 12 (natOfBytes (bytesBe 2 c.head)) = c.number :=
    BitVec.eq_of_toNat_eq (by rw [head, BitVec.toNat_ofNat]; exact low)
  have read := parseCue_of_fields (b0 := BitVec.ofNat 8 (c.head / 256 ^ 1)) (b1 := BitVec.ofNat 8 (c.head / 256 ^ 0))
    (t1 := BitVec.ofNat 8 (c.topic.toNat / 256 ^ 1)) (t0 := BitVec.ofNat 8 (c.topic.toNat / 256 ^ 0))
    (d3 := BitVec.ofNat 8 (c.due.toNat / 256 ^ 3)) (d2 := BitVec.ofNat 8 (c.due.toNat / 256 ^ 2))
    (d1 := BitVec.ofNat 8 (c.due.toNat / 256 ^ 1)) (d0 := BitVec.ofNat 8 (c.due.toNat / 256 ^ 0))
    ((congrArg (fun v => actionOfCode (v / 8192)) head).trans (by rw [code, actionOfCode_code]))
    ((congrArg (fun v => parseCueTail c.action (decide (v / 4096 % 2 = 1)) (cueTail c)) head).trans
      (by rw [repeats, cueTail_eq, parseCueTail_cueTail widthFits repeatFits]))
    ((congrArg (· % 4096) head).trans_le (low.trans_le number))
  refine (read : parseCue (payloadBytes unused (.cueContent c)) = _).trans ?_
  obtain ⟨number, action, topic, due, width, rpt⟩ := c
  have topicField := wordOfBytes_word (w := 16) (n := 2) rfl topic
  have dueField := wordOfBytes_word (w := 32) (n := 4) rfl due
  exact congrArg (fun c => some (Content.cueContent c))
    (CueContent.mk.injEq .. ▸ ⟨numberField, rfl, topicField, dueField, rfl, rfl⟩)

theorem cue_of_parseCue {bytes : List Byte} {c : Content} (read : parseCue bytes = some c) :
    c.cls = .cue ∧ Claims.contentFits c ∧ ∃ unused, bytes = payloadBytes unused c := by
  unfold parseCue at read
  split at read
  case h_2 => simp at read
  case h_1 b0 b1 t1 t0 d3 d2 d1 d0 tail =>
    have size := natOfBytes_lt [b0, b1]
    simp only [List.length_cons, List.length_nil] at size
    generalize value : natOfBytes [b0, b1] = head at read size
    dsimp only at read
    split at read
    case h_1 => simp at read
    case h_2 action code =>
      split at read
      case h_1 => simp at read
      case h_2 width rpt parts =>
        split at read
        case isFalse => simp at read
        case isTrue number =>
          cases read
          obtain ⟨repeats, widthFits, repeatFits, rfl⟩ := tail_of_parseCueTail parts
          have code := actionOfCode_some code
          have low : (BitVec.ofNat 12 head).toNat = head % 4096 := BitVec.toNat_ofNat ..
          refine ⟨rfl, (contentFits_cue _).mpr ⟨by rwa [low], widthFits, repeatFits⟩, 0, ?_⟩
          have headBytes : bytesBe 2 (action.code * 8192 + (if rpt.isSome then 4096 else 0) + (BitVec.ofNat 12 head).toNat)
              = [b0, b1] := by
            refine bytesBe_of_spells rfl ?_
            rw [value, low, repeats]
            simp only [decide_eq_true_eq]
            split <;> omega
          rw [payloadBytes, headBytes, bytesBe_word (n := 2) (w := 16) (bytes := [t1, t0]) rfl rfl,
            bytesBe_word (n := 4) (w := 32) (bytes := [d3, d2, d1, d0]) rfl rfl]
          rfl

/-! ## Frames -/

/-- A content in its ranges, as the payload of its class. -/
theorem parsePayload_readBack {c : Content} (unused : Nat) (fits : Claims.contentFits c) {f : Frame}
    (cls : f.cls = c.cls) (payload : f.payload = payloadBytes unused c) (least : 1 ≤ f.station.toNat)
    (most : f.station.toNat ≤ 126) : parseFrame f = some c := by
  have station : stationOfNat f.station.toNat = some (BitVec.ofNat 7 f.station.toNat) :=
    stationOfNat_some.mpr ⟨least, most, rfl⟩
  unfold parseFrame
  rw [station, cls, payload]
  cases c with
  | beatContent => exact beat_readBack unused fits
  | recallContent => exact recall_readBack unused fits
  | markContent => exact mark_readBack _ unused
  | cueContent => exact cue_readBack unused fits

theorem parseFrame_some {f : Frame} {c : Content} (read : parseFrame f = some c) :
    1 ≤ f.station.toNat ∧ f.station.toNat ≤ 126 ∧ f.cls = c.cls ∧ Claims.contentFits c
      ∧ ∃ unused, f.payload = payloadBytes unused c := by
  unfold parseFrame at read
  split at read
  case h_1 => simp at read
  case h_2 id station =>
    obtain ⟨least, most, -⟩ := stationOfNat_some.mp station
    have fields : f.cls = c.cls ∧ Claims.contentFits c ∧ ∃ unused, f.payload = payloadBytes unused c := by
      cases cls : f.cls <;> rw [cls] at read
      case beat => exact (beat_of_parseBeat read).imp_left Eq.symm
      case recallFrame => exact (recall_of_parseRecall read).imp_left Eq.symm
      case mark => exact (mark_of_parseMark read).imp_left Eq.symm
      case cue => exact (cue_of_parseCue read).imp_left Eq.symm
    exact ⟨least, most, fields⟩

/-- Settles O50, class by class and in both directions. -/
theorem payloadReadBack : Obligations.PayloadReadBack :=
  ⟨fun _ unused _ _ fits least most => parsePayload_readBack unused fits rfl rfl least most, fun _ _ => parseFrame_some⟩

end Sys2Proof.Machine
end

section
/-! SUPPORT. The bits of a frame on the wire: fields of bits, stuffing undone, and what a receiver makes of a line (O51). -/

namespace Sys2Proof.Machine

/-! ## Fields of bits -/

theorem bitsOf_length (n v : Nat) : (bitsOf n v).length = n := by simp [bitsOf]

theorem bitsOf_succ (n v : Nat) : bitsOf (n + 1) v = v.testBit n :: bitsOf n v := by
  unfold bitsOf
  rw [List.range_succ_eq_map, List.map_cons, List.map_map]
  refine congrArg₂ _ (by simp) (List.map_congr_left fun i _ => ?_)
  simp only [Function.comp_apply, Nat.succ_eq_add_one]
  congr 1
  omega

/-- A first bit counts 2 to the number of bits behind it. -/
theorem valueOf_cons (b : Bool) (rest : List Bool) : valueOf (b :: rest) = b.toNat * 2 ^ rest.length + valueOf rest := by
  have from_any : ∀ v : Nat, rest.foldl (fun v b => 2 * v + b.toNat) v = v * 2 ^ rest.length + valueOf rest := by
    unfold valueOf
    induction rest with
    | nil => simp
    | cons c rest ih =>
      intro v
      rw [List.foldl_cons, ih, List.foldl_cons, ih (2 * 0 + c.toNat), List.length_cons, pow_succ]
      ring
  simpa [valueOf] using from_any b.toNat

theorem valueOf_lt (bits : List Bool) : valueOf bits < 2 ^ bits.length := by
  induction bits with
  | nil => simp [valueOf]
  | cons b rest ih =>
    rw [valueOf_cons, List.length_cons, pow_succ]
    cases b <;> simp <;> omega

/-- A field of n bits is read back as its value modulo 2 to the n (R5). -/
theorem valueOf_bitsOf (n v : Nat) : valueOf (bitsOf n v) = v % 2 ^ n := by
  induction n with
  | zero => simp [bitsOf, valueOf, Nat.mod_one]
  | succ n ih => rw [bitsOf_succ, valueOf_cons, ih, bitsOf_length, Nat.mod_pow_succ, ← Nat.toNat_testBit, Nat.add_comm, Nat.mul_comm]

theorem valueOf_bitsOf_of_lt {n v : Nat} (small : v < 2 ^ n) : valueOf (bitsOf n v) = v := by
  rw [valueOf_bitsOf, Nat.mod_eq_of_lt small]

theorem arbitrationField_length (f : Frame) : (arbitrationField f).length = 13 := by
  simp [arbitrationField, bitsOf_length]

theorem payloadBits_cons (b : Byte) (rest : List Byte) : payloadBits (b :: rest) = bitsOf 8 b.toNat ++ payloadBits rest := rfl

theorem payloadBits_length (payload : List Byte) : (payloadBits payload).length = 8 * payload.length := by
  induction payload with
  | nil => rfl
  | cons b rest ih =>
    rw [payloadBits_cons, List.length_append, bitsOf_length, ih, List.length_cons]
    omega

theorem coveredBits_length (f : Frame) : (coveredBits f).length = 17 + 8 * f.payload.length := by
  simp only [coveredBits, List.length_append, arbitrationField_length, bitsOf_length, payloadBits_length]

theorem bytesOfBits_payloadBits (payload : List Byte) : bytesOfBits payload.length (payloadBits payload) = payload := by
  induction payload with
  | nil => rfl
  | cons b rest ih =>
    have first : (bitsOf 8 b.toNat ++ payloadBits rest).take 8 = bitsOf 8 b.toNat :=
      List.take_left' (bitsOf_length 8 _)
    have behind : (bitsOf 8 b.toNat ++ payloadBits rest).drop 8 = payloadBits rest := List.drop_left' (bitsOf_length 8 _)
    rw [List.length_cons, bytesOfBits, payloadBits_cons, first, behind, ih, valueOf_bitsOf_of_lt b.isLt]
    simp

theorem classOfCode_classCodeOf (c : FrameClass) : classOfCode (classCodeOf c) = c := by cases c <;> rfl

/-- The frame that its covered bits carry (R5). -/
theorem frameOfCovered_coveredBits {f : Frame} (short : f.payload.length ≤ 15) : frameOfCovered (coveredBits f) = f := by
  have code : classCodeOf f.cls < 2 ^ 2 := by cases f.cls <;> decide
  have bits : coveredBits f = bitsOf 2 (classCodeOf f.cls) ++ (bitsOf 4 f.urgency.toNat ++ (bitsOf 7 f.station.toNat
      ++ (bitsOf 4 f.payload.length ++ payloadBits f.payload))) := by
    simp [coveredBits, arbitrationField]
  have behindUrgency : ∀ a b c d : List Bool, a.length = 2 → b.length = 4 → (a ++ (b ++ (c ++ d))).drop 6 = c ++ d :=
    fun a b c d la lb => by rw [← List.append_assoc, List.drop_left' (by simp [la, lb])]
  have cls : (coveredBits f).take 2 = bitsOf 2 (classCodeOf f.cls) := by
    rw [bits, List.take_left' (bitsOf_length 2 _)]
  have urgency : ((coveredBits f).drop 2).take 4 = bitsOf 4 f.urgency.toNat := by
    rw [bits, List.drop_left' (bitsOf_length 2 _), List.take_left' (bitsOf_length 4 _)]
  have station : ((coveredBits f).drop 6).take 7 = bitsOf 7 f.station.toNat := by
    rw [bits, behindUrgency _ _ _ _ (bitsOf_length 2 _) (bitsOf_length 4 _), List.take_left' (bitsOf_length 7 _)]
  have behindField : (coveredBits f).drop 13 = bitsOf 4 f.payload.length ++ payloadBits f.payload := by
    rw [coveredBits, List.append_assoc, List.drop_left' (arbitrationField_length f)]
  have length : ((coveredBits f).drop 13).take 4 = bitsOf 4 f.payload.length := by
    rw [behindField, List.take_left' (bitsOf_length 4 _)]
  have payload : (coveredBits f).drop 17 = payloadBits f.payload := by
    rw [coveredBits, List.drop_left' (by simp [arbitrationField_length, bitsOf_length])]
  rw [frameOfCovered, cls, urgency, station, length, payload, valueOf_bitsOf_of_lt code,
    valueOf_bitsOf_of_lt f.urgency.isLt, valueOf_bitsOf_of_lt f.station.isLt, valueOf_bitsOf_of_lt (by omega),
    classOfCode_classCodeOf, bytesOfBits_payloadBits]
  simp

/-! ## A region with any check value -/

theorem regionBits_eq (f : Frame) : regionBits f = Claims.regionWith f (crcOf (coveredBits f)).toNat := rfl

theorem regionWith_length (f : Frame) (check : Nat) : (Claims.regionWith f check).length = 34 + 8 * f.payload.length := by
  rw [Claims.regionWith, List.length_append, List.length_cons, coveredBits_length, bitsOf_length]
  omega

/-- The length field asks for the whole region (R5). -/
theorem regionLength_regionWith {f : Frame} (check : Nat) (short : f.payload.length ≤ 15) :
    regionLength ((Claims.regionWith f check).take 18) = (Claims.regionWith f check).length := by
  have header : (((Claims.regionWith f check).take 18).drop 14).take 4 = bitsOf 4 f.payload.length := by
    have split : Claims.regionWith f check =
        ((false :: arbitrationField f) ++ bitsOf 4 f.payload.length) ++ (payloadBits f.payload ++ bitsOf 16 check) := by
      simp [Claims.regionWith, coveredBits]
    rw [split, List.take_left' (by simp [arbitrationField_length, bitsOf_length]),
      List.drop_left' (by simp [arbitrationField_length]), List.take_of_length_le (by simp [bitsOf_length])]
  rw [regionLength, header, valueOf_bitsOf_of_lt (by omega), regionWith_length]

/-- The check value compared is the one over the bits it covers (R7). -/
theorem checkRegion_regionWith {f : Frame} {check : Nat} (rest : List Bool) (short : f.payload.length ≤ 15)
    (small : check < 2 ^ 16) :
    checkRegion (Claims.regionWith f check) rest =
      if check = (crcOf (coveredBits f)).toNat then .sound f rest else .crcError := by
  have covered : ((Claims.regionWith f check).drop 1).take ((Claims.regionWith f check).length - 17) = coveredBits f := by
    rw [regionWith_length]
    exact List.take_left' (by rw [coveredBits_length]; omega)
  have value : (Claims.regionWith f check).drop ((Claims.regionWith f check).length - 16) = bitsOf 16 check := by
    rw [regionWith_length]
    exact List.drop_left' (by rw [List.length_cons, coveredBits_length]; omega)
  unfold checkRegion
  dsimp only
  rw [covered, value, valueOf_bitsOf_of_lt small, frameOfCovered_coveredBits short]

/-! ## Bit by bit (R6) -/

/-- The run behind a bit: one longer, or the bit alone. -/
def runWith (b prev : Bool) (run : Nat) : Nat := if b = prev then run + 1 else 1

/-- A sent bit that completes six takes a stuff bit with it, and another goes alone. -/
theorem stuffFrom_sixth {b prev : Bool} {run : Nat} (six : runWith b prev run = 6) (rest : List Bool) :
    stuffFrom prev run (b :: rest) = b :: (!b) :: stuffFrom (!b) 1 rest := if_pos six

theorem stuffFrom_other {b prev : Bool} {run : Nat} (six : runWith b prev run ≠ 6) (rest : List Bool) :
    stuffFrom prev run (b :: rest) = b :: stuffFrom b (runWith b prev run) rest := if_neg six

theorem stuffFrom_head {b c prev : Bool} {run : Nat} {bits rest : List Bool}
    (part : c :: bits <+: stuffFrom prev run (b :: rest)) : c = b := by
  by_cases six : runWith b prev run = 6
  · rw [stuffFrom_sixth six] at part
    exact (List.cons_prefix_cons.mp part).1
  · rw [stuffFrom_other six] at part
    exact (List.cons_prefix_cons.mp part).1

/-- A received bit that is wanted; behind six identical ones the stuff bit, or a seventh. -/
theorem destuffFrom_wanted {run : Nat} (few : run < 6) (wanted : Nat) (b prev : Bool) (rest : List Bool) :
    destuffFrom (wanted + 1) prev run (b :: rest) = (destuffFrom wanted b (runWith b prev run) rest).cons b := by
  rw [destuffFrom, if_neg few.ne]
  rfl

theorem destuffFrom_stuffBit (wanted : Nat) (b : Bool) (rest : List Bool) :
    destuffFrom wanted b 6 ((!b) :: rest) = destuffFrom wanted (!b) 1 rest := by
  cases b <;> cases wanted <;> rfl

theorem destuffFrom_seventhBit (wanted : Nat) (b : Bool) (rest : List Bool) :
    destuffFrom wanted b 6 (b :: rest) = .stuffError := by
  cases b <;> cases wanted <;> rfl

theorem destuffFrom_stuffBit_awaited (wanted : Nat) (b : Bool) : destuffFrom wanted b 6 [] = .short := by
  cases wanted <;> rfl

/-- The run behind a bit, while no stuff bit is due. -/
theorem runWith_lt {b prev : Bool} {run : Nat} (few : run < 6) (six : runWith b prev run ≠ 6) : runWith b prev run < 6 := by
  unfold runWith at six ⊢
  split_ifs at six ⊢ <;> omega

theorem runWith_same (b : Bool) (run : Nat) : runWith b b run = run + 1 := if_pos rfl

theorem runWith_fresh {b prev : Bool} (other : b ≠ prev) (run : Nat) : runWith b prev run = 1 := if_neg other

/-! ## Stuffing undone (R6) -/

/-- Stuffing goes on behind bits already stuffed. -/
theorem stuffFrom_append (prev : Bool) (run : Nat) (front back : List Bool) :
    stuffFrom prev run front <+: stuffFrom prev run (front ++ back) := by
  induction front generalizing prev run with
  | nil => exact List.nil_prefix
  | cons b rest ih =>
    rw [List.cons_append]
    by_cases six : runWith b prev run = 6
    · rw [stuffFrom_sixth six, stuffFrom_sixth six]
      exact (List.prefix_cons_inj _).mpr ((List.prefix_cons_inj _).mpr (ih _ _))
    · rw [stuffFrom_other six, stuffFrom_other six]
      exact (List.prefix_cons_inj _).mpr (ih _ _)

/-- As many bits as were stuffed are read back, and those behind them left alone. -/
theorem destuffFrom_stuffFrom (region behind : List Bool) {prev : Bool} {run : Nat} (few : run < 6) :
    destuffFrom region.length prev run (stuffFrom prev run region ++ behind) = .bits region behind := by
  induction region generalizing prev run with
  | nil =>
    cases behind with
    | nil => exact if_pos ⟨rfl, few.ne⟩
    | cons c rest => exact if_neg few.ne
  | cons b rest ih =>
    rw [List.length_cons]
    by_cases six : runWith b prev run = 6
    · rw [stuffFrom_sixth six, List.cons_append, List.cons_append, destuffFrom_wanted few, six, destuffFrom_stuffBit,
        ih (by decide)]
      rfl
    · rw [stuffFrom_other six, List.cons_append, destuffFrom_wanted few, ih (runWith_lt few six)]
      rfl

/-- Fewer bits than the stuffed ones are not enough. -/
theorem destuffFrom_short (region : List Bool) {seen : List Bool} {prev : Bool} {run : Nat} (few : run < 6)
    (part : seen <+: stuffFrom prev run region) (less : seen ≠ stuffFrom prev run region) :
    destuffFrom region.length prev run seen = .short := by
  induction region generalizing seen prev run with
  | nil => exact absurd (List.prefix_nil.mp part) less
  | cons b rest ih =>
    cases seen with
    | nil => rfl
    | cons c seen =>
      obtain rfl := stuffFrom_head part
      rw [List.length_cons, destuffFrom_wanted few]
      by_cases six : runWith c prev run = 6
      · rw [stuffFrom_sixth six] at part less
        rw [six]
        cases seen with
        | nil =>
          rw [destuffFrom_stuffBit_awaited]
          rfl
        | cons d seen =>
          obtain ⟨rfl, tail⟩ := List.cons_prefix_cons.mp ((List.prefix_cons_inj _).mp part)
          rw [destuffFrom_stuffBit, ih (by decide) tail fun same => less (by rw [same])]
          rfl
      · rw [stuffFrom_other six] at part less
        rw [ih (runWith_lt few six) ((List.prefix_cons_inj _).mp part) fun same => less (by rw [same])]
        rfl

/-! ## Seven identical bits (R6, R10) -/

theorem not_replicate_succ_prefix_nil (n : Nat) (b : Bool) : ¬List.replicate (n + 1) b <+: [] := by
  simp

/-- A run that reaches six bits and goes on is a stuff error: left more bits complete the six. -/
theorem destuffFrom_run (region behind : List Bool) {b : Bool} {run : Nat} (left : Nat) (six : run + (left + 1) = 6)
    (part : List.replicate (left + 1) b <+: stuffFrom b run region) :
    destuffFrom region.length b run (List.replicate (left + 2) b ++ behind) = .stuffError := by
  induction region generalizing run left with
  | nil => exact absurd part (not_replicate_succ_prefix_nil left b)
  | cons c rest ih =>
    rw [List.replicate_succ] at part
    obtain rfl := stuffFrom_head part
    rw [List.length_cons, List.replicate_succ, List.cons_append, destuffFrom_wanted (by omega), runWith_same]
    match left with
    | 0 =>
      obtain rfl : run = 5 := by omega
      rw [List.replicate_succ, List.cons_append, destuffFrom_seventhBit]
      rfl
    | left + 1 =>
      have other : runWith b b run ≠ 6 := by
        rw [runWith_same]
        omega
      rw [stuffFrom_other other, runWith_same] at part
      rw [ih left (by omega) ((List.prefix_cons_inj _).mp part)]
      rfl

/-- A sender never lets a run pass six bits. -/
theorem not_replicate_stuffFrom (region : List Bool) {b : Bool} {run : Nat} (left : Nat) (six : run + (left + 1) = 6) :
    ¬List.replicate (left + 2) b <+: stuffFrom b run region := by
  induction region generalizing run left with
  | nil => exact not_replicate_succ_prefix_nil _ b
  | cons c rest ih =>
    intro part
    rw [List.replicate_succ] at part
    obtain rfl := stuffFrom_head part
    match left with
    | 0 =>
      rw [stuffFrom_sixth (by rw [runWith_same, six]), List.prefix_cons_inj, List.replicate_succ, List.cons_prefix_cons]
        at part
      simp at part
    | left + 1 =>
      have other : runWith b b run ≠ 6 := by
        rw [runWith_same]
        omega
      rw [stuffFrom_other other, runWith_same] at part
      exact ih left (by omega) ((List.prefix_cons_inj _).mp part)

/-- Six identical bits as they are sent, and then a seventh: a stuff error, wherever they stand. -/
theorem destuffFrom_seventh (region behind before : List Bool) {b prev : Bool} {run : Nat} (few : run < 6)
    (part : before ++ List.replicate 6 b <+: stuffFrom prev run region) :
    destuffFrom region.length prev run (before ++ List.replicate 7 b ++ behind) = .stuffError := by
  induction region generalizing before prev run with
  | nil => exact absurd (List.prefix_nil.mp part) (by simp)
  | cons c rest ih =>
    match before with
    | [] =>
      rw [List.nil_append] at part ⊢
      obtain rfl := stuffFrom_head part
      by_cases fresh : run = 0 ∨ b ≠ prev
      · have one : runWith b prev run = 1 := by
          obtain rfl | other := fresh
          · exact ite_self 1
          · exact runWith_fresh other run
        rw [stuffFrom_other (by omega), one, List.replicate_succ, List.prefix_cons_inj] at part
        rw [List.length_cons, List.replicate_succ, List.cons_append, destuffFrom_wanted few, one,
          destuffFrom_run rest behind 4 (by decide) part]
        rfl
      · obtain ⟨some, rfl⟩ : run ≠ 0 ∧ b = prev := by simpa [not_or] using fresh
        obtain ⟨left, six⟩ : ∃ left, run + (left + 1) = 6 := ⟨5 - run, by omega⟩
        refine absurd (List.IsPrefix.trans ?_ part) (not_replicate_stuffFrom (b :: rest) left six)
        exact ⟨List.replicate (run - 1) b, by rw [List.replicate_append_replicate]; congr 1; omega⟩
    | d :: before =>
      obtain rfl := stuffFrom_head part
      rw [List.cons_append, List.cons_append, List.length_cons, destuffFrom_wanted few]
      by_cases six : runWith d prev run = 6
      · rw [stuffFrom_sixth six, List.cons_append, List.prefix_cons_inj] at part
        rw [six]
        match before with
        | [] =>
          rw [List.nil_append, List.replicate_succ, List.cons_prefix_cons] at part
          obtain ⟨rfl, part⟩ := part
          rw [List.nil_append, List.replicate_succ, List.cons_append, destuffFrom_stuffBit,
            destuffFrom_run rest behind 4 (by decide) part]
          rfl
        | e :: before =>
          rw [List.cons_append, List.cons_prefix_cons] at part
          obtain ⟨rfl, part⟩ := part
          rw [List.cons_append, List.cons_append, destuffFrom_stuffBit, ih before (by decide) part]
          rfl
      · rw [stuffFrom_other six, List.cons_append, List.prefix_cons_inj] at part
        rw [ih before (runWith_lt few six) part]
        rfl

/-! ## Reception -/

/-- The header's bits, stuffed, come first on the line. -/
theorem stuff_header (region : List Bool) : stuff (region.take 18) <+: stuff region := by
  have whole := stuffFrom_append true 0 (region.take 18) (region.drop 18)
  rwa [List.take_append_drop] at whole

/-- What the destuffed bits of a whole region come to (R7). -/
def Destuffed.received : Destuffed → Reception
  | .stuffError => .stuffError
  | .short => .incomplete
  | .bits region rest => checkRegion region rest

/-- What a receiver has once it has the header of a region: the rest, as its length field asks for it. -/
theorem receive_of_header {f : Frame} {check : Nat} {line : List Bool} (short : f.payload.length ≤ 15)
    (header : stuff ((Claims.regionWith f check).take 18) <+: line) :
    receive line = (destuff (Claims.regionWith f check).length line).received := by
  obtain ⟨behind, rfl⟩ := header
  have size : ((Claims.regionWith f check).take 18).length = 18 := by
    rw [List.length_take, regionWith_length]
    omega
  have first := destuffFrom_stuffFrom ((Claims.regionWith f check).take 18) behind (prev := true) (run := 0) (by decide)
  rw [size] at first
  unfold receive
  rw [destuff, stuff, first]
  dsimp only
  rw [regionLength_regionWith check short]
  cases destuff (Claims.regionWith f check).length (stuffFrom true 0 ((Claims.regionWith f check).take 18) ++ behind) <;>
    rfl

/-- A region on the line, whatever comes behind it (R7). -/
theorem receive_regionWith {f : Frame} {check : Nat} (behind : List Bool) (short : f.payload.length ≤ 15)
    (small : check < 2 ^ 16) :
    receive (stuff (Claims.regionWith f check) ++ behind) =
      if check = (crcOf (coveredBits f)).toNat then .sound f behind else .crcError := by
  rw [receive_of_header short ((stuff_header _).trans (List.prefix_append _ _)), destuff, stuff,
    destuffFrom_stuffFrom _ _ (by decide)]
  exact checkRegion_regionWith behind short small

theorem receive_regionBits {f : Frame} (behind : List Bool) (short : f.payload.length ≤ 15) :
    receive (stuff (regionBits f) ++ behind) = .sound f behind := by
  rw [regionBits_eq, receive_regionWith behind short (BitVec.isLt _), if_pos rfl]

theorem receive_seventh {f : Frame} {check : Nat} {b : Bool} {before : List Bool} (behind : List Bool)
    (short : f.payload.length ≤ 15) (part : before ++ List.replicate 6 b <+: stuff (Claims.regionWith f check)) :
    receive (before ++ List.replicate 7 b ++ behind) = .stuffError := by
  have size : ((Claims.regionWith f check).take 18).length = 18 := by
    rw [List.length_take, regionWith_length]
    omega
  have longer : before ++ List.replicate 6 b <+: before ++ List.replicate 7 b ++ behind := by
    rw [List.replicate_succ' (n := 6), ← List.append_assoc, List.append_assoc _ [b]]
    exact List.prefix_append _ _
  obtain inside | header := List.prefix_or_prefix_of_prefix part (stuff_header (Claims.regionWith f check))
  · have error := destuffFrom_seventh _ behind before (by decide) inside
    rw [size] at error
    unfold receive
    rw [destuff, error]
  · rw [receive_of_header short (header.trans longer), destuff, destuffFrom_seventh _ behind before (by decide) part]
    rfl

theorem receive_part {f : Frame} {check : Nat} {seen : List Bool} (short : f.payload.length ≤ 15)
    (part : seen <+: stuff (Claims.regionWith f check)) (less : seen ≠ stuff (Claims.regionWith f check)) :
    receive seen = .incomplete := by
  have size : ((Claims.regionWith f check).take 18).length = 18 := by
    rw [List.length_take, regionWith_length]
    omega
  by_cases header : stuff ((Claims.regionWith f check).take 18) <+: seen
  · rw [receive_of_header short header, destuff, destuffFrom_short _ (by decide) part less]
    rfl
  · have inside := (List.prefix_or_prefix_of_prefix part (stuff_header _)).resolve_right header
    have few := destuffFrom_short _ (by decide) inside fun same => header (same ▸ List.prefix_rfl)
    rw [size] at few
    unfold receive
    rw [destuff, few]

theorem receiverFindsStuffAndCrc : Claims.ReceiverFindsStuffAndCrc := by
  intro f check short small line
  refine ⟨fun b before behind part => ?_, fun other behind => ?_, fun seen part less => ?_⟩
  · rw [receiverEnd, receive_seventh behind short part]
  · rw [receiverEnd, receive_regionWith behind short small, if_neg other]
  · rw [receiverEnd, receive_part short part less]

/-! ## The fixed fields -/

/-- Behind a sound region the fixed fields decide (R10, R14). -/
theorem receiverEnd_regionBits {f : Frame} (tail : List Bool) (short : f.payload.length ≤ 15) :
    receiverEnd (stuff (regionBits f) ++ tail) = checkBits 0 f false (fixedFields.map fun field => (field, true)) tail := by
  rw [receiverEnd, receive_regionBits tail short]

/-- Fixed fields, each recessive or a FORM error. -/
theorem checkBits_fixed (present : Nat) (f : Frame) (ackDominant : Bool) (n : Nat) (tail : List Bool) :
    checkBits present f ackDominant (List.replicate n (.fixed, true)) tail =
      if false ∈ tail.take n then .error .form else if tail.length < n then .incomplete else .accepted f ackDominant := by
  induction n generalizing tail with
  | zero => simp [checkBits]
  | succ n ih =>
    rw [List.replicate_succ]
    match tail with
    | [] => simp [checkBits]
    | false :: rest => simp [checkBits, sentBit]
    | true :: rest => simp [checkBits, sentBit, ih]

/-- The fields behind the region as a receiver checks them: the ack slot not at all. -/
theorem checkBits_fixedFields (f : Frame) (delimiter slot : Bool) (rest : List Bool) :
    checkBits 0 f false (fixedFields.map fun field => (field, true)) (delimiter :: slot :: rest) =
      if delimiter then checkBits 0 f (!slot) (List.replicate 8 (.fixed, true)) rest else .error .form := by
  cases delimiter <;> cases slot <;> rfl

theorem false_mem_take_iff (rest : List Bool) (n : Nat) : false ∈ rest.take n ↔ ∃ i < n, rest[i]? = some false := by
  rw [List.mem_take_iff_getElem]
  simp only [List.getElem?_eq_some_iff, lt_inf_iff]
  exact ⟨fun ⟨i, h, e⟩ => ⟨i, h.1, h.2, e⟩, fun ⟨i, l, h, e⟩ => ⟨i, ⟨l, h⟩, e⟩⟩

theorem receiverChecksFixedFields : Claims.ReceiverChecksFixedFields := by
  intro f tail short isForm
  rw [receiverEnd_regionBits tail short]
  rcases tail with _ | ⟨delimiter, _ | ⟨slot, rest⟩⟩
  · have none : ∀ i, ¬isForm i := fun i form => by simp [isForm] at form
    exact ⟨fun ⟨i, form⟩ => absurd form (none i), fun _ long => absurd long (by decide), fun _ _ => rfl⟩
  · have any : (∃ i, isForm i) ↔ delimiter = false := by
      constructor
      · rintro ⟨_ | i, few, notSlot, dominant⟩
        · simpa using dominant
        · simp at dominant
      · rintro rfl
        exact ⟨0, by decide, by decide, rfl⟩
    rw [← not_exists, any]
    cases delimiter
    · exact ⟨fun _ => rfl, fun form => absurd rfl form, fun form => absurd rfl form⟩
    · exact ⟨nofun, fun _ long => absurd long (by decide), fun _ _ => rfl⟩
  · rw [checkBits_fixedFields, checkBits_fixed]
    have later : false ∈ rest.take 8 ↔ ∃ i, isForm (i + 2) := by
      rw [false_mem_take_iff]
      exact ⟨fun ⟨i, few, dominant⟩ => ⟨i, by omega, by omega, by simpa using dominant⟩, fun ⟨i, few, _, dominant⟩ =>
        ⟨i, by omega, by simpa using dominant⟩⟩
    have any : (∃ i, isForm i) ↔ delimiter = false ∨ false ∈ rest.take 8 := by
      rw [later]
      constructor
      · rintro ⟨_ | _ | i, few, notSlot, dominant⟩
        · exact .inl (by simpa using dominant)
        · contradiction
        · exact .inr ⟨i, few, notSlot, dominant⟩
      · rintro (rfl | ⟨i, form⟩)
        · exact ⟨0, by decide, by decide, rfl⟩
        · exact ⟨_, form⟩
    rw [← not_exists, any]
    cases delimiter
    · exact ⟨fun _ => rfl, fun form => absurd (.inl rfl) form, fun form => absurd (.inl rfl) form⟩
    · rw [if_pos rfl]
      simp only [Bool.true_eq_false, false_or, List.length_cons]
      refine ⟨fun form => if_pos form, fun sound long => ?_, fun sound few => ?_⟩
      · rw [if_neg sound, if_neg (by omega)]
        cases slot <;> rfl
      · rw [if_neg sound, if_pos (by omega)]

/-! ## The sender -/

/-- Stuffing of bits with their fields, as of bits alone. -/
theorem stuffFields_sixth {field : BitField} {b prev : Bool} {run : Nat} (six : runWith b prev run = 6)
    (rest : List (BitField × Bool)) :
    stuffFields prev run ((field, b) :: rest) = (field, b) :: (.stuffBit, !b) :: stuffFields (!b) 1 rest := if_pos six

theorem stuffFields_other {field : BitField} {b prev : Bool} {run : Nat} (six : runWith b prev run ≠ 6)
    (rest : List (BitField × Bool)) :
    stuffFields prev run ((field, b) :: rest) = (field, b) :: stuffFields b (runWith b prev run) rest := if_neg six

/-- The bits of a region with their fields are those stuffed (R6). -/
theorem stuffFields_bits (prev : Bool) (run : Nat) (fields : List (BitField × Bool)) :
    (stuffFields prev run fields).map Prod.snd = stuffFrom prev run (fields.map Prod.snd) := by
  induction fields generalizing prev run with
  | nil => rfl
  | cons x rest ih =>
    obtain ⟨field, b⟩ := x
    by_cases six : runWith b prev run = 6
    · simp [stuffFields_sixth six, stuffFrom_sixth six, ih]
    · simp [stuffFields_other six, stuffFrom_other six, ih]

/-- Stuffing adds stuff bits and nothing else. -/
theorem mem_stuffFields {prev : Bool} {run : Nat} {fields : List (BitField × Bool)} {x : BitField × Bool}
    (there : x ∈ stuffFields prev run fields) : x.1 = .stuffBit ∨ x ∈ fields := by
  induction fields generalizing prev run with
  | nil => simp [stuffFields] at there
  | cons y rest ih =>
    obtain ⟨field, b⟩ := y
    by_cases six : runWith b prev run = 6
    · rw [stuffFields_sixth six, List.mem_cons, List.mem_cons] at there
      obtain rfl | rfl | there := there
      · exact .inr (List.mem_cons_self ..)
      · exact .inl rfl
      · exact (ih there).imp_right (List.mem_cons_of_mem _)
    · rw [stuffFields_other six, List.mem_cons] at there
      obtain rfl | there := there
      · exact .inr (List.mem_cons_self ..)
      · exact (ih there).imp_right (List.mem_cons_of_mem _)

/-- The field that a bit of the region is of. -/
def regionField (i : Nat) : BitField := if i = 0 then .sof else if i ≤ 13 then .arbitration else .covered

/-- The bits of a frame's region with what each is. -/
def regionFields (f : Frame) : List (BitField × Bool) := (regionBits f).mapIdx fun i b => (regionField i, b)

theorem wireFields_eq (f : Frame) :
    wireFields f = stuffFields true 0 (regionFields f) ++ fixedFields.map fun field => (field, true) := rfl

theorem regionFields_bits (f : Frame) : (regionFields f).map Prod.snd = regionBits f :=
  List.ext_getElem (by simp [regionFields]) (by simp [regionFields])

/-- The fields whose bits are compared as sent. -/
def BitField.Compared (field : BitField) : Prop := field ≠ .fixed ∧ field ≠ .ackSlot

theorem regionFields_compared {f : Frame} {x : BitField × Bool} (there : x ∈ stuffFields true 0 (regionFields f)) :
    x.1.Compared := by
  obtain stuffed | own := mem_stuffFields there
  · simp [BitField.Compared, stuffed]
  · obtain ⟨i, few, rfl⟩ := List.mem_mapIdx.mp own
    simp only [regionField]
    split_ifs <;> simp [BitField.Compared]

theorem sentBit_same {field : BitField} (compared : field.Compared) (present : Nat) (b : Bool) :
    sentBit present field b b = .continues := by
  obtain ⟨notFixed, notSlot⟩ := compared
  cases field with
  | fixed | ackSlot => contradiction
  | _ => cases b <;> rfl

/-- Bits sampled as they were sent end nothing. -/
theorem checkBits_same (present : Nat) (f : Frame) (ackDominant : Bool) {front : List (BitField × Bool)}
    (compared : ∀ x ∈ front, x.1.Compared) (fields : List (BitField × Bool)) (seen : List Bool) :
    checkBits present f ackDominant (front ++ fields) (front.map Prod.snd ++ seen) =
      checkBits present f ackDominant fields seen := by
  induction front with
  | nil => rfl
  | cons x rest ih =>
    have here := compared x (List.mem_cons_self ..)
    rw [List.map_cons, List.cons_append, List.cons_append, checkBits, sentBit_same here, if_neg here.2]
    exact ih fun y m => compared y (List.mem_cons_of_mem _ m)

/-- What a sender makes of its own region on the line is what the fixed fields tell it (R8, R9). -/
theorem senderEnd_regionBits (present : Nat) (f : Frame) (tail : List Bool) :
    senderEnd present f (stuff (regionBits f) ++ tail) =
      checkBits present f false (fixedFields.map fun field => (field, true)) tail := by
  have region : stuff (regionBits f) = (stuffFields true 0 (regionFields f)).map Prod.snd := by
    rw [stuffFields_bits, regionFields_bits]
    rfl
  rw [senderEnd, wireFields_eq, region, checkBits_same present f false fun x => regionFields_compared]

theorem sentFrameReceived : Claims.SentFrameReceived := by
  intro f ackDominant present short
  have whole := receive_regionBits (f := f) [] short
  rw [List.append_nil] at whole
  refine ⟨whole, ?_, ?_⟩
  · rw [Claims.lineBits, receiverEnd_regionBits _ short]
    cases ackDominant <;> rfl
  · rw [Claims.lineBits, senderEnd_regionBits]
    cases ackDominant with
    | true => rfl
    | false =>
      by_cases peers : 0 < present
      · simp [fixedFields, checkBits, sentBit, peers]
      · obtain rfl : present = 0 := by omega
        rfl

/-- Settles O51: stuffing undone bit by bit, fields read back, and the fixed fields behind them. -/
theorem wireReceivesSentFrame : Obligations.WireReceivesSentFrame :=
  ⟨sentFrameReceived, receiverFindsStuffAndCrc, receiverChecksFixedFields⟩

end Sys2Proof.Machine
end

section
/-! SUPPORT. Arbitration, the bits of a frame checked one by one, and the row that bits sampled bring (O52). -/

namespace Sys2Proof.Machine

/-! ## Arbitration (R8) -/

/-- Of two fields the lower has the first dominant bit in which they differ. -/
theorem first_of_valueOf_lt {a b : Bool} {low high : List Bool} (size : low.length = high.length)
    (less : valueOf (a :: low) < valueOf (b :: high)) :
    (a = b ∧ valueOf low < valueOf high) ∨ (a = false ∧ b = true) := by
  rw [valueOf_cons, valueOf_cons, size] at less
  have most := valueOf_lt high
  cases a <;> cases b <;> simp at less ⊢ <;> omega

/-- The line under two contenders is the lower field, whose sender it tells nothing, and the other that it has lost. -/
theorem contend_lower {low high : List Bool} (size : low.length = high.length) (less : valueOf low < valueOf high) :
    contend low high = low ∧ arbitrate low low = .continues ∧ arbitrate high low = .lost := by
  induction low generalizing high with
  | nil =>
    obtain rfl := List.length_eq_zero_iff.mp size.symm
    exact absurd less (lt_irrefl _)
  | cons a low ih =>
    have own : ∀ bits : List Bool, arbitrate bits bits = .continues := fun bits => by
      induction bits with
      | nil => rfl
      | cons b rest rests => cases b <;> exact rests
    match high with
    | b :: high =>
      rw [List.length_cons, List.length_cons, Nat.add_right_cancel_iff] at size
      obtain ⟨rfl, lower⟩ | ⟨rfl, rfl⟩ := first_of_valueOf_lt size less
      · obtain ⟨line, -, lost⟩ := ih size lower
        refine ⟨(if_pos rfl).trans (by rw [line]), own _, ?_⟩
        cases a <;> exact lost
      · exact ⟨rfl, own _, rfl⟩

/-- The bits of a frame's region by their fields: SOF, the arbitration field, and what is compared as sent (R5, R8, R9). -/
theorem regionFields_eq (f : Frame) :
    regionFields f =
      (.sof, false) :: (arbitrationField f).map (fun b => (.arbitration, b))
        ++ (bitsOf 4 f.payload.length ++ payloadBits f.payload ++ bitsOf 16 (crcOf (coveredBits f)).toNat).map
          fun b => (.covered, b) := by
  have bits : regionBits f = false :: (arbitrationField f
      ++ (bitsOf 4 f.payload.length ++ payloadBits f.payload ++ bitsOf 16 (crcOf (coveredBits f)).toNat)) := by
    simp [regionBits, coveredBits]
  rw [regionFields, bits, List.mapIdx_cons, List.mapIdx_append, List.cons_append]
  refine congrArg₂ _ rfl (congrArg₂ _ ?_ ?_)
  · refine List.ext_getElem (by simp) fun i inside _ => ?_
    rw [List.length_mapIdx, arbitrationField_length] at inside
    simp only [List.getElem_mapIdx, List.getElem_map, regionField, if_neg i.succ_ne_zero, if_pos (show i + 1 ≤ 13 by omega)]
  · refine List.ext_getElem (by simp) fun i _ _ => ?_
    simp only [List.getElem_mapIdx, List.getElem_map, arbitrationField_length, regionField,
      if_neg (show i + 13 + 1 ≠ 0 by omega), if_neg (show ¬i + 13 + 1 ≤ 13 by omega)]

/-- A station that sends the higher field loses within it, stuff bits among the bits of both (R8). -/
theorem checkBits_higher (present : Nat) (g : Frame) (ackDominant : Bool) {low high : List Bool} {prev : Bool} {run : Nat}
    (restLow more : List Bool) (restHigh fields : List (BitField × Bool)) (size : low.length = high.length)
    (less : valueOf low < valueOf high) :
    checkBits present g ackDominant
        (stuffFields prev run (high.map (fun b => (.arbitration, b)) ++ restHigh) ++ fields)
        (stuffFrom prev run (low ++ restLow) ++ more) = .lost := by
  induction low generalizing high prev run with
  | nil =>
    obtain rfl := List.length_eq_zero_iff.mp size.symm
    exact absurd less (lt_irrefl _)
  | cons a low ih =>
    match high with
    | b :: high =>
      rw [List.length_cons, List.length_cons, Nat.add_right_cancel_iff] at size
      obtain ⟨rfl, lower⟩ | ⟨rfl, rfl⟩ := first_of_valueOf_lt size less
      · have same : ∀ field : BitField, field.Compared → ∀ (c : Bool) fields seen,
            checkBits present g ackDominant ((field, c) :: fields) (c :: seen) =
              checkBits present g ackDominant fields seen := fun field compared c fields seen =>
          checkBits_same present g ackDominant (front := [(field, c)]) (by simpa using compared) fields seen
        have arbitrated : BitField.arbitration.Compared := ⟨nofun, nofun⟩
        have stuffed : BitField.stuffBit.Compared := ⟨nofun, nofun⟩
        rw [List.map_cons, List.cons_append, List.cons_append]
        by_cases six : runWith a prev run = 6
        · rw [stuffFields_sixth six, stuffFrom_sixth six, List.cons_append, List.cons_append, List.cons_append,
            List.cons_append, same _ arbitrated, same _ stuffed]
          exact ih size lower
        · rw [stuffFields_other six, stuffFrom_other six, List.cons_append, List.cons_append, same _ arbitrated]
          exact ih size lower
      · have first : ∀ rest, ∃ behind, stuffFrom prev run (false :: rest) ++ more = false :: behind := fun rest => by
          by_cases six : runWith false prev run = 6
          · exact ⟨_, by rw [stuffFrom_sixth six]; rfl⟩
          · exact ⟨_, by rw [stuffFrom_other six]; rfl⟩
        have sent : ∀ rest, ∃ behind,
            stuffFields prev run ((.arbitration, true) :: rest) ++ fields = (.arbitration, true) :: behind := fun rest => by
          by_cases six : runWith true prev run = 6
          · exact ⟨_, by rw [stuffFields_sixth six]; rfl⟩
          · exact ⟨_, by rw [stuffFields_other six]; rfl⟩
        obtain ⟨line, onLine⟩ := first (low ++ restLow)
        obtain ⟨behind, driven⟩ := sent (high.map (fun b => (.arbitration, b)) ++ restHigh)
        rw [List.map_cons, List.cons_append, List.cons_append, onLine, driven]
        rfl

theorem lowerFieldWins : Claims.LowerFieldWins := by
  refine ⟨fun a b less small => ?_, fun f g present less => ?_⟩
  · have lower : valueOf (bitsOf 13 a) < valueOf (bitsOf 13 b) := by
      rwa [valueOf_bitsOf_of_lt (by omega), valueOf_bitsOf_of_lt small]
    obtain ⟨line, own, lost⟩ := contend_lower (by simp [bitsOf_length]) lower
    exact ⟨line, by rw [line, own], by rw [line, lost]⟩
  · have bits : regionBits f = false :: (arbitrationField f
        ++ (bitsOf 4 f.payload.length ++ payloadBits f.payload ++ bitsOf 16 (crcOf (coveredBits f)).toNat)) := by
      simp [regionBits, coveredBits]
    have size : (arbitrationField f).length = (arbitrationField g).length := by
      rw [arbitrationField_length, arbitrationField_length]
    rw [senderEnd, wireFields_eq, regionFields_eq, wireBits, bits, stuff, List.cons_append]
    exact checkBits_higher present g false _ _ _ _ size less

/-! ## The bits of a frame checked one by one (R9) -/

/-- What the sender knows of the ack slot behind bits of these fields. -/
def slotAfter (ackDominant : Bool) (fields : List (BitField × Bool)) (seen : List Bool) : Bool :=
  (fields.zip seen).foldl (fun known x => if x.1.1 = .ackSlot then !x.2 else known) ackDominant

/-- Bits that end nothing are checked, and then those behind them. -/
theorem checkBits_append {present : Nat} {f : Frame} {ackDominant : Bool} {fields : List (BitField × Bool)}
    {before : List Bool} (nothing : checkBits present f ackDominant fields before = .incomplete) (more : List Bool) :
    checkBits present f ackDominant fields (before ++ more) =
      checkBits present f (slotAfter ackDominant fields before) (fields.drop before.length) more := by
  induction before generalizing fields ackDominant with
  | nil => cases fields <;> rfl
  | cons seen before ih =>
    match fields with
    | [] => simp [checkBits] at nothing
    | (field, sent) :: fields =>
      rw [checkBits] at nothing
      rw [List.cons_append, checkBits]
      cases result : sentBit present field sent seen with
      | continues =>
        rw [result] at nothing
        exact ih nothing
      | lost => simp [result] at nothing
      | error kind => simp [result] at nothing

/-- What one more bit tells the sender. -/
theorem checkBits_next {present : Nat} {f : Frame} {ackDominant : Bool} {fields : List (BitField × Bool)}
    {before : List Bool} {field : BitField} {sent : Bool}
    (nothing : checkBits present f ackDominant fields before = .incomplete)
    (next : fields[before.length]? = some (field, sent)) (sampled : Bool) :
    checkBits present f ackDominant fields (before ++ [sampled]) =
      checkBits present f (slotAfter ackDominant fields before) ((field, sent) :: fields.drop (before.length + 1))
        [sampled] := by
  obtain ⟨few, here⟩ := List.getElem?_eq_some_iff.mp next
  rw [checkBits_append nothing, List.drop_eq_getElem_cons few, here]

theorem slotAfter_cons {field : BitField} (other : field ≠ .ackSlot) (known sent seen : Bool)
    (fields : List (BitField × Bool)) (rest : List Bool) :
    slotAfter known ((field, sent) :: fields) (seen :: rest) = slotAfter known fields rest :=
  congrArg (slotAfter · fields rest) (if_neg other)

/-- Fields other than the ack slot tell nothing of it. -/
theorem slotAfter_silent (known : Bool) {fields : List (BitField × Bool)} (seen : List Bool)
    (silent : ∀ x ∈ fields, x.1 ≠ .ackSlot) : slotAfter known fields seen = known := by
  induction fields generalizing seen with
  | nil => rfl
  | cons x fields ih =>
    match seen with
    | [] => rfl
    | b :: seen =>
      rw [slotAfter_cons (silent x (List.mem_cons_self ..)), ih seen fun y m => silent y (List.mem_cons_of_mem _ m)]

/-- The one ack slot is known as it was sampled. -/
theorem slotAfter_slot (known : Bool) {front back : List (BitField × Bool)} {seen : List Bool} {level : Bool}
    (silentFront : ∀ x ∈ front, x.1 ≠ .ackSlot) (silentBack : ∀ x ∈ back, x.1 ≠ .ackSlot)
    (here : seen[front.length]? = some level) :
    slotAfter known (front ++ (.ackSlot, true) :: back) seen = !level := by
  induction front generalizing seen with
  | nil =>
    match seen with
    | [] => simp at here
    | b :: seen =>
      obtain rfl : b = level := by simpa using here
      exact slotAfter_silent (!b) seen silentBack
  | cons x front ih =>
    match seen with
    | [] => simp at here
    | b :: seen =>
      rw [List.cons_append, slotAfter_cons (silentFront x (List.mem_cons_self ..))]
      exact ih (fun y m => silentFront y (List.mem_cons_of_mem _ m)) (by simpa using here)

/-- The fields of a frame around its ack slot, the ninth from the end. -/
theorem wireFields_slot (f : Frame) :
    wireFields f =
      (stuffFields true 0 (regionFields f) ++ [(.fixed, true)]) ++ (.ackSlot, true) :: List.replicate 8 (.fixed, true) := by
  rw [wireFields_eq, List.append_assoc]
  rfl

theorem slotAfter_wireFields {f : Frame} {before : List Bool} (last : before.length + 1 = (wireFields f).length) :
    slotAfter false (wireFields f) before = (before[(wireFields f).length - 9]? == some false) := by
  have place : (stuffFields true 0 (regionFields f) ++ [(BitField.fixed, true)]).length = (wireFields f).length - 9 := by
    rw [wireFields_slot]
    simp
  have front : ∀ x ∈ stuffFields true 0 (regionFields f) ++ [(BitField.fixed, true)], x.1 ≠ .ackSlot := by
    intro x there
    obtain region | delimiter := List.mem_append.mp there
    · exact (regionFields_compared region).2
    · simp [List.mem_singleton.mp delimiter]
  have back : ∀ x ∈ List.replicate 8 (BitField.fixed, true), x.1 ≠ .ackSlot := fun x there => by
    simp [List.eq_of_mem_replicate there]
  have long : 10 ≤ (wireFields f).length := by
    rw [wireFields_slot]
    simp
  have inside : (wireFields f).length - 9 < before.length := by omega
  obtain ⟨level, here⟩ : ∃ level, before[(wireFields f).length - 9]? = some level :=
    ⟨_, List.getElem?_eq_getElem inside⟩
  have known := slotAfter_slot false front back (place ▸ here)
  rw [← wireFields_slot] at known
  rw [known, here]
  cases level <;> rfl

/-- The last bit of a frame is one of its end field. -/
theorem wireFields_last {f : Frame} {n : Nat} {x : BitField × Bool} (last : n + 1 = (wireFields f).length)
    (here : (wireFields f)[n]? = some x) : x = (.fixed, true) := by
  have split : wireFields f = (stuffFields true 0 (regionFields f) ++ (.fixed, true) :: (.ackSlot, true)
      :: List.replicate 7 (.fixed, true)) ++ [(.fixed, true)] := by
    rw [wireFields_eq]
    simp [fixedFields, List.replicate]
  rw [split] at last here
  rw [List.length_append, List.length_singleton, Nat.add_right_cancel_iff] at last
  rw [last, List.getElem?_concat_length] at here
  exact (Option.some.inj here).symm

/-- The fixed fields are sent recessive. -/
theorem wireFields_fixed {f : Frame} {sent : Bool} (there : (.fixed, sent) ∈ wireFields f) : sent = true := by
  rw [wireFields_eq, List.mem_append] at there
  obtain region | fixed := there
  · exact absurd rfl (regionFields_compared region).1
  · obtain ⟨field, -, same⟩ := List.mem_map.mp fixed
    exact (Prod.mk.inj same).2.symm

/-- Bits sampled as they were sent go on, and so does an ack slot that is dominant or that nobody is there to drive. -/
theorem sentBit_continues {present : Nat} {f : Frame} {field : BitField} {sent sampled : Bool}
    (there : (field, sent) ∈ wireFields f)
    (same : field ≠ .ackSlot ∧ sent = sampled ∨ field = .ackSlot ∧ (sampled = false ∨ present = 0)) :
    sentBit present field sent sampled = .continues := by
  obtain ⟨notSlot, rfl⟩ | ⟨rfl, rfl | rfl⟩ := same
  · by_cases fixed : field = .fixed
    · subst fixed
      rw [wireFields_fixed there]
      rfl
    · exact sentBit_same ⟨fixed, notSlot⟩ present sent
  · rfl
  · cases sampled <;> rfl

theorem sentBitsChecked : Claims.SentBitsChecked := by
  intro f present before field sent sampled nothing next now
  have bit : now = checkBits present f (slotAfter false (wireFields f) before)
      ((field, sent) :: (wireFields f).drop (before.length + 1)) [sampled] := checkBits_next nothing next sampled
  rw [checkBits] at bit
  refine ⟨fun compared other => ?_, fun arbitrates recessive dominant => ?_, fun arbitrates dominant recessive => ?_,
    fun fixed dominant => ?_, fun slot recessive peers => ?_, fun same => ?_⟩
  · obtain rfl | rfl | rfl := compared <;> simpa [sentBit, other] using bit
  · subst arbitrates recessive dominant
    exact bit
  · subst arbitrates dominant recessive
    exact bit
  · subst fixed dominant
    exact bit
  · subst slot recessive
    simpa [sentBit, peers] using bit
  · rw [sentBit_continues (List.mem_of_getElem? next) same] at bit
    dsimp only at bit
    rw [bit]
    have few := (List.getElem?_eq_some_iff.mp next).1
    by_cases more : before.length + 1 < (wireFields f).length
    · rw [if_pos more, List.drop_eq_getElem_cons more]
      rfl
    · have last : before.length + 1 = (wireFields f).length := by omega
      obtain ⟨rfl, rfl⟩ := Prod.mk.inj (wireFields_last last next)
      rw [if_neg more, List.drop_of_length_le (by omega), slotAfter_wireFields last]
      rfl

/-! ## The fields of the bits (R5, R6, R8, R9) -/

/-- Without its stuff bits a stuffed region is the region. -/
theorem filter_stuffFields {prev : Bool} {run : Nat} {fields : List (BitField × Bool)}
    (plain : ∀ x ∈ fields, x.1 ≠ .stuffBit) :
    (stuffFields prev run fields).filter (fun x => decide (x.1 ≠ .stuffBit)) = fields := by
  induction fields generalizing prev run with
  | nil => rfl
  | cons x rest ih =>
    obtain ⟨field, b⟩ := x
    have here : field ≠ .stuffBit := plain _ (List.mem_cons_self ..)
    have later := fun prev run => ih (prev := prev) (run := run) fun y m => plain y (List.mem_cons_of_mem _ m)
    by_cases six : runWith b prev run = 6
    · rw [stuffFields_sixth six, List.filter_cons_of_pos (by simpa using here), List.filter_cons_of_neg (by simp), later]
    · rw [stuffFields_other six, List.filter_cons_of_pos (by simpa using here), later]

/-- A stuff bit is the opposite of the bit before it. -/
theorem stuffBit_opposite {prev : Bool} {run : Nat} {fields : List (BitField × Bool)}
    (plain : ∀ x ∈ fields, x.1 ≠ .stuffBit) {i : Nat} {b : Bool}
    (here : (stuffFields prev run fields)[i]? = some (.stuffBit, b)) :
    ∃ k, i = k + 1 ∧ ((stuffFields prev run fields)[k]?).map Prod.snd = some (!b) := by
  induction fields generalizing prev run i with
  | nil => simp [stuffFields] at here
  | cons x rest ih =>
    obtain ⟨field, c⟩ := x
    have notFirst : field ≠ .stuffBit := plain _ (List.mem_cons_self ..)
    have later := fun prev run i => ih (prev := prev) (run := run) (i := i) fun y m =>
      plain y (List.mem_cons_of_mem _ m)
    by_cases six : runWith c prev run = 6
    · rw [stuffFields_sixth six] at here ⊢
      match i with
      | 0 => simp [notFirst] at here
      | 1 =>
        obtain rfl : (!c) = b := by simpa using here
        exact ⟨0, rfl, by simp⟩
      | i + 2 =>
        obtain ⟨k, rfl, opposite⟩ := later _ _ i (by simpa using here)
        exact ⟨k + 2, rfl, by simpa using opposite⟩
    · rw [stuffFields_other six] at here ⊢
      match i with
      | 0 => simp [notFirst] at here
      | i + 1 =>
        obtain ⟨k, rfl, opposite⟩ := later _ _ i (by simpa using here)
        exact ⟨k + 1, rfl, by simpa using opposite⟩

theorem regionFields_plain {f : Frame} {x : BitField × Bool} (there : x ∈ regionFields f) : x.1 ≠ .stuffBit := by
  obtain ⟨i, few, rfl⟩ := List.mem_mapIdx.mp there
  simp only [regionField]
  split_ifs <;> simp

theorem fieldsOfWire : Claims.FieldsOfWire := by
  intro f
  refine ⟨?_, ?_, fun i b here => ?_⟩
  · rw [wireFields_eq, List.map_append, stuffFields_bits, regionFields_bits]
    rfl
  · rw [wireFields_eq, List.filter_append, filter_stuffFields fun x => regionFields_plain, regionFields_eq]
    rfl
  · rw [wireFields_eq] at here ⊢
    have inside : i < (stuffFields true 0 (regionFields f)).length := by
      by_contra behind
      rw [List.getElem?_append_right (by omega)] at here
      have fixed := List.mem_of_getElem? here
      simp [fixedFields] at fixed
    rw [List.getElem?_append_left inside] at here
    obtain ⟨k, rfl, opposite⟩ := stuffBit_opposite (fun x => regionFields_plain) here
    exact ⟨k, rfl, by rwa [List.getElem?_append_left (by omega)]⟩

/-! ## How a frame can end -/

/-- An error, and a loss, come from one of the bits. -/
theorem checkBits_error {present : Nat} {f : Frame} {ackDominant : Bool} {fields : List (BitField × Bool)}
    {seen : List Bool} {kind : ErrorKind} (error : checkBits present f ackDominant fields seen = .error kind) :
    ∃ x ∈ fields, ∃ sampled, sentBit present x.1 x.2 sampled = .error kind := by
  induction fields generalizing seen ackDominant with
  | nil => simp [checkBits] at error
  | cons x fields ih =>
    obtain ⟨field, sent⟩ := x
    match seen with
    | [] => simp [checkBits] at error
    | sampled :: seen =>
      rw [checkBits] at error
      cases result : sentBit present field sent sampled with
      | continues =>
        rw [result] at error
        obtain ⟨x, there, found⟩ := ih error
        exact ⟨x, List.mem_cons_of_mem _ there, found⟩
      | lost => simp [result] at error
      | error other =>
        obtain rfl : other = kind := by simpa [result] using error
        exact ⟨_, List.mem_cons_self .., sampled, result⟩

theorem checkBits_lost {present : Nat} {f : Frame} {ackDominant : Bool} {fields : List (BitField × Bool)}
    {seen : List Bool} (lost : checkBits present f ackDominant fields seen = .lost) :
    ∃ x ∈ fields, ∃ sampled, sentBit present x.1 x.2 sampled = .lost := by
  induction fields generalizing seen ackDominant with
  | nil => simp [checkBits] at lost
  | cons x fields ih =>
    obtain ⟨field, sent⟩ := x
    match seen with
    | [] => simp [checkBits] at lost
    | sampled :: seen =>
      rw [checkBits] at lost
      cases result : sentBit present field sent sampled with
      | continues =>
        rw [result] at lost
        obtain ⟨x, there, found⟩ := ih lost
        exact ⟨x, List.mem_cons_of_mem _ there, found⟩
      | lost => exact ⟨_, List.mem_cons_self .., sampled, result⟩
      | error other => simp [result] at lost

/-- An accepted frame whose ack slot is checked has been acknowledged (R9). -/
theorem checkBits_acknowledged {present : Nat} {f g : Frame} {ackDominant ack : Bool} {fields : List (BitField × Bool)}
    {seen : List Bool} (accepted : checkBits present f ackDominant fields seen = .accepted g ack) (peers : 0 < present)
    (checked : ackDominant = true ∨ ∃ x ∈ fields, x.1 = .ackSlot) : ack = true := by
  induction fields generalizing seen ackDominant with
  | nil =>
    obtain rfl : ackDominant = ack := by simp [checkBits] at accepted; exact accepted.2
    simpa using checked
  | cons x fields ih =>
    obtain ⟨field, sent⟩ := x
    match seen with
    | [] => simp [checkBits] at accepted
    | sampled :: seen =>
      rw [checkBits] at accepted
      cases result : sentBit present field sent sampled with
      | continues =>
        rw [result] at accepted
        refine ih accepted ?_
        by_cases slot : field = .ackSlot
        · subst slot
          cases sampled with
          | false => exact .inl rfl
          | true => simp [sentBit, peers] at result
        · rw [if_neg slot]
          refine checked.imp_right fun ⟨x, there, isSlot⟩ => ?_
          obtain rfl | there := List.mem_cons.mp there
          · exact absurd isSlot slot
          · exact ⟨x, there, isSlot⟩
      | lost => simp [result] at accepted
      | error other => simp [result] at accepted

/-- The errors a sent bit can tell of (R9). -/
theorem sentBit_error {present : Nat} {field : BitField} {sent sampled : Bool} {kind : ErrorKind}
    (error : sentBit present field sent sampled = .error kind) :
    kind = .bit ∨ kind = .form ∨ kind = .ack ∧ 0 < present := by
  have compared : (if sent = sampled then BitResult.continues else .error .bit) = .error kind → kind = .bit := fun error => by
    split at error <;> simp_all
  cases field with
  | sof | covered | stuffBit => exact .inl (compared error)
  | arbitration => cases sent <;> cases sampled <;> simp_all [sentBit, arbitrationBit]
  | fixed => cases sampled <;> simp_all [sentBit]
  | ackSlot => by_cases peers : 0 < present <;> cases sampled <;> simp_all [sentBit]

theorem senderEnd_error {present : Nat} {f : Frame} {seen : List Bool} {kind : ErrorKind}
    (error : senderEnd present f seen = .error kind) : kind = .bit ∨ kind = .form ∨ kind = .ack ∧ 0 < present := by
  obtain ⟨x, -, sampled, found⟩ := checkBits_error error
  exact sentBit_error found

theorem senderEnd_accepted {present : Nat} {f g : Frame} {seen : List Bool} {ack : Bool}
    (accepted : senderEnd present f seen = .accepted g ack) : ack = true ∨ present = 0 := by
  by_cases peers : 0 < present
  · refine .inl (checkBits_acknowledged accepted peers (.inr ⟨(.ackSlot, true), ?_, rfl⟩))
    rw [wireFields_slot]
    simp
  · exact .inr (by omega)

/-- Behind a sound region a receiver finds nothing but FORM (R10). -/
theorem fixedFields_bit {x : BitField × Bool} (there : x ∈ fixedFields.map fun field => (field, true)) (sampled : Bool) :
    sentBit 0 x.1 x.2 sampled = .continues ∨ sentBit 0 x.1 x.2 sampled = .error .form := by
  obtain ⟨field, among, rfl⟩ := List.mem_map.mp there
  have fields : field = .fixed ∨ field = .ackSlot := by
    simp only [fixedFields, List.mem_append, List.mem_cons, List.mem_replicate, List.not_mem_nil] at among
    tauto
  obtain rfl | rfl := fields <;> cases sampled <;> simp [sentBit]

theorem receiverEnd_error {seen : List Bool} {kind : ErrorKind} (error : receiverEnd seen = .error kind) :
    kind = .stuff ∨ kind = .form ∨ kind = .crc := by
  unfold receiverEnd at error
  cases received : receive seen with
  | stuffError => simp_all
  | crcError => simp_all
  | incomplete => simp_all
  | sound f rest =>
    rw [received] at error
    obtain ⟨x, there, sampled, found⟩ := checkBits_error error
    obtain goes | form := fixedFields_bit there sampled <;> simp_all

theorem receiverEnd_not_lost (seen : List Bool) : receiverEnd seen ≠ .lost := by
  intro lost
  unfold receiverEnd at lost
  cases received : receive seen with
  | stuffError => simp_all
  | crcError => simp_all
  | incomplete => simp_all
  | sound f rest =>
    rw [received] at lost
    obtain ⟨x, there, sampled, found⟩ := checkBits_lost lost
    obtain goes | form := fixedFields_bit there sampled <;> simp_all

/-! ## The row that bits bring -/

/-- The bits that bring a row are the first that do. -/
theorem rowFor_some {s : State} {sampled : List Bool} {row : Instr} (brought : s.rowFor sampled = some row) :
    ∃ k ≤ sampled.length, s.rowAt (sampled.take k) = some row := by
  obtain ⟨k, there, found⟩ := List.exists_of_findSome?_eq_some brought
  exact ⟨k, Nat.lt_succ_iff.mp (List.mem_range.mp there), found⟩

theorem rowFor_none {s : State} {sampled : List Bool} :
    s.rowFor sampled = none ↔ ∀ k ≤ sampled.length, s.rowAt (sampled.take k) = none := by
  unfold State.rowFor
  simp [List.findSome?_eq_none_iff]

theorem rowFor_of_first {s : State} {sampled : List Bool} {row : Instr} (k : Nat) (inside : k ≤ sampled.length)
    (brought : s.rowAt (sampled.take k) = some row) (first : ∀ j < k, s.rowAt (sampled.take j) = none) :
    s.rowFor sampled = some row := by
  obtain ⟨more, size⟩ : ∃ more, sampled.length + 1 = k + (more + 1) := ⟨sampled.length - k, by omega⟩
  unfold State.rowFor
  rw [size, List.range_add, List.findSome?_append, List.range_succ_eq_map, List.map_cons, Nat.add_zero,
    List.findSome?_cons, brought, List.findSome?_eq_none_iff.mpr fun j there => first j (List.mem_range.mp there)]
  rfl

theorem rowAt_receiving {s : State} (state : s.liu.state = .receiving) (sampled : List Bool) :
    s.rowAt sampled = (receiverEnd sampled).row sampled := by
  unfold State.rowAt
  rw [state]

theorem rowAt_sending {s : State} {row : Instr} {sampled : List Bool} (state : s.liu.state = .sending)
    (brought : s.rowAt sampled = some row) :
    ∃ f, (senderEnd s.presentPeers f sampled).row sampled = some row := by
  unfold State.rowAt at brought
  rw [state] at brought
  cases held : s.liu.attempt with
  | none => simp [held] at brought
  | some a => exact ⟨_, by simpa [held] using brought⟩

theorem rowAt_spacing {s : State} (state : s.liu.state = .spacing) (sampled : List Bool) :
    s.rowAt sampled = spacingRow sampled := by
  unfold State.rowAt
  rw [state]

theorem rowAt_integrating {s : State} (state : s.liu.state = .integrating) (sampled : List Bool) :
    s.rowAt sampled = quietRow 11 .integrationComplete 0 sampled := by
  unfold State.rowAt
  rw [state]

theorem rowAt_flagging {s : State} {dominant : Bool} {role : Role} (state : s.liu.state = .flagging dominant role)
    (sampled : List Bool) : s.rowAt sampled = if 8 ≤ sampled.length then some .errorFlagEnd else none := by
  unfold State.rowAt
  rw [state]

theorem rowAt_delimiting {s : State} {role : Role} (state : s.liu.state = .delimiting role) (sampled : List Bool) :
    s.rowAt sampled = delimiterRow (.errorDelimiterEnd sampled) (.stuckLineError sampled) 0 0 sampled := by
  unfold State.rowAt
  rw [state]

theorem rowAt_idle {s : State} (state : s.liu.state = .idle) (sampled : List Bool) :
    s.rowAt sampled = if s.liu.holdOff then quietRow 8 .holdOffEnd 0 sampled else none := by
  unfold State.rowAt
  rw [state]

theorem rowAt_stopped {s : State} (state : s.liu.state = .stopped) (sampled : List Bool) : s.rowAt sampled = none := by
  unfold State.rowAt
  rw [state]

/-- A run of recessive bits brings its own row and no other. -/
theorem quietRow_some {wanted count : Nat} {row found : Instr} {bits : List Bool}
    (brought : quietRow wanted row count bits = some found) : found = row := by
  induction bits generalizing count with
  | nil => simp [quietRow] at brought
  | cons b rest ih =>
    cases b with
    | false => exact ih brought
    | true =>
      rw [quietRow] at brought
      split at brought
      · exact (Option.some.inj brought).symm
      · exact ih brought

theorem delimiterRow_some {delimiterEnd stuckLine found : Instr} {recessive dominant : Nat} {bits : List Bool}
    (brought : delimiterRow delimiterEnd stuckLine recessive dominant bits = some found) :
    found = delimiterEnd ∨ found = stuckLine := by
  induction bits generalizing recessive dominant with
  | nil => simp [delimiterRow] at brought
  | cons b rest ih =>
    cases b with
    | false =>
      rw [delimiterRow] at brought
      split at brought
      · exact .inr (Option.some.inj brought).symm
      · exact ih brought
    | true =>
      rw [delimiterRow] at brought
      split at brought
      · exact .inl (Option.some.inj brought).symm
      · exact ih brought

/-- The rows of an interframe space (R15). -/
theorem spacingRow_some {found : Instr} {bits : List Bool} (brought : spacingRow bits = some found) :
    found = .errorDetected .form bits ∨ found = .interframeSpaceEnd := by
  unfold spacingRow interframeSpace at brought
  split_ifs at brought <;> simp_all

/-- The row that the end of a frame brings. -/
theorem row_some {ended : FrameEnd} {sampled : List Bool} {found : Instr} (brought : ended.row sampled = some found) :
    (ended = .lost ∧ found = .lostArbitration) ∨ (∃ kind, ended = .error kind ∧ found = .errorDetected kind sampled)
      ∨ ∃ f ack, ended = .accepted f ack ∧ found = .acceptance f ack := by
  cases ended with
  | incomplete => cases brought
  | lost => exact .inl ⟨rfl, (Option.some.inj brought).symm⟩
  | error kind => exact .inr (.inl ⟨kind, rfl, (Option.some.inj brought).symm⟩)
  | accepted f ack => exact .inr (.inr ⟨f, ack, rfl, (Option.some.inj brought).symm⟩)

/-- What kind of row each state's bits can bring. -/
theorem rowAt_some {s : State} {sampled : List Bool} {row : Instr} (brought : s.rowAt sampled = some row) :
    (∃ f, s.liu.state = .sending ∧ (senderEnd s.presentPeers f sampled).row sampled = some row)
      ∨ (s.liu.state = .receiving ∧ (receiverEnd sampled).row sampled = some row)
      ∨ (s.liu.state = .spacing ∧ row = .errorDetected .form sampled)
      ∨ row = .interframeSpaceEnd ∨ row = .integrationComplete ∨ row = .errorFlagEnd
      ∨ row = .errorDelimiterEnd sampled ∨ row = .stuckLineError sampled ∨ row = .holdOffEnd := by
  cases state : s.liu.state with
  | stopped => simp [rowAt_stopped state] at brought
  | integrating =>
    rw [rowAt_integrating state] at brought
    simp [quietRow_some brought]
  | idle =>
    rw [rowAt_idle state] at brought
    split at brought
    · simp [quietRow_some brought]
    · simp at brought
  | receiving =>
    rw [rowAt_receiving state] at brought
    exact .inr (.inl ⟨rfl, brought⟩)
  | sending =>
    obtain ⟨f, own⟩ := rowAt_sending state brought
    exact .inl ⟨f, rfl, own⟩
  | flagging dominant role =>
    rw [rowAt_flagging state] at brought
    split at brought <;> simp_all
  | delimiting role =>
    rw [rowAt_delimiting state] at brought
    obtain rfl | rfl := delimiterRow_some brought <;> simp
  | spacing =>
    rw [rowAt_spacing state] at brought
    obtain rfl | rfl := spacingRow_some brought <;> simp

theorem rowFor_error {s : State} {sampled bits : List Bool} {kind : ErrorKind}
    (brought : s.rowFor sampled = some (.errorDetected kind bits)) :
    s.liu.state = .sending ∧ (kind = .bit ∨ kind = .form ∨ kind = .ack ∧ 0 < s.presentPeers)
      ∨ s.liu.state = .receiving ∧ (kind = .stuff ∨ kind = .form ∨ kind = .crc)
      ∨ s.liu.state = .spacing ∧ kind = .form := by
  obtain ⟨k, -, at_k⟩ := rowFor_some brought
  obtain ⟨f, state, own⟩ | ⟨state, received⟩ | ⟨state, error⟩ | other := rowAt_some at_k
  · obtain ⟨-, other⟩ | ⟨_, error, same⟩ | ⟨_, _, -, other⟩ := row_some own
    · cases other
    · cases same
      exact .inl ⟨state, senderEnd_error error⟩
    · cases other
  · obtain ⟨-, other⟩ | ⟨_, error, same⟩ | ⟨_, _, -, other⟩ := row_some received
    · cases other
    · cases same
      exact .inr (.inl ⟨state, receiverEnd_error error⟩)
    · cases other
  · cases error
    exact .inr (.inr ⟨state, rfl⟩)
  · simp at other

theorem rowFor_lost {s : State} {sampled : List Bool} (brought : s.rowFor sampled = some .lostArbitration) :
    s.liu.state = .sending := by
  obtain ⟨k, -, at_k⟩ := rowFor_some brought
  obtain ⟨f, state, own⟩ | ⟨state, received⟩ | ⟨state, error⟩ | other := rowAt_some at_k
  · exact state
  · obtain ⟨lost, -⟩ | ⟨_, -, other⟩ | ⟨_, _, -, other⟩ := row_some received
    · exact absurd lost (receiverEnd_not_lost _)
    · cases other
    · cases other
  · cases error
  · simp at other

theorem rowFor_acceptance {s : State} {sampled : List Bool} {f : Frame} {ack : Bool}
    (brought : s.rowFor sampled = some (.acceptance f ack)) :
    s.liu.state = .receiving ∨ s.liu.state = .sending ∧ (ack = true ∨ s.presentPeers = 0) := by
  obtain ⟨k, -, at_k⟩ := rowFor_some brought
  obtain ⟨f, state, own⟩ | ⟨state, received⟩ | ⟨state, error⟩ | other := rowAt_some at_k
  · obtain ⟨-, other⟩ | ⟨_, -, other⟩ | ⟨_, _, accepted, same⟩ := row_some own
    · cases other
    · cases other
    · cases same
      exact .inr ⟨state, senderEnd_accepted accepted⟩
  · exact .inl state
  · cases error
  · simp at other

/-! ## Counts of bits -/

theorem rowFor_spacing {s : State} (state : s.liu.state = .spacing) (sampled : List Bool) :
    s.rowFor sampled =
      if false ∈ sampled.take 3 then some (.errorDetected .form (sampled.takeWhile id ++ [false]))
      else if 3 ≤ sampled.length then some .interframeSpaceEnd else none := by
  have empty : s.rowAt [] = none := rowAt_spacing state []
  have one : s.rowAt [true] = none := rowAt_spacing state [true]
  have two : s.rowAt [true, true] = none := rowAt_spacing state [true, true]
  match sampled with
  | [] => exact rowFor_none.mpr fun k _ => by simpa using empty
  | false :: rest =>
    rw [if_pos (by simp)]
    refine rowFor_of_first 1 (by simp) (rowAt_spacing state [false]) fun j few => ?_
    obtain rfl : j = 0 := by omega
    exact empty
  | [true] =>
    refine rowFor_none.mpr fun k few => ?_
    match k with
    | 0 => exact empty
    | k + 1 => simpa using one
  | true :: false :: rest =>
    rw [if_pos (by simp)]
    refine rowFor_of_first 2 (by simp) (rowAt_spacing state [true, false]) fun j few => ?_
    match j with
    | 0 => exact empty
    | 1 => exact one
  | [true, true] =>
    refine rowFor_none.mpr fun k few => ?_
    match k with
    | 0 => exact empty
    | 1 => exact one
    | k + 2 => simpa using two
  | true :: true :: b :: rest =>
    have first : ∀ j < 3, s.rowAt ((true :: true :: b :: rest).take j) = none := fun j few => by
      match j with
      | 0 => exact empty
      | 1 => exact one
      | 2 => exact two
    cases b with
    | false =>
      rw [if_pos (by simp)]
      exact rowFor_of_first 3 (by simp) (rowAt_spacing state [true, true, false]) first
    | true =>
      rw [if_neg (by simp), if_pos (by simp)]
      exact rowFor_of_first 3 (by simp) (rowAt_spacing state [true, true, true]) first

theorem rowFor_flagging {s : State} {dominant : Bool} {role : Role} (state : s.liu.state = .flagging dominant role)
    (sampled : List Bool) : s.rowFor sampled = if 8 ≤ sampled.length then some .errorFlagEnd else none := by
  split
  case isTrue long =>
    refine rowFor_of_first 8 long ?_ fun j few => ?_
    · rw [rowAt_flagging state, if_pos (by rw [List.length_take]; omega)]
    · rw [rowAt_flagging state, if_neg (by rw [List.length_take]; omega)]
  case isFalse short =>
    refine rowFor_none.mpr fun k few => ?_
    rw [rowAt_flagging state, if_neg (by rw [List.length_take]; omega)]

/-- The recessive and the dominant bits in succession at the end of bits sampled. -/
def countsAfter (recessive dominant : Nat) : List Bool → Nat × Nat
  | [] => (recessive, dominant)
  | true :: rest => countsAfter (recessive + 1) 0 rest
  | false :: rest => countsAfter 0 (dominant + 1) rest

theorem countsAfter_last (recessive dominant : Nat) (bits : List Bool) (last : Bool) :
    (last = false → (countsAfter recessive dominant (bits ++ [last])).1 = 0)
      ∧ (last = true → (countsAfter recessive dominant (bits ++ [last])).2 = 0) := by
  induction bits generalizing recessive dominant with
  | nil => cases last <;> simp [countsAfter]
  | cons b rest ih => cases b <;> exact ih _ _

theorem countsAfter_other {bits : List Bool} :
    (bits.getLast? ≠ some true → (countsAfter 0 0 bits).1 = 0)
      ∧ (bits.getLast? ≠ some false → (countsAfter 0 0 bits).2 = 0) := by
  induction bits using List.reverseRecOn with
  | nil => exact ⟨fun _ => rfl, fun _ => rfl⟩
  | append_singleton front last _ =>
    rw [List.getLast?_concat]
    exact ⟨fun other => (countsAfter_last 0 0 front last).1 (by simpa using other),
      fun other => (countsAfter_last 0 0 front last).2 (by simpa using other)⟩

/-- A delimiter's bits that bring no row are counted on from, whatever rows they would bring. -/
theorem delimiterRow_append {delimiterEnd stuckLine : Instr} (delimiterEnd' stuckLine' : Instr) {recessive dominant : Nat}
    {bits : List Bool} (nothing : delimiterRow delimiterEnd stuckLine recessive dominant bits = none) (more : List Bool) :
    delimiterRow delimiterEnd' stuckLine' recessive dominant (bits ++ more) =
      delimiterRow delimiterEnd' stuckLine' (countsAfter recessive dominant bits).1
        (countsAfter recessive dominant bits).2 more := by
  induction bits generalizing recessive dominant with
  | nil => rfl
  | cons b rest ih =>
    rw [List.cons_append]
    cases b <;>
    · rw [delimiterRow] at nothing
      split at nothing
      · simp at nothing
      · rename_i few
        rw [delimiterRow, if_neg few]
        exact ih nothing

theorem quietRow_append {wanted count dominant : Nat} {row : Instr} {bits : List Bool}
    (nothing : quietRow wanted row count bits = none) (more : List Bool) :
    quietRow wanted row count (bits ++ more) = quietRow wanted row (countsAfter count dominant bits).1 more := by
  induction bits generalizing count dominant with
  | nil => rfl
  | cons b rest ih =>
    rw [List.cons_append]
    cases b with
    | false => exact ih nothing
    | true =>
      rw [quietRow] at nothing
      split at nothing
      · simp at nothing
      · rename_i few
        rw [quietRow, if_neg few]
        exact ih nothing

/-- A run of one level brings its row at its last bit and none before. -/
theorem quietRow_replicate {wanted count n : Nat} (row : Instr) (few : count < wanted) :
    (count + n < wanted → quietRow wanted row count (List.replicate n true) = none)
      ∧ (count + n = wanted → quietRow wanted row count (List.replicate n true) = some row) := by
  induction n generalizing count with
  | zero => exact ⟨fun _ => rfl, fun all => by omega⟩
  | succ n ih =>
    rw [List.replicate_succ, quietRow]
    by_cases last : count + 1 = wanted
    · rw [if_pos last]
      exact ⟨fun less => by omega, fun _ => rfl⟩
    · rw [if_neg last]
      have later := ih (count := count + 1) (by omega)
      exact ⟨fun less => later.1 (by omega), fun all => later.2 (by omega)⟩

theorem delimiterRow_recessive {recessive dominant n : Nat} (delimiterEnd stuckLine : Instr) (few : recessive < 8) :
    (recessive + n < 8 → delimiterRow delimiterEnd stuckLine recessive dominant (List.replicate n true) = none)
      ∧ (recessive + n = 8 →
        delimiterRow delimiterEnd stuckLine recessive dominant (List.replicate n true) = some delimiterEnd) := by
  induction n generalizing recessive dominant with
  | zero => exact ⟨fun _ => rfl, fun all => by omega⟩
  | succ n ih =>
    rw [List.replicate_succ, delimiterRow]
    by_cases last : recessive + 1 = 8
    · rw [if_pos last]
      exact ⟨fun less => by omega, fun _ => rfl⟩
    · rw [if_neg last]
      have later := ih (recessive := recessive + 1) (dominant := 0) (by omega)
      exact ⟨fun less => later.1 (by omega), fun all => later.2 (by omega)⟩

theorem delimiterRow_dominant {recessive dominant n : Nat} (delimiterEnd stuckLine : Instr) (few : dominant < 16) :
    (dominant + n < 16 → delimiterRow delimiterEnd stuckLine recessive dominant (List.replicate n false) = none)
      ∧ (dominant + n = 16 →
        delimiterRow delimiterEnd stuckLine recessive dominant (List.replicate n false) = some stuckLine) := by
  induction n generalizing recessive dominant with
  | zero => exact ⟨fun _ => rfl, fun all => by omega⟩
  | succ n ih =>
    rw [List.replicate_succ, delimiterRow]
    by_cases last : dominant + 1 = 16
    · rw [if_pos last]
      exact ⟨fun less => by omega, fun _ => rfl⟩
    · rw [if_neg last]
      have later := ih (dominant := dominant + 1) (recessive := 0) (by omega)
      exact ⟨fun less => later.1 (by omega), fun all => later.2 (by omega)⟩

/-- A row that n further bits of one level bring, and fewer do not, behind bits that bring none. -/
theorem rowFor_replicate {s : State} {before : List Bool} {level : Bool} {n : Nat} {row : Instr} (behind : List Bool)
    (nothing : s.rowFor before = none) (fewer : ∀ j < n, s.rowAt (before ++ List.replicate j level) = none)
    (all : s.rowAt (before ++ List.replicate n level) = some row) :
    s.rowFor (before ++ List.replicate n level ++ behind) = some row := by
  have whole : (before ++ List.replicate n level ++ behind).take (before.length + n) = before ++ List.replicate n level :=
    List.take_left' (by simp)
  refine rowFor_of_first (before.length + n) (by simp) (by rwa [whole]) fun j less => ?_
  by_cases inside : j ≤ before.length
  · rw [List.append_assoc, List.take_append_of_le_length inside]
    exact rowFor_none.mp nothing j inside
  · obtain ⟨i, rfl⟩ : ∃ i, j = before.length + i := ⟨j - before.length, by omega⟩
    have some_of : (before ++ List.replicate n level ++ behind).take (before.length + i) =
        before ++ List.replicate i level := by
      rw [List.append_assoc, List.take_length_add_append, List.take_append_of_le_length (by simp; omega),
        List.take_replicate, min_eq_left (by omega)]
    rw [some_of]
    exact fewer i (by omega)

theorem rowForBitsIsTaken : Claims.RowForBitsIsTaken := by
  intro sampled s
  refine ⟨fun kind bits => rowFor_error, rowFor_lost, fun f ack => rowFor_acceptance, fun state =>
    rowFor_spacing state sampled, fun dominant role state => rowFor_flagging state sampled, fun before behind none => ?_⟩
  have nothing : s.rowFor before = .none := by simpa using none before.length le_rfl
  have here : s.rowAt before = .none := by simpa using rowFor_none.mp nothing before.length le_rfl
  intro after
  refine ⟨fun last => ⟨fun role state => ?_, fun state => ?_, fun state holds => ?_⟩, fun last role state => ?_⟩
  · rw [rowAt_delimiting state] at here
    have count := countsAfter_other.1 last
    refine rowFor_replicate behind nothing (fun j few => ?_) ?_
    · rw [rowAt_delimiting state, delimiterRow_append _ _ here, count]
      exact (delimiterRow_recessive _ _ (by decide)).1 (by omega)
    · rw [rowAt_delimiting state, delimiterRow_append _ _ here, count]
      exact (delimiterRow_recessive _ _ (by decide)).2 rfl
  · rw [rowAt_integrating state] at here
    have count := countsAfter_other.1 last
    refine rowFor_replicate behind nothing (fun j few => ?_) ?_
    · rw [rowAt_integrating state, quietRow_append (dominant := 0) here, count]
      exact (quietRow_replicate _ (by decide)).1 (by omega)
    · rw [rowAt_integrating state, quietRow_append (dominant := 0) here, count]
      exact (quietRow_replicate _ (by decide)).2 rfl
  · rw [rowAt_idle state, if_pos holds] at here
    have count := countsAfter_other.1 last
    refine rowFor_replicate behind nothing (fun j few => ?_) ?_
    · rw [rowAt_idle state, if_pos holds, quietRow_append (dominant := 0) here, count]
      exact (quietRow_replicate _ (by decide)).1 (by omega)
    · rw [rowAt_idle state, if_pos holds, quietRow_append (dominant := 0) here, count]
      exact (quietRow_replicate _ (by decide)).2 rfl
  · rw [rowAt_delimiting state] at here
    have count := countsAfter_other.2 last
    refine rowFor_replicate behind nothing (fun j few => ?_) ?_
    · rw [rowAt_delimiting state, delimiterRow_append _ _ here, count]
      exact (delimiterRow_dominant _ _ (by decide)).1 (by omega)
    · rw [rowAt_delimiting state, delimiterRow_append _ _ here, count]
      exact (delimiterRow_dominant _ _ (by decide)).2 rfl

/-- Settles O52: arbitration, the bits of a frame by their fields, and the first row that bits bring. -/
theorem arbitrationAndErrorsFromBits : Obligations.ArbitrationAndErrorsFromBits :=
  ⟨lowerFieldWins, sentBitsChecked, fieldsOfWire, rowForBitsIsTaken⟩

end Sys2Proof.Machine
end

section
/-! SUPPORT. Which blocks post notices in an event, and how an attempt of this station ends in an error or in acceptance (O34). -/

namespace Sys2Proof.Machine

/-! ## Who posts -/

/-- From s to t only these blocks post, so that another block's notices stand as they stood wherever none was lost. -/
def OnlyPosts (ps : List Poster) (s t : State) : Prop :=
  s.lpu.notices.length ≤ t.lpu.notices.length
    ∧ ∀ kinds : NoticeBody → Bool, (∃ p ∉ ps, ∀ b, kinds b = true → b.poster = p) → Claims.posts kinds s t []

section OnlyPosts

variable {ps : List Poster} {s t u : State}

theorem OnlyPosts.of_notices (same : t.lpu.notices = s.lpu.notices) : OnlyPosts ps s t :=
  ⟨by rw [same], fun kinds _ _ => by rw [same, List.append_nil]⟩

theorem OnlyPosts.refl (ps : List Poster) (s : State) : OnlyPosts ps s s := .of_notices rfl

theorem Touches.onlyPosts {bs : List Part} (h : Touches bs s t) (apart : .notices ∉ bs) : OnlyPosts ps s t :=
  .of_notices (h.notices apart).1

theorem OnlyPosts.trans (h : OnlyPosts ps s t) (k : OnlyPosts ps t u) : OnlyPosts ps s u := by
  refine ⟨h.1.trans k.1, fun kinds others room => ?_⟩
  rw [k.2 kinds others room, h.2 kinds others (k.1.trans_lt room), List.append_nil, List.append_nil]

theorem OnlyPosts.mono {qs : List Poster} (h : OnlyPosts ps s t) (more : ∀ p ∈ ps, p ∈ qs) : OnlyPosts qs s t :=
  ⟨h.1, fun kinds ⟨p, out, own⟩ => h.2 kinds ⟨p, fun m => out (more p m), own⟩⟩

theorem OnlyPosts.foldl {α : Type} {f : State → α → State} (each : ∀ s a, OnlyPosts ps s (f s a)) (l : List α) (s : State) :
    OnlyPosts ps s (l.foldl f s) := by
  induction l generalizing s with
  | nil => exact .refl ps s
  | cons a rest ih => exact (each s a).trans (ih _)

/-- A posted notice: no fewer wait, and where none has been lost there was room. -/
theorem post_length (body : NoticeBody) (s : State) :
    s.lpu.notices.length ≤ (s.post body).lpu.notices.length
      ∧ ((s.post body).lpu.notices.length < 32 → s.lpu.notices.length < 32) := by
  by_cases room : s.lpu.notices.length < 32
  · obtain ⟨front, back, split, -, eq⟩ := post_of_room body room
    refine ⟨?_, fun _ => room⟩
    rw [eq, split]
    simp
  · have same := (post_of_full body (Nat.not_lt.mp room)).1
    rw [same]
    exact ⟨le_rfl, id⟩

/-- Posting, for the notices of kinds of one block (R155). -/
theorem post_posts {kinds : NoticeBody → Bool} {p : Poster} (own : ∀ b, kinds b = true → b.poster = p)
    (body : NoticeBody) (s : State) :
    Claims.posts kinds s (s.post body) (if kinds body then [{ posted := s.micros, body := body }] else []) := fun room =>
  filter_post own body ((post_length body s).2 room)

theorem post_onlyPosts {body : NoticeBody} (poster : body.poster ∈ ps) : OnlyPosts ps s (s.post body) := by
  refine ⟨(post_length body s).1, fun kinds ⟨p, out, own⟩ => ?_⟩
  have posted := post_posts own body s
  rwa [if_neg fun k => out (own body k ▸ poster)] at posted

theorem postIf_onlyPosts {body : NoticeBody} (cond : Bool) (poster : body.poster ∈ ps) :
    OnlyPosts ps s (s.postIf cond body) := by
  cases cond with
  | false => exact .refl ps s
  | true => exact post_onlyPosts poster

end OnlyPosts

/-- The notices of an event whose parts post them one after the other. -/
theorem posts_trans {kinds : NoticeBody → Bool} {s t u : State} {first second : List Notice}
    (more : t.lpu.notices.length ≤ u.lpu.notices.length) (h : Claims.posts kinds s t first)
    (k : Claims.posts kinds t u second) : Claims.posts kinds s u (first ++ second) := fun room => by
  rw [k room, h (more.trans_lt room), List.append_assoc]

/-- Behind them others may post. -/
theorem posts_of_onlyPosts {kinds : NoticeBody → Bool} {ps : List Poster} {p : Poster} {s t u : State}
    {notices : List Notice} (own : ∀ b, kinds b = true → b.poster = p) (h : Claims.posts kinds s t notices)
    (k : OnlyPosts ps t u) (out : p ∉ ps := by decide) : Claims.posts kinds s u notices := by
  have behind := posts_trans k.1 h (k.2 kinds ⟨p, out, own⟩)
  rwa [List.append_nil] at behind

theorem onlyPosts_posts {kinds : NoticeBody → Bool} {ps : List Poster} {p : Poster} {s t u : State}
    {notices : List Notice} (own : ∀ b, kinds b = true → b.poster = p) (k : OnlyPosts ps s t)
    (more : t.lpu.notices.length ≤ u.lpu.notices.length) (h : Claims.posts kinds t u notices)
    (out : p ∉ ps := by decide) : Claims.posts kinds s u notices :=
  posts_trans more (k.2 kinds ⟨p, out, own⟩) h

theorem isCompletion_poster (b : NoticeBody) (kind : Claims.isCompletion b = true) : b.poster = .sq := by
  cases b with
  | sendQueue => rfl
  | _ => cases kind

theorem isFaultState_poster (b : NoticeBody) (kind : Claims.isFaultState b = true) : b.poster = .fcu := by
  cases b with
  | faultState => rfl
  | _ => cases kind

/-! ## The schedule posts as the CSU alone -/

/-- A notice of an entry is the CSU's. -/
theorem notice_onlyPosts (kind : ScheduleNotice) (n : Nat) (e : Entry) (s : State) :
    OnlyPosts [.csu] s (s.post (e.notice kind n)) := post_onlyPosts (List.mem_singleton.mpr rfl)

theorem noticeIf_onlyPosts (cond : Bool) (kind : ScheduleNotice) (n : Nat) (e : Entry) (s : State) :
    OnlyPosts [.csu] s (s.postIf cond (e.notice kind n)) := postIf_onlyPosts cond (List.mem_singleton.mpr rfl)

theorem fire_onlyPosts (late : Bool) (e : Entry) (s : State) : OnlyPosts [.csu] s (s.fire late e).1 := by
  have handed := (handOver_touches e s).onlyPosts (ps := [.csu]) (by decide)
  unfold State.fire
  dsimp only
  split
  · exact handed.trans (notice_onlyPosts _ _ _ _)
  · exact handed

theorem postMissed_onlyPosts (e : Entry) (n : Nat) (s : State) : OnlyPosts [.csu] s (s.postMissed e n) :=
  noticeIf_onlyPosts _ _ _ _ _

theorem lateOccurrence_onlyPosts (e : Entry) (n : Nat) (s : State) : OnlyPosts [.csu] s (s.lateOccurrence e n).1 := by
  unfold State.lateOccurrence
  dsimp only
  split
  · exact (fire_onlyPosts true e s).trans (postMissed_onlyPosts _ _ _)
  · exact postMissed_onlyPosts _ _ _

theorem insert_onlyPosts (e : Entry) (s : State) : OnlyPosts [.csu] s (s.insert e) := .of_notices rfl

theorem place_onlyPosts (e : Entry) (s : State) : OnlyPosts [.csu] s (s.place e) := by
  unfold State.place
  split
  · exact insert_onlyPosts _ _
  · exact ((setSchedule_touches _ s).onlyPosts (by decide)).trans
      ((notice_onlyPosts _ _ _ _).trans (insert_onlyPosts _ _))
  · exact notice_onlyPosts _ _ _ _

theorem revise_onlyPosts (old e : Entry) (s : State) : OnlyPosts [.csu] s (s.revise old e) := by
  unfold State.revise
  split
  · exact .refl _ _
  · exact (((removeKey_touches _ s).onlyPosts (by decide)).trans (insert_onlyPosts _ _)).trans (noticeIf_onlyPosts _ _ _ _ _)

theorem arrivePast_onlyPosts (e : Entry) (s : State) : OnlyPosts [.csu] s (s.arrivePast e) := by
  have superseded : OnlyPosts [.csu] s
      (match s.entryFor e.key with
      | some old => (s.removeKey e.key).postIf (old.notify || e.notify) (e.notice .revised 0)
      | none => s) := by
    split
    · exact ((removeKey_touches _ s).onlyPosts (by decide)).trans (noticeIf_onlyPosts _ _ _ _ _)
    · exact .refl _ _
  unfold State.arrivePast
  dsimp only
  have done := superseded.trans (lateOccurrence_onlyPosts e (distance s.micros e.due) _)
  split
  · exact done.trans (place_onlyPosts _ _)
  · exact done

theorem decideArrival_onlyPosts (e : Entry) (s : State) : OnlyPosts [.csu] s (s.decideArrival e) := by
  unfold State.decideArrival
  split
  · exact notice_onlyPosts _ _ _ _
  · exact arrivePast_onlyPosts e s
  · split
    · exact revise_onlyPosts _ _ _
    · exact place_onlyPosts _ _

theorem takeReached_onlyPosts (s : State) (e : Entry) : OnlyPosts [.csu] s (s.takeReached e) := by
  have done := lateOccurrence_onlyPosts e (distance s.micros e.due) s
  unfold State.takeReached
  dsimp only
  split
  · exact done.trans (insert_onlyPosts _ _)
  · exact done

theorem takeWord_onlyPosts (s : State) : OnlyPosts [.csu] s s.takeWord := by
  unfold State.takeWord
  split
  · exact .refl _ _
  · unfold State.forwardSchedule
    exact (((setWord_touches none s).onlyPosts (by decide)).trans ((setSchedule_touches _ _).onlyPosts (by decide))).trans
      (.foldl takeReached_onlyPosts _ _)
  · unfold State.backwardSchedule
    exact (((setWord_touches none s).onlyPosts (by decide)).trans ((setSchedule_touches _ _).onlyPosts (by decide))).trans
      (.foldl (fun s e => notice_onlyPosts _ _ e s) _ _)

theorem meetWord_onlyPosts (s : State) : OnlyPosts [.csu] s s.meetWord := by
  unfold State.meetWord
  split
  · exact .refl _ _
  · have drawn := (drawn_touches s).onlyPosts (ps := [.csu]) (by decide)
    split
    · exact drawn.trans (takeWord_onlyPosts _)
    · exact drawn

theorem arrive_onlyPosts (e : Entry) (s : State) : OnlyPosts [.csu] s (s.arrive e) :=
  (meetWord_onlyPosts s).trans (decideArrival_onlyPosts e _)

theorem recallEntries_onlyPosts (r : Recall) (s : State) : OnlyPosts [.csu] s (s.recallEntries r) := by
  unfold State.recallEntries State.removeNamed
  exact (meetWord_onlyPosts s).trans
    (((setSchedule_touches _ _).onlyPosts (by decide)).trans (.foldl (fun s e => noticeIf_onlyPosts _ _ _ e s) _ _))

/-! ## This station's own frame at its IKU (R87, R93) -/

theorem malformed_onlyPosts (id : StationId) (s : State) : OnlyPosts [.iku, .csu] s (s.malformed id) :=
  ((setIku_touches s _).onlyPosts (by decide)).trans (postIf_onlyPosts _ (List.mem_cons_self ..))

theorem takeCue_onlyPosts (id : StationId) (c : CueContent) (s : State) : OnlyPosts [.iku, .csu] s (s.takeCue id c) := by
  unfold State.takeCue
  split
  · exact (arrive_onlyPosts _ _).mono (by decide)
  · exact .of_notices rfl

/-- An own frame is neither a clash nor heard, and goes on while the station is JOINED. -/
theorem intake_of_own {a : Accepted} {s : State} (own : a.own = true) (joined : s.stc.station = .joined) :
    s.intake a = s.validate a := by
  have noClash : s.isClash a = false := by simp [State.isClash, own]
  have notHeard : s.isHeard a = false := by simp [State.isHeard, own]
  unfold State.intake State.gate
  dsimp only
  rw [noClash, if_neg Bool.false_ne_true, notHeard, if_neg Bool.false_ne_true, joined]

theorem validate_of_some {a : Accepted} {content : Content} (parsed : parseFrame a.frame = some content) (s : State) :
    s.validate a = s.dispatch a content := by
  unfold State.validate
  rw [parsed]

theorem validate_of_none {a : Accepted} (parsed : parseFrame a.frame = none) (s : State) :
    s.validate a = s.malformed a.frame.station := by
  unfold State.validate
  rw [parsed]

theorem dispatch_own_beat {a : Accepted} (own : a.own = true) (stamp : BusTime) (interval : Nat) (sync : SyncState)
    (fresh : Nat) (sequence : Byte) (s : State) : s.dispatch a (.beatContent stamp interval sync fresh sequence) = s :=
  if_pos own

theorem dispatch_own_mark {a : Accepted} (own : a.own = true) (m : MarkContent) (s : State) :
    s.dispatch a (.markContent m) = s := if_pos own

theorem dispatch_recall (a : Accepted) (what : Recall) (s : State) :
    s.dispatch a (.recallContent what) = s.recallEntries what := rfl

theorem dispatch_cue (a : Accepted) (c : CueContent) (s : State) :
    s.dispatch a (.cueContent c) = s.takeCue a.frame.station c := rfl

/-- What a frame of this station's own can do at home: the schedule, and the counts of the IKU. -/
theorem validate_own {a : Accepted} (own : a.own = true) (s : State) :
    Touches [.iku, .csu, .clu, .notices, .posted, .spent, .draws] s (s.validate a)
      ∧ OnlyPosts [.iku, .csu] s (s.validate a) := by
  cases parsed : parseFrame a.frame with
  | none =>
    rw [validate_of_none parsed]
    exact ⟨(malformed_touches _ _).mono (by decide), malformed_onlyPosts _ _⟩
  | some content =>
    rw [validate_of_some parsed]
    cases content with
    | beatContent stamp interval sync fresh sequence =>
      rw [dispatch_own_beat own]
      exact ⟨.refl _ _, .refl _ _⟩
    | recallContent what =>
      rw [dispatch_recall]
      exact ⟨(recallEntries_touches _ _).mono (by decide), (recallEntries_onlyPosts _ _).mono (by decide)⟩
    | markContent m =>
      rw [dispatch_own_mark own]
      exact ⟨.refl _ _, .refl _ _⟩
    | cueContent c =>
      rw [dispatch_cue]
      exact ⟨takeCue_touches _ _ _, takeCue_onlyPosts _ _ _⟩

/-- An own frame of a record is the frame that was built from it (R16). -/
theorem sentFrame_of_slot {a : Attempt} {slot : Fin 16} (place : a.place = .slot slot) (capture : Option Capture) :
    a.sentFrame capture = a.frame := by
  unfold Attempt.sentFrame
  rw [place]

theorem sentFrame_cls (capture : Option Capture) (a : Attempt) : (a.sentFrame capture).cls = a.frame.cls := by
  obtain ⟨place, frame, stamp⟩ := a
  cases place <;> cases stamp <;> cases capture <;> rfl

/-! ## Subscriptions (R94, R95) -/

/-- The first index with a property. -/
theorem find_finRange_some {n : Nat} {p : Fin n → Bool} {i : Fin n} (found : p i = true)
    (first : ∀ j < i, p j = false) : (List.finRange n).find? p = some i := by
  rw [List.find?_eq_some_iff_getElem]
  refine ⟨found, i, by simp, by simp, fun j before => ?_⟩
  rw [List.getElem_finRange, first _ (Fin.lt_def.mpr before)]
  rfl

theorem matchesTopic_iff (x : Subscription) (topic : Topic) : x.matchesTopic topic = true ↔ Claims.subscribes x topic := by
  simp [Subscription.matchesTopic, Claims.subscribes, topicMatches]

theorem hitFor_some {u : IkuState} {topic : Topic} {hit : Fin 16} (found : Claims.subscribes u.subscriptions[hit] topic)
    (first : ∀ i : Fin 16, i < hit → ¬Claims.subscribes u.subscriptions[i] topic) : u.hitFor topic = some hit :=
  find_finRange_some ((matchesTopic_iff _ _).mpr found) fun i before => by
    rw [← Bool.not_eq_true, matchesTopic_iff]
    exact first i before

theorem hitFor_none {u : IkuState} {topic : Topic} (none : ∀ i : Fin 16, ¬Claims.subscribes u.subscriptions[i] topic) :
    u.hitFor topic = .none :=
  List.find?_eq_none.mpr fun i _ => by
    rw [matchesTopic_iff]
    exact none i

/-- A CUE at the subscription table, as the statements have it. -/
theorem takeCue_cueTaken (origin : StationId) (c : CueContent) (s : State) : Claims.cueTaken origin c s (s.takeCue origin c) := by
  refine ⟨fun none => ?_, fun hit found first => ?_⟩
  · unfold State.takeCue
    rw [hitFor_none none]
    rfl
  · unfold State.takeCue
    rw [hitFor_some found first]
    rfl

/-! ## Reports -/

section Reports

variable (role : Role) (bits : List Bool) (s : State)

@[simp] theorem errorReported_fcu : (Claims.errorReported role bits s).fcu = Claims.fcuAfterError role bits s := by
  unfold Claims.errorReported
  dsimp only
  split <;> simp

@[simp] theorem acceptanceReported_fcu : (Claims.acceptanceReported s).fcu = Claims.fcuAfterAcceptance s := by
  unfold Claims.acceptanceReported
  dsimp only
  split <;> simp

theorem errorReported_touches :
    Touches [.fcu, .holdOff, .notices, .posted] s (Claims.errorReported role bits s) :=
  reportError_eq role bits s ▸ reportError_touches role bits s

theorem acceptanceReported_touches (ok : s.FaultOk) :
    Touches [.fcu, .holdOff, .notices, .posted] s (Claims.acceptanceReported s) :=
  reportAcceptance_eq ok ▸ reportAcceptance_touches s

@[simp] theorem errorReported_micros : (Claims.errorReported role bits s).micros = s.micros :=
  congrArg (fun b : BtuState => microsOf b.time) ((errorReported_touches role bits s).btu (by decide))

/-- A report posts FAULT_STATE where the fault state changes (R22). -/
theorem faultReported_posts (f : FcuState) :
    Claims.posts Claims.isFaultState s
        (if f.state = s.fcu.state then s.setFcu f
        else ((s.setFcu f).setLiu { s.liu with holdOff := false }).post (.faultState s.fcu.state f.state))
        (if f.state = s.fcu.state then [] else Claims.noticesAt s.micros [.faultState s.fcu.state f.state])
      ∧ OnlyPosts [.fcu] s
        (if f.state = s.fcu.state then s.setFcu f
        else ((s.setFcu f).setLiu { s.liu with holdOff := false }).post (.faultState s.fcu.state f.state)) := by
  split
  · exact ⟨fun _ => (List.append_nil _).symm, .of_notices rfl⟩
  · exact ⟨post_posts isFaultState_poster (.faultState s.fcu.state f.state)
      ((s.setFcu f).setLiu { s.liu with holdOff := false }),
      OnlyPosts.trans (t := (s.setFcu f).setLiu { s.liu with holdOff := false }) (.of_notices rfl)
        (post_onlyPosts (List.mem_singleton.mpr rfl))⟩

end Reports

/-! ## Errors -/

theorem leave_onlyPosts (r : Record) (how : Completion) (unheard late : Bool) (s : State) :
    OnlyPosts [.sq] s (s.leave r how unheard late) :=
  OnlyPosts.trans ((setSq_touches s _).onlyPosts (by decide)) (post_onlyPosts (List.mem_singleton.mpr rfl))

theorem recordLeft_posts (r : Record) (how : Completion) (unheard late : Bool) (s : State) :
    Claims.posts Claims.isCompletion s (Claims.recordLeft r how unheard late s)
      (Claims.noticesAt s.micros [.sendQueue how r.tag unheard late]) :=
  post_posts isCompletion_poster (.sendQueue how r.tag unheard late) (s.setSq _)

theorem attemptEnded_onlyPosts (how : AttemptEnd) (p : Place) (s : State) : OnlyPosts [.sq] s (s.attemptEnded how p) := by
  have unsent : ∀ usedUp r, OnlyPosts [.sq] s (s.endedUnsent usedUp r) := fun usedUp r => by
    unfold State.endedUnsent
    split
    · exact leave_onlyPosts _ _ _ _ _
    · split
      · exact leave_onlyPosts _ _ _ _ _
      · split
        · exact leave_onlyPosts _ _ _ _ _
        · exact .of_notices rfl
  have left : OnlyPosts [.sq] s s.beatLeft := (beatLeft_touches s).onlyPosts (by decide)
  have beatUnsent : ∀ usedUp b, OnlyPosts [.sq] s (s.beatEndedUnsent usedUp b) := fun usedUp b => by
    unfold State.beatEndedUnsent
    split
    · exact left
    · exact .of_notices rfl
  unfold State.attemptEnded
  split
  · split
    · cases how with
      | sent unheard => exact leave_onlyPosts _ _ _ _ _
      | lost => exact unsent _ _
      | error => exact unsent _ _
    · exact .refl _ _
  · split
    · split
      · cases how with
        | sent unheard => exact left
        | lost => exact beatUnsent _ _
        | error => exact beatUnsent _ _
      · exact .refl _ _
    · exact .refl _ _

/-- The error of an own attempt, as the statements have it (R11, R12, R24, R40). -/
theorem frameError_sender {a : Attempt} {s : State} (sampled : List Bool) (free : s.stc.draining = false)
    (held : s.liu.attempt = some a) :
    s.frameError .sender sampled =
      Claims.attemptFailed s ((Claims.errorReported .sender sampled s).attemptEnded .error a.place) := by
  have reported := errorReported_touches .sender sampled s
  have ended := attemptEnded_touches .error a.place (Claims.errorReported .sender sampled s)
  have still := (reported.attempt_eq (by decide)).trans held
  have btu : ((Claims.errorReported .sender sampled s).attemptEnded .error a.place).btu = s.btu :=
    (ended.btu (by decide)).trans (reported.btu (by decide))
  have liu := ended.liu_eq (by decide)
  rw [State.frameError, if_neg (by simp [free]), reportError_eq, endAttempt_of_attempt .error still, ← liu]
  dsimp only
  rw [Claims.attemptFailed, ← btu, ← signalling_eq]
  rfl

/-- The acceptance of an own frame before its own IKU has it (R14). -/
def State.ownSent (unheard : Bool) (s : State) : State :=
  ((s.reportAcceptance.endAttempt (.sent unheard)).markOwnEnded).afterAcceptance

theorem acceptOwn_eq (a : Attempt) (unheard : Bool) (s : State) :
    s.acceptOwn a unheard =
      (s.ownSent unheard).intake { frame := a.sentFrame s.btu.capture, own := true, capture := s.captureTime } := rfl

/-- There the SQ has the outcome of the attempt, and the LIU spaces without it (R14, R75). -/
theorem ownSent_eq {a : Attempt} {s u : State} (unheard : Bool) (ok : s.FaultOk) (held : s.liu.attempt = some a)
    (ended : (Claims.acceptanceReported s).attemptEnded (.sent unheard) a.place = u) :
    s.ownSent unheard =
      (u.setLiu { u.liu with state := .spacing, attempt := none, ownEnded := true }).setBtu
        { s.btu with capture := none } := by
  subst ended
  have reported := acceptanceReported_touches s ok
  have frame := attemptEnded_touches (.sent unheard) a.place (Claims.acceptanceReported s)
  have still := (reported.attempt_eq (by decide)).trans held
  have btu : ((Claims.acceptanceReported s).attemptEnded (.sent unheard) a.place).btu = s.btu :=
    (frame.btu (by decide)).trans (reported.btu (by decide))
  rw [State.ownSent, reportAcceptance_eq ok, endAttempt_of_attempt _ still, ← frame.liu_eq (by decide), ← btu]
  rfl

/-- Where the record's attempt is the LIU's, the record leaves as SENT (R75). -/
theorem ownSent_of_record {a : Attempt} {r : Record} {s : State} (unheard : Bool) (ok : s.FaultOk)
    (own : (s.sq.records.map fun r => r.tag.slot).Nodup) (attempt : Claims.attemptOf a r s) :
    s.ownSent unheard = Claims.recordSent r unheard s := by
  obtain ⟨held, place, there, inFlight⟩ := attempt
  have reported := acceptanceReported_touches s ok
  have sq := reported.sq (by decide)
  have still : Claims.attemptOf a r (Claims.acceptanceReported s) :=
    ⟨(reported.attempt_eq (by decide)).trans held, place, sq ▸ there, inFlight⟩
  exact ownSent_eq unheard ok held (attemptEnded_of_record (.sent unheard) (sq ▸ own) still)

/-- What of the station stands when its frame has been sent (R14). -/
theorem recordSent_touches (r : Record) (unheard : Bool) {s : State} (ok : s.FaultOk) :
    Touches [.liu, .timing, .stamp, .holdOff, .btu, .fcu, .sq, .notices, .posted] s (Claims.recordSent r unheard s) :=
  (((acceptanceReported_touches s ok).mono (by decide)).trans
    ((leave_touches r .sent unheard r.withdrawPending _).mono (by decide))).trans
    (((setLiu_touches _ _).mono (by decide)).trans ((setBtu_touches _ _).mono (by decide)))

/-- ACCEPTANCE of an own frame that a record sent: what it leaves, and then its own IKU. -/
theorem acceptance_of_record {a : Attempt} {r : Record} {s : State} (f : Frame) {ack : Bool}
    (sending : s.liu.state = .sending) (free : s.stc.draining = false) (joined : s.stc.station = .joined)
    (own : (s.sq.records.map fun r => r.tag.slot).Nodup) (ok : s.FaultOk) (attempt : Claims.attemptOf a r s)
    (heard : ack = true ∨ s.presentPeers = 0) :
    exec (.acceptance f ack) s = .next
      ((Claims.recordSent r (!ack) s).validate { frame := a.frame, own := true, capture := s.captureTime }) := by
  have station := ((recordSent_touches r (!ack) ok).stc (by decide)).1.trans joined
  rw [acceptance_of_sending f sending free attempt.1 heard, acceptOwn_eq, ownSent_of_record _ ok own attempt,
    sentFrame_of_slot attempt.2.1, intake_of_own rfl station]

theorem acceptanceReported_micros {s : State} (ok : s.FaultOk) : (Claims.acceptanceReported s).micros = s.micros :=
  congrArg (fun b : BtuState => microsOf b.time) ((acceptanceReported_touches s ok).btu (by decide))

theorem acceptanceSendsRecord : Claims.AcceptanceSendsRecord := by
  intro f ack a r s sending free joined own ok attempt heard
  obtain ⟨home, posts⟩ := validate_own (a := { frame := a.frame, own := true, capture := s.captureTime }) rfl
    (Claims.recordSent r (!ack) s)
  have reported := acceptanceReported_touches s ok
  have liu := home.liu_eq (by decide)
  have agu := (recordSent_touches r (!ack) ok).agu_eq (by decide)
  obtain ⟨faultPosted, faultOnly⟩ := faultReported_posts s (Claims.fcuAfterAcceptance s)
  have completion := recordLeft_posts r .sent (!ack) r.withdrawPending (Claims.acceptanceReported s)
  rw [acceptanceReported_micros ok] at completion
  have left := leave_onlyPosts r .sent (!ack) r.withdrawPending (Claims.acceptanceReported s)
  have fcu : ((Claims.recordSent r (!ack) s).validate { frame := a.frame, own := true, capture := s.captureTime }).fcu =
      Claims.fcuAfterAcceptance s :=
    (home.fcu (by decide)).trans (by simp [Claims.recordSent, Claims.recordLeft])
  refine ⟨_, acceptance_of_record f sending free joined own ok attempt heard, fcu, ?_, ?_, ?_, ?_, ?_, ?_, ?_, ?_, ?_, ?_, ?_⟩
  · rw [home.sq (by decide)]
    simp [Claims.recordSent, Claims.recordLeft, reported.sq (by decide)]
  · rw [liu]
    rfl
  · rw [liu]
    rfl
  · rw [liu]
    rfl
  · rw [home.btu (by decide)]
    rfl
  · exact posts_of_onlyPosts isCompletion_poster
      (onlyPosts_posts (u := Claims.recordSent r (!ack) s) isCompletion_poster faultOnly left.1 completion) posts
  · rw [fcu]
    exact posts_of_onlyPosts isFaultState_poster
      (posts_of_onlyPosts isFaultState_poster faultPosted (left.trans (.of_notices rfl))) posts
  · exact (home.agu_eq (by decide)).trans agu
  · exact (home.stc_eq (by decide)).trans ((recordSent_touches r (!ack) ok).stc_eq (by decide))
  · exact (home.mku (by decide)).trans ((recordSent_touches r (!ack) ok).mku (by decide))
  · exact (home.pending (by decide)).trans ((recordSent_touches r (!ack) ok).pending (by decide))

theorem acceptanceActsAtHome : Claims.AcceptanceActsAtHome := by
  intro f ack a r s sending free joined own ok attempt heard u
  have taken := acceptance_of_record f sending free joined own ok attempt heard
  refine ⟨fun m parsed => ?_, fun what parsed => ?_, fun c parsed => ?_⟩
  · rw [taken, validate_of_some parsed, dispatch_own_mark rfl]
  · rw [taken, validate_of_some parsed, dispatch_recall]
  · rw [taken, validate_of_some parsed, dispatch_cue]
    exact ⟨_, rfl, takeCue_cueTaken _ _ _⟩

theorem acceptanceSendsBeat : Claims.AcceptanceSendsBeat := by
  intro f ack a b s sending free joined ok held place beat inFlight heard wellFormed cls u
  have reported := acceptanceReported_touches s ok
  have sq := reported.sq (by decide)
  have left : (Claims.acceptanceReported s).attemptEnded (.sent (!ack)) a.place = u := by
    rw [place, attemptEnded_of_beat _ (sq ▸ beat) inFlight]
    exact beatLeft_eq _
  have station : (s.ownSent (!ack)).stc.station = .joined := by
    rw [ownSent_eq (!ack) ok held left]
    exact ((beatLeft_eq _ ▸ beatLeft_touches (Claims.acceptanceReported s)).stc (by decide)).1.trans
      ((reported.stc (by decide)).1.trans joined)
  obtain ⟨content, parsed⟩ := Option.ne_none_iff_exists'.mp wellFormed
  obtain ⟨stamp, interval, sync, fresh, sequence, rfl⟩ :=
    parseFrame_of_beat ((sentFrame_cls s.btu.capture a).trans cls) parsed
  rw [acceptance_of_sending f sending free held heard, acceptOwn_eq, intake_of_own rfl station, validate_of_some parsed,
    dispatch_own_beat rfl, ownSent_eq (!ack) ok held left]

/-! ## Errors (R11, R12) -/

/-- ERROR_DETECTED where this station's own attempt ends in it. -/
theorem errorDetected_of_sender {kind : ErrorKind} {a : Attempt} {s : State} (sampled : List Bool)
    (free : s.stc.draining = false) (held : s.liu.attempt = some a) (error : Claims.errorAsSender kind s) :
    exec (.errorDetected kind sampled) s = .next
      (Claims.attemptFailed s ((Claims.errorReported .sender sampled s).attemptEnded .error a.place)) := by
  have role : s.errorRole kind = some .sender := by
    obtain ⟨idle, rfl⟩ | ⟨sending, rfl | rfl | ⟨rfl, peers⟩⟩ := error
    · simp [State.errorRole, idle, held]
    · simp [State.errorRole, sending]
    · simp [State.errorRole, sending]
    · simp [State.errorRole, sending, peers]
  have other : ¬(s.liu.state = .spacing ∧ kind = .form) := by
    rintro ⟨spacing, rfl⟩
    obtain ⟨idle, -⟩ | ⟨sending, -⟩ := error <;> simp_all
  change Host.Outcome.next _ = _
  rw [if_neg other, role]
  dsimp only
  rw [frameError_sender sampled free held]

theorem errorOutcomeOfRecord : Claims.ErrorOutcomeOfRecord := by
  intro kind sampled a r s free own attempt error u out
  have reported := errorReported_touches .sender sampled s
  have sq : u.sq = s.sq := reported.sq (by decide)
  have now : u.micros = s.micros := errorReported_micros .sender sampled s
  obtain ⟨held, place, there, inFlight⟩ := attempt
  have still : Claims.attemptOf a r u := ⟨(reported.attempt_eq (by decide)).trans held, place, sq ▸ there, inFlight⟩
  rw [errorDetected_of_sender sampled free held error, attemptEnded_of_record .error (sq ▸ own) still, ← now]
  refine ⟨fun withdraw => ?_, fun kept stale => ?_, fun kept fresh last => ?_, fun kept fresh more => ?_⟩
  · exact congrArg (fun t => Host.Outcome.next (out t)) (endedUnsent_of_withdraw _ withdraw)
  · exact congrArg (fun t => Host.Outcome.next (out t)) (endedUnsent_of_stale _ kept stale)
  · have usedUp : decide (32 ≤ r.errors + 1) = true := by simpa using last
    rw [State.recordEnded, usedUp]
    exact congrArg (fun t => Host.Outcome.next (out t)) (endedUnsent_of_failed kept fresh)
  · have usedUp : decide (32 ≤ r.errors + 1) = false := by simpa using more
    rw [State.recordEnded, usedUp]
    exact congrArg (fun t => Host.Outcome.next (out t)) (endedUnsent_of_waits kept fresh)

theorem errorOutcomeOfBeat : Claims.ErrorOutcomeOfBeat := by
  intro kind sampled a b s free held place beat inFlight error u out
  have sq : u.sq = s.sq := (errorReported_touches .sender sampled s).sq (by decide)
  have now : u.micros = s.micros := errorReported_micros .sender sampled s
  rw [errorDetected_of_sender sampled free held error, place, attemptEnded_of_beat .error (sq ▸ beat) inFlight, ← now]
  refine ⟨fun leaves => ?_, fun kept fresh more => ?_⟩
  · refine congrArg (fun t => Host.Outcome.next (out t)) (beatEndedUnsent_of_leaves ?_)
    exact leaves.imp_right (Or.imp_right fun last => by simpa using last)
  · have usedUp : decide (32 ≤ b.errors + 1) = false := by simpa using more
    rw [State.beatEnded, usedUp]
    exact congrArg (fun t => Host.Outcome.next (out t)) (beatEndedUnsent_of_waits kept fresh)

theorem drainedErrorIsNotReported : Claims.DrainedErrorIsNotReported := by
  intro kind sampled s draining sending detects
  have role : s.errorRole kind = some .sender := by
    obtain rfl | rfl := detects <;> simp [State.errorRole, sending]
  change Host.Outcome.next _ = _
  rw [if_neg (by simp [sending]), role]
  dsimp only
  rw [State.frameError, if_pos draining, ← signalling_eq]
  rfl

/-- The end of an attempt at the SQ, and the LIU without it. -/
theorem endAttempt_error (s : State) :
    (s.endAttempt .error).liu.attempt = none
      ∧ Touches [.liu, .timing, .stamp, .holdOff, .sq, .pendingBeat, .notices, .posted] s (s.endAttempt .error)
      ∧ OnlyPosts [.sq] s (s.endAttempt .error) := by
  cases held : s.liu.attempt with
  | none =>
    rw [endAttempt_of_none .error held]
    exact ⟨held, .refl _ _, .refl _ _⟩
  | some a =>
    rw [endAttempt_of_attempt .error held]
    exact ⟨rfl, ((attemptEnded_touches _ _ _).mono (by decide)).trans ((setLiu_touches _ _).mono (by decide)),
      (attemptEnded_onlyPosts _ _ _).trans (.of_notices rfl)⟩

/-- An error in a frame not drained: the reports, the capture gone, and the flag (R11, R12). -/
theorem frameError_eq {role : Role} {s w : State} (sampled : List Bool) (free : s.stc.draining = false)
    (ended : (Claims.errorReported role sampled s).endAttempt .error = w) :
    ∃ own, s.frameError role sampled =
      (w.setBtu { w.btu with capture := none }).setLiu
        { w.liu with state := Claims.signalling w.fcu.state role, ownEnded := own } := by
  subst ended
  rw [State.frameError, if_neg (by simp [free]), reportError_eq, ← signalling_eq]
  cases role with
  | sender => exact ⟨true, rfl⟩
  | receiver => exact ⟨_, rfl⟩

theorem errorDetectedReportedAndSignalled : Claims.ErrorDetectedReportedAndSignalled := by
  intro kind sampled role s free detects
  have found : s.errorRole kind = some role := by
    obtain ⟨idle, held, rfl, rfl⟩ | ⟨sending, rfl, rfl | rfl | ⟨rfl, peers⟩⟩ | ⟨receiving, rfl, rfl | rfl | rfl⟩ := detects
    · simp [State.errorRole, idle, held]
    · simp [State.errorRole, sending]
    · simp [State.errorRole, sending]
    · simp [State.errorRole, sending, peers]
    · simp [State.errorRole, receiving]
    · simp [State.errorRole, receiving]
    · simp [State.errorRole, receiving]
  have other : ¬(s.liu.state = .spacing ∧ kind = .form) := by
    rintro ⟨spacing, -⟩
    obtain ⟨idle, -⟩ | ⟨sending, -⟩ | ⟨receiving, -⟩ := detects <;> simp_all
  have taken : exec (.errorDetected kind sampled) s = .next (s.frameError role sampled) := by
    change Host.Outcome.next _ = _
    rw [if_neg other, found]
  obtain ⟨ended, touched, only⟩ := endAttempt_error (Claims.errorReported role sampled s)
  generalize after : (Claims.errorReported role sampled s).endAttempt .error = w at ended touched only
  obtain ⟨own, result⟩ := frameError_eq sampled free after
  rw [taken, result]
  have reported := errorReported_touches role sampled s
  have fcu : w.fcu = Claims.fcuAfterError role sampled s := by
    rw [touched.fcu (by decide), errorReported_fcu]
  have btu : w.btu = s.btu := (touched.btu (by decide)).trans (reported.btu (by decide))
  obtain ⟨faultPosted, -⟩ := faultReported_posts s (Claims.fcuAfterError role sampled s)
  refine ⟨_, rfl, fcu, ended, rfl, congrArg (fun b : BtuState => { b with capture := none }) btu, fun none => ?_, ?_, ?_, ?_,
    ?_, ?_, ?_, ?_⟩
  · have still := (reported.attempt_eq (by decide)).trans none
    obtain rfl : Claims.errorReported role sampled s = w := (endAttempt_of_none .error still).symm.trans after
    exact ⟨reported.sq (by decide), reported.agu_eq (by decide)⟩
  · simp only [setLiu_fcu, setBtu_fcu, fcu]
    exact posts_of_onlyPosts isFaultState_poster faultPosted (only.trans (.of_notices rfl))
  · exact (touched.stc_eq (by decide)).trans (reported.stc_eq (by decide))
  · exact (touched.iku (by decide)).trans (reported.iku (by decide))
  · exact (touched.csu (by decide)).trans (reported.csu (by decide))
  · exact (touched.clu (by decide)).trans (reported.clu (by decide))
  · exact (touched.mku (by decide)).trans (reported.mku (by decide))
  · exact (touched.pending (by decide)).trans (reported.pending (by decide))

/-- Settles O34: errors and acceptance, of a record's attempt and of the BEAT's, and what an own frame does at home. -/
theorem errorOrAcceptanceEndsAttempt : Obligations.ErrorOrAcceptanceEndsAttempt :=
  ⟨errorDetectedReportedAndSignalled, errorOutcomeOfRecord, errorOutcomeOfBeat, drainedErrorIsNotReported,
    acceptanceSendsRecord, acceptanceActsAtHome, acceptanceSendsBeat⟩

end Sys2Proof.Machine
end

section
/-! SUPPORT. The recessive tail of a received frame, the dispatch of a frame by class, and the peer table at a heard report and a BEAT sample (O35). -/

namespace Sys2Proof.Machine

/-! ## The recessive tail of a frame (R26) -/

theorem spansIn_append (run : Nat) (front back : List Bool) :
    spansIn run (front ++ back) = spansIn run front + spansIn (runAfter run front) back := by
  induction front generalizing run with
  | nil => simp [spansIn]
  | cons b rest ih => cases b <;> simp [spansIn, ih, Nat.add_assoc]

/-- A run that does not reach 12 is kept as it is. -/
theorem runAfter_of_lt {run : Nat} {bits : List Bool} (short : Claims.runBehind run bits < 12) :
    runAfter run bits = Claims.runBehind run bits := by
  rw [runAfter_eq_runBehind, Nat.mod_eq_of_lt short]
  split
  · simp [*, Claims.runBehind]
  · rfl

/-- In stuffed bits no idle span is completed: a stuff bit ends every run of six (R6). -/
theorem stuffFrom_quiet (region : List Bool) {prev : Bool} {run quiet : Nat} (few : run < 6)
    (level : quiet ≤ if prev then run else 0) :
    spansIn quiet (stuffFrom prev run region) = 0 ∧ Claims.runBehind quiet (stuffFrom prev run region) ≤ 6 := by
  induction region generalizing prev run quiet with
  | nil =>
    have short : quiet ≤ 6 := by split at level <;> omega
    exact ⟨rfl, by simpa [stuffFrom, Claims.runBehind] using short⟩
  | cons b rest ih =>
    have short : quiet < 6 := by split at level <;> omega
    by_cases six : runWith b prev run = 6
    · rw [stuffFrom_sixth six]
      cases b with
      | true =>
        rw [spansIn, runBehind_recessive, if_neg (by omega), Bool.not_true, spansIn, runBehind_dominant, Nat.zero_add]
        exact ih (by decide) (by simp)
      | false =>
        rw [spansIn, runBehind_dominant, Bool.not_false, spansIn, runBehind_recessive, if_neg (by decide), Nat.zero_add]
        exact ih (by decide) (by simp)
    · rw [stuffFrom_other six]
      cases b with
      | true =>
        have longer : quiet + 1 ≤ runWith true prev run := by
          cases prev <;> simp [runWith] at level ⊢ <;> omega
        rw [spansIn, runBehind_recessive, if_neg (by omega), Nat.mod_eq_of_lt (by omega), Nat.zero_add]
        exact ih (runWith_lt few six) (by simpa using longer)
      | false =>
        rw [spansIn, runBehind_dominant]
        exact ih (runWith_lt few six) (Nat.zero_le _)

/-- The region of a frame on the line: its SOF ends the run before it, and no idle span is in it. -/
theorem region_quiet (run : Nat) (f : Frame) :
    spansIn run (stuff (regionBits f)) = 0 ∧ Claims.runBehind run (stuff (regionBits f)) ≤ 6
      ∧ Claims.runBehind run (stuff (regionBits f)) = ((stuff (regionBits f)).reverse.takeWhile id).length := by
  have sof : stuff (regionBits f) = false :: stuffFrom false 1
      (coveredBits f ++ bitsOf 16 (crcOf (coveredBits f)).toNat) := stuffFrom_other (by decide) _
  obtain ⟨none, short⟩ := stuffFrom_quiet (coveredBits f ++ bitsOf 16 (crcOf (coveredBits f)).toNat) (prev := false)
    (run := 1) (quiet := 0) (by decide) (by simp)
  refine ⟨?_, ?_, if_pos ?_⟩
  · rw [sof, spansIn, none]
  · rw [sof, runBehind_dominant]
    exact short
  · rw [sof]
    exact List.mem_cons_self ..

theorem runAfter_region (run : Nat) (f : Frame) :
    runAfter run (stuff (regionBits f)) = ((stuff (regionBits f)).reverse.takeWhile id).length := by
  obtain ⟨-, short, tail⟩ := region_quiet run f
  rw [runAfter_of_lt (by omega), tail]

/-- The bits of an accepted frame leave the run of its last recessive ones, and the spans that these complete. -/
theorem lineBits_quiet (run : Nat) (f : Frame) (ack : Bool) :
    runAfter run (lineBits f ack) = Claims.quietTail f ack % 12 ∧ spansIn run (lineBits f ack) = Claims.quietTail f ack / 12 := by
  obtain ⟨none, short, tail⟩ := region_quiet run f
  have after := runAfter_region run f
  generalize quiet : ((stuff (regionBits f)).reverse.takeWhile id).length = n at tail after
  have few : n ≤ 6 := tail ▸ short
  have split : lineBits f ack = stuff (regionBits f) ++ (true :: (!ack) :: List.replicate 8 true) := rfl
  rw [split, runAfter_append, spansIn_append, none, after]
  cases ack with
  | true =>
    have spans : spansIn n (true :: (!true) :: List.replicate 8 true) = 0 := by
      rw [spansIn, if_neg (by omega), Bool.not_true, spansIn, spansIn_replicate 0 8 (by decide)]
    rw [spans, Claims.quietTail, if_pos rfl, runAfter_recessive, Bool.not_true, runAfter_dominant,
      runAfter_replicate 0 8 (by decide)]
    exact ⟨rfl, rfl⟩
  | false =>
    have ten : true :: (!false) :: List.replicate 8 true = List.replicate 10 true := rfl
    have tailLength : Claims.quietTail f false = 10 + n := by
      rw [← quiet]
      rfl
    rw [ten, runAfter_replicate n 10 (by omega), spansIn_replicate n 10 (by omega), tailLength, Nat.zero_add, Nat.add_comm]
    exact ⟨rfl, rfl⟩

/-- What the FCU makes of the bits of an accepted frame, as the statements have it. -/
theorem sampled_lineBits (f : Frame) (ack : Bool) (s : State) :
    s.sampled (lineBits f ack) = s.setFcu (Claims.runSince (Claims.quietTail f ack) s) := by
  obtain ⟨run, spans⟩ := lineBits_quiet s.fcu.run f ack
  unfold State.sampled Claims.runSince
  rw [run, spans]
  split <;> rfl

/-! ## Reception, as the statements have it -/

theorem runSince_faultOk {s : State} (n : Nat) (ok : s.FaultOk) : (s.setFcu (Claims.runSince n s)).FaultOk := by
  obtain ⟨fits, spans, run, held, free, full⟩ := ok
  unfold Claims.runSince
  split
  · rename_i silenced
    exact ⟨fits, spans, Nat.mod_lt _ (by decide), held, fun other => absurd silenced other, full⟩
  · exact ⟨fits, spans, run, held, free, full⟩

theorem receptionReported_eq {f : Frame} {ack : Bool} {s : State} (ok : s.FaultOk) :
    ((s.sampled (lineBits f ack)).reportAcceptance).afterAcceptance = Claims.receptionReported f ack s := by
  have kept := runSince_faultOk (Claims.quietTail f ack) ok
  have btu := (acceptanceReported_touches _ kept).btu (by decide)
  rw [setFcu_btu] at btu
  rw [sampled_lineBits, reportAcceptance_eq kept, Claims.receptionReported, ← btu]
  rfl

theorem receptionReported_touches (f : Frame) (ack : Bool) {s : State} (ok : s.FaultOk) :
    Touches [.liu, .timing, .stamp, .holdOff, .btu, .fcu, .notices, .posted] s (Claims.receptionReported f ack s) :=
  (((setFcu_touches _ _).mono (by decide)).trans
    ((acceptanceReported_touches _ (runSince_faultOk (Claims.quietTail f ack) ok)).mono (by decide))).trans
    (((setBtu_touches _ _).mono (by decide)).trans ((setLiu_touches _ _).mono (by decide)))

theorem idClash_eq (s : State) : s.idClash = Claims.clashReported s := by
  unfold State.idClash Claims.clashReported
  dsimp only
  split
  · rfl
  · rename_i other
    rw [changeFault_setFcu, if_neg (by simpa using other)]
    simp

theorem malformed_eq (f : Frame) (s : State) : s.malformed f.station = Claims.malformedCounted f s := by
  unfold State.malformed Claims.malformedCounted
  dsimp only
  cases s.iku.noticed <;> rfl

/-- A frame of another station before its gate: a clash, or a heard report (R87). -/
theorem acceptReceived_eq {f : Frame} {ack : Bool} {s : State} (ok : s.FaultOk) (online : s.stc.station ≠ .offline) :
    s.acceptReceived f ack =
      (Claims.received f ack s).gate { frame := f, own := false, capture := s.captureTime } := by
  have reported := receptionReported_touches f ack ok
  obtain ⟨station, -, config⟩ := reported.stc (by decide)
  rw [State.acceptReceived, receptionReported_eq ok, State.intake, Claims.received]
  dsimp only
  generalize Claims.receptionReported f ack s = u at station config
  by_cases same : f.station = s.stc.config.id
  · have clash : u.isClash { frame := f, own := false, capture := s.captureTime } = true := by
      simp [State.isClash, station, config, same, online]
    obtain ⟨-, -, still⟩ := (idClash_touches u).stc (by decide)
    have notHeard : u.idClash.isHeard { frame := f, own := false, capture := s.captureTime } = false := by
      simp [State.isHeard, still, config, same]
    rw [if_pos clash, if_pos same, notHeard, if_neg Bool.false_ne_true, idClash_eq]
  · have noClash : u.isClash { frame := f, own := false, capture := s.captureTime } = false := by
      simp [State.isClash, config, same]
    have heard : u.isHeard { frame := f, own := false, capture := s.captureTime } = true ↔
        1 ≤ f.station.toNat ∧ f.station.toNat ≤ 126 ∧ (s.stc.station = .joined ∨ f.cls = .beat) := by
      unfold State.isHeard
      rw [station]
      cases state : s.stc.station <;> simp_all [and_assoc]
    rw [noClash, if_neg Bool.false_ne_true, if_neg same]
    congr 1
    by_cases hears : u.isHeard { frame := f, own := false, capture := s.captureTime } = true
    · rw [if_pos hears, if_pos (heard.mp hears)]
    · rw [if_neg hears, if_neg fun other => hears (heard.mpr other)]

/-- The station's state is the same at the gate. -/
theorem received_station {f : Frame} {ack : Bool} {s : State} (ok : s.FaultOk) :
    (Claims.received f ack s).stc.station = s.stc.station := by
  have reported := receptionReported_touches f ack ok
  obtain ⟨station, -, -⟩ := reported.stc (by decide)
  unfold Claims.received
  dsimp only
  split
  · exact (((idClash_eq (Claims.receptionReported f ack s)) ▸ idClash_touches _).stc (by decide)).1.trans station
  · split
    · exact ((heard_touches _ _).stc (by decide)).1.trans station
    · exact station

theorem acceptance_while_joined {f : Frame} {ack : Bool} {s : State} (receiving : s.liu.state = .receiving)
    (joined : s.stc.station = .joined) (ok : s.FaultOk) :
    exec (.acceptance f ack) s = .next
      ((Claims.received f ack s).validate { frame := f, own := false, capture := s.captureTime }) := by
  have station := (received_station (f := f) (ack := ack) ok).trans joined
  rw [acceptance_of_receiving f ack receiving, acceptReceived_eq ok (by simp [joined]), State.gate, station]

theorem acceptance_while_listening {f : Frame} {ack : Bool} {s : State} (receiving : s.liu.state = .receiving)
    (listening : s.stc.station = .listening) (ok : s.FaultOk) :
    exec (.acceptance f ack) s = .next
      (if f.cls = .beat then
        (Claims.received f ack s).validate { frame := f, own := false, capture := s.captureTime }
      else Claims.received f ack s) := by
  have station := (received_station (f := f) (ack := ack) ok).trans listening
  rw [acceptance_of_receiving f ack receiving, acceptReceived_eq ok (by simp [listening]), State.gate, station]

theorem captureTime_of_capture {s : State} {c : Capture} (held : s.btu.capture = some c) : s.captureTime = some c.time := by
  rw [State.captureTime, held]
  rfl

theorem dispatch_beat {a : Accepted} {capture : BusTime} (other : a.own = false) (held : a.capture = some capture)
    (stamp : BusTime) (interval : Nat) (sync : SyncState) (fresh : Nat) (sequence : Byte) (s : State) :
    s.dispatch a (.beatContent stamp interval sync fresh sequence) =
      s.beatSample a.frame.station stamp capture interval sync sequence := by
  unfold State.dispatch
  dsimp only
  rw [other, held]
  rfl

theorem dispatch_mark {a : Accepted} (other : a.own = false) (m : MarkContent) (s : State) :
    s.dispatch a (.markContent m) =
      s.react { source := a.frame.station, input := m.input, edge := m.edge, capture := m.capture } := by
  unfold State.dispatch
  dsimp only
  rw [other]
  rfl

/-- The ids 0 and 127 are no station's (R89). -/
theorem parseFrame_of_no_station {f : Frame} (none : f.station.toNat = 0 ∨ f.station.toNat = 127) : parseFrame f = .none := by
  by_contra parsed
  obtain ⟨c, read⟩ := Option.ne_none_iff_exists'.mp parsed
  obtain ⟨least, most, -⟩ := parseFrame_some read
  omega

theorem acceptanceDispatched : Claims.AcceptanceDispatched := by
  intro f ack s receiving joined ok u
  have taken := acceptance_while_joined (f := f) (ack := ack) receiving joined ok
  refine ⟨fun none => ?_, fun stamp interval sync fresh sequence c parsed held => ?_, fun what parsed => ?_,
    fun m parsed => ?_, fun c parsed => ?_, parseFrame_of_no_station⟩
  · rw [taken, validate_of_none none, malformed_eq]
  · rw [taken, validate_of_some parsed, dispatch_beat rfl (captureTime_of_capture held)]
  · rw [taken, validate_of_some parsed, dispatch_recall]
  · rw [taken, validate_of_some parsed, dispatch_mark rfl]
  · rw [taken, validate_of_some parsed, dispatch_cue]
    exact ⟨_, rfl, takeCue_cueTaken _ _ _⟩

theorem acceptanceWhileListening : Claims.AcceptanceWhileListening := by
  intro f ack s receiving listening ok u
  have taken := acceptance_while_listening (f := f) (ack := ack) receiving listening ok
  refine ⟨fun other => ?_, fun beat none => ?_, fun stamp interval sync fresh sequence c parsed held => ?_⟩
  · rw [taken, if_neg other]
  · rw [taken, if_pos beat, validate_of_none none, malformed_eq]
  · have beat : f.cls = .beat := (parseFrame_some parsed).2.2.1
    rw [taken, if_pos beat, validate_of_some parsed, dispatch_beat rfl (captureTime_of_capture held)]

/-! ## The peer table (R47 to R50) -/

theorem isPeerOf_of_some {s : State} {i : Fin 32} {p : Peer} (held : s.agu.peers[i] = some p) (id : StationId) :
    s.isPeerOf id i = decide (p.station = id) := by
  unfold State.isPeerOf
  rw [held]

theorem isPeerOf_of_none {s : State} {i : Fin 32} (free : s.agu.peers[i] = none) (id : StationId) :
    s.isPeerOf id i = false := by
  unfold State.isPeerOf
  rw [free]

/-- A station's one entry is found. -/
theorem peerIndex_some {s : State} {id : StationId} {i : Fin 32} {p : Peer} (held : s.agu.peers[i] = some p)
    (named : p.station = id) (one : ∀ (j : Fin 32) q, s.agu.peers[j] = some q → q.station = id → j = i) :
    s.peerIndex id = some i := by
  refine find_finRange_some ?_ fun j before => ?_
  · rw [isPeerOf_of_some held]
    exact decide_eq_true named
  · cases other : s.agu.peers[j] with
    | none => exact isPeerOf_of_none other id
    | some q =>
      rw [isPeerOf_of_some other]
      exact decide_eq_false fun same => absurd (one j q other same) before.ne

theorem peerIndex_none {s : State} {id : StationId}
    (none : ∀ (j : Fin 32) q, s.agu.peers[j] = some q → q.station ≠ id) : s.peerIndex id = .none := by
  refine List.find?_eq_none.mpr fun j _ => ?_
  cases other : s.agu.peers[j] with
  | none => simp [isPeerOf_of_none other]
  | some q => simpa [isPeerOf_of_some other] using none j q other

theorem freeIndex_some {s : State} {i : Fin 32} (free : s.agu.peers[i] = none)
    (first : ∀ j : Fin 32, j < i → s.agu.peers[j] ≠ none) : s.freeIndex = some i :=
  find_finRange_some (by rw [free]; rfl) fun j before => by
    obtain ⟨q, held⟩ := Option.ne_none_iff_exists'.mp (first j before)
    rw [held]
    rfl

theorem freeIndex_none {s : State} (full : ∀ j : Fin 32, s.agu.peers[j] ≠ none) : s.freeIndex = none :=
  List.find?_eq_none.mpr fun j _ => by
    obtain ⟨q, held⟩ := Option.ne_none_iff_exists'.mp (full j)
    rw [held]
    exact Bool.false_ne_true

theorem olderSilent_of_silent {s : State} {j : Fin 32} {q : Peer} (held : s.agu.peers[j] = some q)
    (silent : q.presence = .silent) :
    olderSilent s none j = some (j, q)
      ∧ ∀ i p, olderSilent s (some (i, p)) j = if p.rounds < q.rounds then some (j, q) else some (i, p) := by
  unfold olderSilent
  simp [held, silent]

theorem olderSilent_of_other {s : State} {j : Fin 32} (other : ∀ q, s.agu.peers[j] = some q → q.presence ≠ .silent)
    (best : Option (Fin 32 × Peer)) : olderSilent s best j = best := by
  unfold olderSilent
  split
  · exact if_neg (other _ ‹_›)
  · rfl

/-- The SILENT entry with the most rounds, the first of equal ones, is found (R49). -/
theorem oldestSilent_some {s : State} {i : Fin 32} {p : Peer} (held : s.agu.peers[i] = some p)
    (silent : p.presence = .silent)
    (oldest : ∀ (j : Fin 32) q, s.agu.peers[j] = some q → q.presence = .silent →
      q.rounds ≤ p.rounds ∧ (j < i → q.rounds < p.rounds)) : s.oldestSilent = some (i, p) := by
  have before : ∀ (l : List (Fin 32)), (∀ j ∈ l, j < i) → ∀ best : Option (Fin 32 × Peer),
      (∀ x ∈ best, x.2.rounds < p.rounds) → ∀ x ∈ l.foldl (olderSilent s) best, x.2.rounds < p.rounds := by
    intro l
    induction l with
    | nil => exact fun _ best fewer => fewer
    | cons j rest ih =>
      intro early best fewer
      refine ih (fun k m => early k (List.mem_cons_of_mem _ m)) _ ?_
      by_cases other : ∀ q, s.agu.peers[j] = some q → q.presence ≠ .silent
      · rwa [olderSilent_of_other other]
      · obtain ⟨q, there, quiet⟩ : ∃ q, s.agu.peers[j] = some q ∧ q.presence = .silent := by simpa using other
        have less := (oldest j q there quiet).2 (early j (List.mem_cons_self ..))
        cases best with
        | none =>
          rw [(olderSilent_of_silent there quiet).1]
          simpa using less
        | some x =>
          rw [(olderSilent_of_silent there quiet).2 x.1 x.2]
          split
          · simpa using less
          · exact fewer
  have after : ∀ l : List (Fin 32), l.foldl (olderSilent s) (some (i, p)) = some (i, p) := by
    intro l
    induction l with
    | nil => rfl
    | cons j rest ih =>
      have stays : olderSilent s (some (i, p)) j = some (i, p) := by
        by_cases other : ∀ q, s.agu.peers[j] = some q → q.presence ≠ .silent
        · exact olderSilent_of_other other _
        · obtain ⟨q, there, quiet⟩ : ∃ q, s.agu.peers[j] = some q ∧ q.presence = .silent := by simpa using other
          rw [(olderSilent_of_silent there quiet).2, if_neg (Nat.not_lt.mpr (oldest j q there quiet).1)]
      rw [List.foldl_cons, stays, ih]
  have here : ∀ best : Option (Fin 32 × Peer), (∀ x ∈ best, x.2.rounds < p.rounds) →
      olderSilent s best i = some (i, p) := by
    rintro (_ | ⟨k, b⟩) fewer
    · exact (olderSilent_of_silent held silent).1
    · rw [(olderSilent_of_silent held silent).2, if_pos (fewer _ rfl)]
  have split : allIndexes = (List.finRange 32).take i ++ i :: (List.finRange 32).drop (i + 1) := by
    conv_lhs => rw [allIndexes, ← List.take_append_drop i (List.finRange 32)]
    rw [List.drop_eq_getElem_cons (by simp)]
    simp
  have early : ∀ j ∈ (List.finRange 32).take i, j < i := by
    intro j there
    obtain ⟨k, few, rfl⟩ := List.mem_take_iff_getElem.mp there
    rw [List.getElem_finRange]
    exact Fin.lt_def.mpr (lt_of_lt_of_le few (min_le_left _ _))
  rw [State.oldestSilent, split, List.foldl_append, List.foldl_cons, here _ (before _ early none (by simp)), after]

theorem oldestSilent_none {s : State} (present : ∀ (j : Fin 32) q, s.agu.peers[j] = some q → q.presence = .present) :
    s.oldestSilent = none := by
  have stays : ∀ l : List (Fin 32), l.foldl (olderSilent s) none = none := by
    intro l
    induction l with
    | nil => rfl
    | cons j rest ih =>
      rw [List.foldl_cons, olderSilent_of_other fun q held => by simp [present j q held], ih]
  exact stays _

theorem heardReportTaken : Claims.HeardReportTaken := by
  intro id s
  refine ⟨fun i p held named one => ?_, fun none => ⟨fun i free first => ?_, fun full => ⟨fun i p held silent oldest => ?_,
    fun present => ⟨fun noticed => ?_, fun fresh => ?_⟩⟩⟩⟩
  · intro t
    subst named
    unfold State.heard
    rw [peerIndex_some held rfl one]
    dsimp only
    rw [held]
    dsimp only
    unfold State.heardKnown State.postIf
    by_cases silent : p.presence = .silent
    · rw [if_pos silent, if_pos (decide_eq_true silent)]
      rfl
    · rw [if_neg silent, if_neg (by simpa using silent)]
      rfl
  · unfold State.heard
    rw [peerIndex_none none, freeIndex_some free first]
    rfl
  · unfold State.heard State.heardFull
    rw [peerIndex_none none, freeIndex_none full, oldestSilent_some held silent oldest]
    rfl
  · unfold State.heard State.heardFull
    rw [peerIndex_none none, freeIndex_none full, oldestSilent_none present]
    exact if_pos noticed
  · unfold State.heard State.heardFull
    rw [peerIndex_none none, freeIndex_none full, oldestSilent_none present]
    exact if_neg (by simp [fresh])

/-- The signed difference of two full times (R33). -/
theorem signedDifference_eq (stamp capture : BusTime) :
    signedDifference stamp capture =
      let d : Nat := (stamp.toNat + (2 ^ 36 - capture.toNat)) % 2 ^ 36
      if d < 2 ^ 35 then (d : Int) else (d : Int) - 2 ^ 36 := by
  unfold signedDifference
  rw [BitVec.toInt_eq_toNat_cond, BitVec.toNat_sub, Nat.add_comm]
  dsimp only
  split <;> split <;> omega

theorem beatSampleTaken : Claims.BeatSampleTaken := by
  intro id stamp capture interval sync sequence s
  refine ⟨fun i p held named one => ?_, fun none => ?_⟩
  · unfold State.beatSample
    rw [peerIndex_some held named one]
    dsimp only
    rw [held, signedDifference_eq]
    rfl
  · unfold State.beatSample
    rw [peerIndex_none none]

/-- Settles O35: reception before the IKU, dispatch by class and by station state, and the peer table. -/
theorem acceptanceDispatchesByClass : Obligations.AcceptanceDispatchesByClass :=
  ⟨acceptanceDispatched, acceptanceWhileListening, heardReportTaken, beatSampleTaken⟩

end Sys2Proof.Machine
end

section
/-! SUPPORT. Records that leave in one event, the least of those that wait, and the frame built from it (O31). -/

namespace Sys2Proof.Machine

/-! ## Several records leave in one event (R84) -/

/-- The records that some that leave have left behind them. -/
def recordsAfter (gone : List Record) (records : List Record) : List Record :=
  (records.filter fun x => !gone.any fun r => decide (x.tag = r.tag)).map fun x =>
    if gone.any fun r => decide (x.state = .held r.tag) then { x with state := .waiting } else x

/-- The generations of the slots after some records have left. -/
def generationsAfter (gone : List Record) (generations : Vector (BitVec 4) 16) : Vector (BitVec 4) 16 :=
  Vector.ofFn fun j : Fin 16 => generations[j] + if gone.any fun r => decide (r.tag.slot = j) then 1 else 0

theorem recordsAfter_cons (r : Record) (gone records : List Record) :
    recordsAfter gone (recordsWithout r.tag records) = recordsAfter (r :: gone) records := by
  unfold recordsAfter recordsWithout
  have tags : ∀ x : Record, (x.released r.tag).tag = x.tag := fun x => by
    unfold Record.released
    split <;> rfl
  rw [List.filter_map, List.map_map, List.filter_filter]
  simp only [Function.comp_def, tags]
  rw [show (records.filter fun x => (!gone.any fun y => decide (x.tag = y.tag)) && decide (x.tag ≠ r.tag)) =
    records.filter fun x => !(r :: gone).any fun y => decide (x.tag = y.tag) from
      List.filter_congr fun x _ => by simp [Bool.and_comm]]
  refine List.map_congr_left fun x _ => ?_
  unfold Record.released
  by_cases held : x.state = .held r.tag
  · simp [held]
  · simp [held]

theorem generationsAfter_cons {r : Record} {gone : List Record} (own : ∀ x ∈ gone, x.tag.slot ≠ r.tag.slot)
    (generations : Vector (BitVec 4) 16) :
    generationsAfter gone (generations.set r.tag.slot (generations[r.tag.slot] + 1)) =
      generationsAfter (r :: gone) generations := by
  unfold generationsAfter
  refine Vector.ext fun j inside => ?_
  simp only [Vector.getElem_ofFn, List.any_cons]
  by_cases here : r.tag.slot = ⟨j, inside⟩
  · have none : (gone.any fun x => decide (x.tag.slot = ⟨j, inside⟩)) = false := by
      simpa [← here] using own
    simp [here, none]
  · have other : r.tag.slot.val ≠ j := fun same => here (Fin.ext same)
    simp [here, Vector.getElem_set_ne _ _ other]

theorem foldl_post_setSq (gone : List Record) (how : Completion) (q : SqState) (s : State) :
    gone.foldl (fun s r => s.post (.sendQueue how r.tag false false)) (s.setSq q) =
      (gone.foldl (fun s r => s.post (.sendQueue how r.tag false false)) s).setSq q := by
  induction gone generalizing s with
  | nil => rfl
  | cons r rest ih => rw [List.foldl_cons, List.foldl_cons, setSq_post, ih]

/-- Records of slots of their own that leave one after the other. -/
theorem foldl_leave (gone : List Record) (how : Completion) (own : (gone.map fun r => r.tag.slot).Nodup) (s : State) :
    gone.foldl (fun s r => s.leave r how false false) s =
      (gone.foldl (fun s r => s.post (.sendQueue how r.tag false false)) s).setSq
        { s.sq with
          records := recordsAfter gone s.sq.records
          generations := generationsAfter gone s.sq.generations } := by
  induction gone generalizing s with
  | nil =>
    simp only [recordsAfter, generationsAfter]
    simp
    rfl
  | cons r rest ih =>
    obtain ⟨first, rests⟩ := List.nodup_cons.mp own
    have others : ∀ x ∈ rest, x.tag.slot ≠ r.tag.slot := fun x m same => first (List.mem_map.mpr ⟨x, m, same⟩)
    rw [List.foldl_cons, List.foldl_cons, ih rests, State.leave, setSq_post, foldl_post_setSq]
    simp only [setSq_sq, recordsAfter_cons, generationsAfter_cons others]
    rfl

/-- Records that leave in one event, as the statements have it. -/
theorem leaveAll_eq (which : Record → Bool) (how : Completion) {s : State}
    (own : (s.sq.records.map fun r => r.tag.slot).Nodup) : s.leaveAll which how = Claims.allLeft which how s := by
  have sub := (List.filter_sublist (p := which) (l := s.sq.records)).map fun r : Record => r.tag.slot
  rw [State.leaveAll, foldl_leave _ how (own.sublist sub), Claims.allLeft]
  have left : (s.sq.records.filter fun x => !(s.sq.records.filter which).any fun r => decide (x.tag = r.tag)) =
      s.sq.records.filter fun x => !which x := by
    refine List.filter_congr fun x there => ?_
    congr 1
    by_cases goes : which x = true
    · rw [goes, List.any_eq_true]
      exact ⟨x, List.mem_filter.mpr ⟨there, goes⟩, decide_eq_true rfl⟩
    · rw [Bool.not_eq_true] at goes
      rw [goes, List.any_eq_false]
      intro r m same
      obtain ⟨held, gone⟩ := List.mem_filter.mp m
      obtain rfl := record_eq_of_slot own held there (by rw [of_decide_eq_true same])
      exact absurd gone (by simp [goes])
  unfold recordsAfter generationsAfter
  rw [left]

/-! ## What an offer removes first (R73, R79) -/

theorem outOfDate_eq (t now : Micros) : outOfDate t now = Claims.outOfDate now t := by
  rw [Bool.eq_iff_iff, outOfDate_iff]
  simp only [Claims.staleNow, Claims.ahead, Claims.outOfDate, Option.some.injEq, exists_eq_left', decide_eq_true_eq]
  omega

theorem isStale_eq (r : Record) (now : Micros) : r.isStale now = r.stale.any (Claims.outOfDate now) := by
  unfold Record.isStale
  cases r.stale with
  | none => rfl
  | some t => exact outOfDate_eq t now

theorem allLeft_beat (which : Record → Bool) (how : Completion) (s : State) :
    (Claims.allLeft which how s).sq.beat = s.sq.beat := rfl

theorem setSq_beat_self {s : State} {beat : Option BeatRecord} (held : s.sq.beat = beat) :
    s.setSq { s.sq with beat := beat } = s := by
  subst held
  rfl

/-- Stale records leave, and a stale BEAT, behind which none is pending while it waits (R62, R78). -/
theorem removeStale_eq {s : State} (ok : s.QueueOk) : s.removeStale = Claims.staleLeft s := by
  obtain ⟨records, pendingBehind, -⟩ := (queueOk_iff s).mp ok
  have which : (fun r : Record => decide (r.state = .waiting) && r.isStale s.micros) =
      fun r => decide (r.state = .waiting) && r.stale.any (Claims.outOfDate s.micros) :=
    funext fun r => by rw [isStale_eq]
  have touched := leaveAll_touches (fun r => decide (r.state = .waiting) && r.isStale s.micros) .stale s
  have pending := touched.pendingBeat (by decide)
  unfold State.removeStale Claims.staleLeft
  dsimp only
  rw [leaveAll_eq _ .stale records.slots_nodup, which] at pending ⊢
  generalize cleared : Claims.allLeft _ .stale s = u at pending ⊢
  have beat : u.sq.beat = s.sq.beat := cleared ▸ rfl
  rw [beat]
  cases held : s.sq.beat with
  | none => exact (setSq_beat_self (beat.trans held)).symm
  | some b =>
    dsimp only
    rw [outOfDate_eq]
    by_cases leaves : (!b.inFlight && Claims.outOfDate s.micros b.beat.stale) = true
    · have gone : (b.inFlight || !Claims.outOfDate s.micros b.beat.stale) = false := by
        simpa [Bool.and_eq_true] using leaves
      have alone : u.agu.pendingBeat = none := by
        rw [pending]
        by_contra behind
        obtain ⟨x, there, inFlight, -⟩ := pendingBehind (Option.isSome_iff_ne_none.mpr behind)
        obtain rfl : b = x := Option.some.inj (held.symm.trans there)
        simp [inFlight] at leaves
      rw [if_pos leaves, beatLeft_eq, beatLeft_of_none alone, Option.filter_some, gone, if_neg Bool.false_ne_true]
    · have stays : (b.inFlight || !Claims.outOfDate s.micros b.beat.stale) = true := by
        by_cases flies : b.inFlight = true
        · simp [flies]
        · rw [Bool.not_eq_true] at flies
          simpa [flies] using leaves
      rw [if_neg leaves, Option.filter_some, stays, if_pos rfl]
      exact (setSq_beat_self (beat.trans held)).symm

/-! ## The least of those that wait (R74) -/

/-- The keys in their order. -/
theorem less_iff (a b : SelectionKey) :
    a.less b = true ↔ a.cls < b.cls ∨ a.cls = b.cls ∧ (a.urgency < b.urgency
      ∨ a.urgency = b.urgency ∧ (a.stale < b.stale ∨ a.stale = b.stale ∧ a.order < b.order)) := by
  unfold SelectionKey.less
  split_ifs <;> simp_all

theorem less_asymm {a b : SelectionKey} (less : a.less b = true) : b.less a = false := by
  rw [← Bool.not_eq_true, less_iff]
  rw [less_iff] at less
  omega

theorem leastCandidate_mem {l : List (Place × SelectionKey)} {c : Place × SelectionKey}
    (least : leastCandidate l = some c) : c ∈ l := by
  induction l generalizing c with
  | nil => cases least
  | cons d rest ih =>
    rw [leastCandidate] at least
    cases found : leastCandidate rest with
    | none =>
      rw [found] at least
      obtain rfl := Option.some.inj least
      exact List.mem_cons_self ..
    | some best =>
      rw [found] at least
      dsimp only at least
      split at least
      · obtain rfl := Option.some.inj least
        exact List.mem_cons_of_mem _ (ih found)
      · obtain rfl := Option.some.inj least
        exact List.mem_cons_self ..

/-- A candidate that stands before every other is the least. -/
theorem leastCandidate_some {l : List (Place × SelectionKey)} {c : Place × SelectionKey} (there : c ∈ l)
    (before : ∀ d ∈ l, d ≠ c → c.2.less d.2 = true) : leastCandidate l = some c := by
  induction l with
  | nil => cases there
  | cons d rest ih =>
    rw [leastCandidate]
    by_cases same : d = c
    · subst same
      cases found : leastCandidate rest with
      | none => rfl
      | some best =>
        dsimp only
        by_cases one : best = d
        · rw [one]
          exact ite_self _
        · have less := before best (List.mem_cons_of_mem _ (leastCandidate_mem found)) one
          rw [less_asymm less, if_neg Bool.false_ne_true]
    · have among : c ∈ rest := (List.mem_cons.mp there).resolve_left fun e => same e.symm
      rw [ih among fun x m => before x (List.mem_cons_of_mem _ m)]
      exact if_pos (before d (List.mem_cons_self ..) same)

theorem leastCandidate_none {l : List (Place × SelectionKey)} (empty : l = []) : leastCandidate l = none := by
  rw [empty]
  rfl

/-! ## Candidates -/

theorem candidates_of_beat {s : State} {b : BeatRecord} (beat : s.sq.beat = some b) (waits : b.inFlight = false) :
    s.candidates = ((s.sq.records.filter fun r => r.state = .waiting).map fun r => (Place.slot r.tag.slot, s.keyOf r))
      ++ [(Place.beat, s.keyOfBeat b)] := by
  simp [State.candidates, beat, waits]

theorem candidates_of_none {s : State} (none : s.sq.beat = none) :
    s.candidates = (s.sq.records.filter fun r => r.state = .waiting).map fun r =>
      (Place.slot r.tag.slot, s.keyOf r) := by
  simp [State.candidates, none]

/-- The BEAT stands before every record. -/
theorem leastCandidate_beat {s : State} {b : BeatRecord} (beat : s.sq.beat = some b) (waits : b.inFlight = false) :
    leastCandidate s.candidates = some (Place.beat, s.keyOfBeat b) := by
  rw [candidates_of_beat beat waits]
  refine leastCandidate_some (by simp) fun d among other => ?_
  obtain record | rfl := List.mem_append.mp among |>.imp_right List.mem_singleton.mp
  · obtain ⟨r, -, rfl⟩ := List.mem_map.mp record
    rw [less_iff]
    left
    change 0 < r.body.classCode
    cases r.body <;> exact Nat.succ_pos _
  · exact absurd rfl other

/-- The urgency that the keys compare, of a record that is not out of date. -/
theorem urgencyNow_eq {r : Record} {s : State}
    (fresh : ∀ c, r.body = .cueBody c → r.stale.any (Claims.outOfDate s.micros) = false) :
    s.urgencyNow r = (Claims.candidate r s).urgency := by
  unfold State.urgencyNow Claims.candidate
  cases body : r.body with
  | recallBody => rfl
  | markBody => rfl
  | cueBody c =>
    cases stale : r.stale with
    | none => rfl
    | some t =>
      have there : Claims.outOfDate s.micros t = false := by simpa [stale] using fresh c body
      have within := of_decide_eq_false there
      have ahead : reached t s.micros = false := by
        rw [← Bool.not_eq_true, reached_iff, Claims.ahead]
        generalize (t - s.micros).toNat = n at within ⊢
        omega
      simp only [urgencyOf, ahead]
      rfl

theorem classCode_eq (r : Record) (s : State) : r.body.classCode = (Claims.candidate r s).cls := by
  unfold Claims.candidate RecordBody.classCode
  cases r.body <;> rfl

/-- Of two records that are not out of date the one that stands before the other has the lesser keys (R74). -/
theorem keyOf_less {r x : Record} {s : State}
    (freshR : ∀ c, r.body = .cueBody c → r.stale.any (Claims.outOfDate s.micros) = false)
    (freshX : ∀ c, x.body = .cueBody c → x.stale.any (Claims.outOfDate s.micros) = false)
    (before : Claims.selectedBefore s.micros (Claims.candidate r s) (Claims.candidate x s)) :
    (s.keyOf r).less (s.keyOf x) = true := by
  rw [less_iff]
  simp only [State.keyOf, urgencyNow_eq freshR, urgencyNow_eq freshX, classCode_eq _ s]
  obtain cls | ⟨cls, urgency | ⟨urgency, ⟨t, u, staleR, staleX, sooner⟩ | ⟨stale, order⟩⟩⟩ := before
  · exact .inl cls
  · exact .inr ⟨cls, .inl urgency⟩
  · refine .inr ⟨cls, .inr ⟨urgency, .inl ?_⟩⟩
    have first : r.stale = some t := staleR
    have second : x.stale = some u := staleX
    rw [first, second]
    exact sooner
  · refine .inr ⟨cls, .inr ⟨urgency, .inr ⟨?_, order⟩⟩⟩
    have same : r.stale = x.stale := stale
    rw [same]

/-! ## The offer (R4, R5, R73) -/

theorem mayOffer_iff (s : State) :
    s.mayOffer = true ↔
      s.liu.state = .idle ∧ s.liu.attempt = none ∧ s.stc.station = .joined ∧ (s.fcu.state = .active ∨ s.fcu.state = .guarded)
        ∧ s.liu.holdOff = false := by
  unfold State.mayOffer
  cases s.fcu.state <;> simp [FaultState.mayDrive, and_assoc]

/-- Without a moment to offer in, OFFER changes nothing. -/
theorem noOffer : Claims.NoOffer := by
  intro s closed
  have none : ¬s.mayOffer = true := by
    rw [mayOffer_iff]
    rintro ⟨idle, free, joined, state, holdOff⟩
    obtain other | other | other | other | other | other := closed <;> simp_all
  change Host.Outcome.next _ = _
  rw [if_neg none]

/-- What an offer leaves of the rest of the station before it puts a record in flight. -/
theorem staleLeft_keeps {s : State} (ok : s.QueueOk) :
    (Claims.staleLeft s).liu = s.liu ∧ (Claims.staleLeft s).stc = s.stc ∧ (Claims.staleLeft s).micros = s.micros
      ∧ (Claims.staleLeft s).draws = s.draws ∧ (Claims.staleLeft s).QueueOk := by
  have touched := removeStale_touches s
  have kept := removeStale_queueOk ok
  rw [removeStale_eq ok] at touched kept
  exact ⟨touched.liu_eq (by decide), touched.stc_eq (by decide),
    congrArg (fun b : BtuState => microsOf b.time) (touched.btu (by decide)), touched.draws (by decide), kept⟩

theorem offer_of_least {s : State} {c : Place × SelectionKey} (ok : s.QueueOk) (may : s.mayOffer = true)
    (least : leastCandidate (Claims.staleLeft s).candidates = some c) :
    exec .offer s = .next ((Claims.staleLeft s).takeOffer c.1) := by
  change Host.Outcome.next _ = _
  rw [if_pos may, State.offer, removeStale_eq ok, least]

theorem offer_of_none {s : State} (ok : s.QueueOk) (may : s.mayOffer = true)
    (least : leastCandidate (Claims.staleLeft s).candidates = none) : exec .offer s = .next (Claims.staleLeft s) := by
  change Host.Outcome.next _ = _
  rw [if_pos may, State.offer, removeStale_eq ok, least]

theorem takeOffer_of_frame {p : Place} {frame : Frame} {s : State} (built : s.buildFrame p = some frame) :
    s.takeOffer p =
      ((s.markInFlight p).setDraws (s.draws + 1)).setLiu
        { s.liu with attempt := some { place := p, frame := frame, stamp := none } } := by
  have draws := (markInFlight_touches p s).draws (by decide)
  have liu := (markInFlight_touches p s).liu_eq (by decide)
  unfold State.takeOffer
  rw [built, ← draws, ← liu]
  rfl

theorem find_slot {records : List Record} (own : (records.map fun r => r.tag.slot).Nodup) {r : Record}
    (m : r ∈ records) : (records.find? fun x => decide (x.tag.slot = r.tag.slot)) = some r := by
  cases found : records.find? fun x => decide (x.tag.slot = r.tag.slot) with
  | none => simpa using List.find?_eq_none.mp found r m
  | some x =>
    have same : x.tag.slot = r.tag.slot := by simpa using List.find?_some found
    rw [record_eq_of_slot own m (List.mem_of_find?_eq_some found) same]

theorem buildFrame_slot {s : State} {r : Record} (own : (s.sq.records.map fun r => r.tag.slot).Nodup)
    (m : r ∈ s.sq.records) :
    s.buildFrame (.slot r.tag.slot) =
      some (frameOf s.stc.config.id (s.urgencyNow r) (Config.unusedFrameBits s.draws) r.body.content) := by
  unfold State.buildFrame
  dsimp only
  rw [find_slot own m]
  rfl

/-- A WAITING record that an offer has left is not out of date, but for one released from being HELD, a RECALL (R82). -/
theorem staleLeft_fresh {s : State} (ok : s.QueueOk) {r : Record} (there : r ∈ (Claims.staleLeft s).sq.records)
    (waiting : r.state = .waiting) (c : CueContent) (cue : r.body = .cueBody c) :
    r.stale.any (Claims.outOfDate s.micros) = false := by
  obtain ⟨⟨-, -, held, -⟩, -⟩ := (queueOk_iff s).mp ok
  obtain ⟨x, left, rfl⟩ := List.mem_map.mp there
  obtain ⟨among, stays⟩ := List.mem_filter.mp left
  by_cases released : ((s.sq.records.filter fun r : Record => decide (r.state = .waiting) &&
      r.stale.any (Claims.outOfDate s.micros)).any fun r => decide (x.state = .held r.tag)) = true
  · obtain ⟨y, -, behind⟩ := List.any_eq_true.mp released
    obtain ⟨what, other⟩ := held x among _ (of_decide_eq_true behind)
    simp only [if_pos released, other] at cue
    cases cue
  · simp only [if_neg released] at waiting ⊢
    simpa [waiting] using stays

/-- The keys read bus time and the urgency step. -/
theorem candidate_congr {s t : State} (now : t.micros = s.micros) (stc : t.stc = s.stc) (r : Record) :
    Claims.candidate r t = Claims.candidate r s := by
  unfold Claims.candidate
  rw [now, stc]

theorem offerTakesLeast : Claims.OfferTakesLeast := by
  intro s idle free joined state holdOff ok u putInFlight
  have may : s.mayOffer = true := (mayOffer_iff s).mpr ⟨idle, free, joined, state, holdOff⟩
  obtain ⟨liu, stc, now, draws, kept⟩ := staleLeft_keeps ok
  obtain ⟨records, -, beatPlace⟩ := (queueOk_iff _).mp kept
  refine ⟨fun none empty => ?_, fun b beat => ?_, fun r there waiting empty before => ?_⟩
  · refine offer_of_none ok may (leastCandidate_none ?_)
    rw [candidates_of_none empty, List.filter_eq_nil_iff.mpr fun r m => by simpa using none r m]
    rfl
  · have waits : b.inFlight = false := by
      by_contra inFlight
      have place := beatPlace b beat (by simpa using inFlight)
      simp [State.attemptPlace, liu, free] at place
    have built : u.buildFrame .beat =
        some (frameOf u.stc.config.id 0 (Config.unusedFrameBits u.draws) (b.beat.content 0)) := by
      unfold State.buildFrame
      dsimp only
      rw [beat]
      rfl
    refine ⟨Config.unusedFrameBits s.draws, ?_⟩
    rw [offer_of_least ok may (leastCandidate_beat beat waits), takeOffer_of_frame built, State.markInFlight, beat, stc,
      draws, liu]
    rfl
  · have least : leastCandidate u.candidates = some (Place.slot r.tag.slot, u.keyOf r) := by
      rw [candidates_of_none empty]
      refine leastCandidate_some (List.mem_map_of_mem (List.mem_filter.mpr ⟨there, decide_eq_true waiting⟩)) ?_
      intro d among other
      obtain ⟨x, found, rfl⟩ := List.mem_map.mp among
      obtain ⟨thereX, waitingX⟩ := List.mem_filter.mp found
      have waitingX := of_decide_eq_true waitingX
      have first := before x thereX waitingX fun same => other (by rw [same])
      rw [← candidate_congr now stc r, ← candidate_congr now stc x, ← now] at first
      exact keyOf_less (now ▸ staleLeft_fresh ok there waiting) (now ▸ staleLeft_fresh ok thereX waitingX) first
    refine ⟨Config.unusedFrameBits s.draws, ?_⟩
    rw [offer_of_least ok may least, takeOffer_of_frame (buildFrame_slot records.slots_nodup there), State.markInFlight,
      urgencyNow_eq (now ▸ staleLeft_fresh ok there waiting), candidate_congr now stc, stc, draws, liu, frameOf]
    cases r.body <;> rfl

/-- Settles O31: what an offer removes, the least of those that wait, and when there is no offer. -/
theorem offerTakesLeastWaiting : Obligations.OfferTakesLeastWaiting := ⟨offerTakesLeast, noOffer⟩

end Sys2Proof.Machine
end

section
/-! SUPPORT. A step on an empty queue: the word of a step, idle spans that wait, an expiry, or one reference cycle (O2). -/

namespace Sys2Proof.Machine

/-! ## The counter -/

/-- A corrected cycle adds to the accumulator, and where that overflows a sixteenth is doubled or dropped (R36). -/
theorem tick_of_correction {b : BtuState} (free : b.stepFrom = none) (corrected : b.combined ≠ 0) :
    b.tick =
      if b.acc + b.combined.natAbs < Config.accumulatorModulus then
        { b.latched with time := b.time + 1, acc := b.acc + b.combined.natAbs }
      else
        { b.latched with
          time := if 0 < b.combined then b.time + 2 else b.time
          acc := b.acc + b.combined.natAbs - Config.accumulatorModulus } := by
  unfold BtuState.tick
  dsimp only
  rw [free, if_neg (by simp), if_neg corrected]

theorem counterTicks : Claims.CounterTicks := by
  intro b c gained passed
  refine ⟨tick_of_step, fun free => ⟨tick_of_no_correction free, fun corrected below => ?_, fun up full => ?_,
    fun down full => ?_⟩⟩
  · rw [tick_of_correction free corrected]
    exact if_pos below
  · rw [tick_of_correction free up.ne']
    refine (if_neg (Nat.not_lt.mpr full)).trans ?_
    rw [if_pos (show 0 < b.combined from up)]
    rfl
  · rw [tick_of_correction free down.ne]
    refine (if_neg (Nat.not_lt.mpr full)).trans ?_
    rw [if_neg (show ¬0 < b.combined from not_lt.mpr down.le)]
    rfl

/-! ## What an empty queue has happen -/

theorem step_of_word {s : State} (empty : s.pending = []) (waits : s.csu.word.isSome = true) :
    step s = .next s.takeWord := by
  unfold step State.idleStep
  rw [empty]
  exact if_pos waits

theorem step_of_spans {s : State} (empty : s.pending = []) (none : s.csu.word = none) (owes : s.owesSpans = true) :
    step s = .next s.settleSpans := by
  unfold step State.idleStep
  rw [empty]
  dsimp only
  rw [if_neg (by simp [none]), if_pos owes]

theorem step_of_due {s : State} {due : Instr × State} (empty : s.pending = []) (none : s.csu.word = none)
    (settled : s.owesSpans = false) (next : s.nextDue = some due) : step s = exec due.1 due.2 := by
  unfold step State.idleStep
  rw [empty]
  dsimp only
  rw [if_neg (by simp [none]), if_neg (by simp [settled]), next]

theorem step_of_cycle {s : State} (empty : s.pending = []) (none : s.csu.word = none) (settled : s.owesSpans = false)
    (nothing : s.nextDue = .none) : step s = .next s.tick := by
  unfold step State.idleStep
  rw [empty]
  dsimp only
  rw [if_neg (by simp [none]), if_neg (by simp [settled]), nothing]

theorem owesSpans_of_noSpanWaits {s : State} (none : Claims.noSpanWaits s) : s.owesSpans = false :=
  decide_eq_false fun owes => absurd owes.2 (Int.not_lt.mpr (none owes.1))

theorem mem_dueNow {s : State} {c : Instr} : c ∈ s.dueNow ↔ (c, s.micros) ∈ s.timers := by
  unfold State.dueNow
  rw [List.mem_map]
  constructor
  · rintro ⟨x, among, rfl⟩
    obtain ⟨armed, now⟩ := List.mem_filter.mp among
    rw [← of_decide_eq_true now]
    exact armed
  · exact fun armed => ⟨_, List.mem_filter.mpr ⟨armed, decide_eq_true rfl⟩, rfl⟩

theorem nextDue_none {s : State} (nothing : s.dueNow = []) : s.nextDue = none := by
  unfold State.nextDue
  rw [nothing]

theorem nextDue_single {s : State} {c : Instr} (single : s.dueNow = [c]) : s.nextDue = some (c, s) := by
  unfold State.nextDue
  rw [single]

/-- Where an expiry is due one is taken. -/
theorem nextDue_some {s : State} (some : s.dueNow ≠ []) : ∃ due, s.nextDue = .some due := by
  unfold State.nextDue
  split
  · contradiction
  · exact ⟨_, rfl⟩
  · have inside := Nat.mod_lt (Config.expiryChoice s.draws) (List.length_pos_of_ne_nil some)
    rw [List.getElem?_eq_getElem inside]
    exact ⟨_, rfl⟩

/-! ## Idle spans counted (R26, R27) -/

/-- Idle spans counted by an FCU that has taken their bits, as the statements have it. -/
theorem countSpans_eq {f : FcuState} {s : State} (n : Nat) (reached : Bool) (silenced : f.state = .silenced)
    (spans : f.spans = s.fcu.spans) : (s.setFcu f).countSpans n reached = Claims.spansCounted n reached f s := by
  unfold State.countSpans Claims.spansCounted State.tryRecover
  simp only [setFcu_fcu, spans, silenced]
  by_cases room : s.fcu.spans < 64
  · by_cases full : 64 ≤ s.fcu.spans + n
    · have all : min 64 (s.fcu.spans + n) = 64 := min_eq_left full
      cases reached with
      | false =>
        simp [room]
        rfl
      | true =>
        simp only [room, full, all, if_true, and_self]
        rw [changeFault_setFcu]
        rfl
    · have some : min 64 (s.fcu.spans + n) ≠ 64 := by omega
      simp [room, full, some]
      rfl
  · simp [room]
    rfl

theorem recoveryReached_eq (s : State) : s.recoveryReached = Claims.recoveryReached s := by
  unfold State.recoveryReached Claims.recoveryReached
  congr 2
  funext t
  rw [Bool.eq_iff_iff, reached_iff, decide_eq_true_iff]
  rfl

theorem settleSpans_eq {s : State} (silenced : s.fcu.state = .silenced) (owed : 0 < s.fcu.owed) :
    s.settleSpans = Claims.spansCounted s.fcu.owed.toNat (Claims.recoveryReached s) { s.fcu with owed := 0 } s := by
  have owes : s.owesSpans = true := decide_eq_true ⟨silenced, owed⟩
  rw [State.settleSpans, if_pos owes, countSpans_eq (f := { s.fcu with owed := 0 }) _ _ silenced rfl,
    recoveryReached_eq]

/-! ## The bits of an idle line (R1, R26) -/

theorem bitCycles_of_unmoved {t : BitTiming} (r : BitRate) (unmoved : t.shift = 0) :
    t.bitCycles r = 16 * r.cyclesPerQuantum := by
  rw [BitTiming.bitCycles, unmoved]
  rfl

/-- In one reference cycle of a bit no edge has moved the bit is sampled where its sample point is passed. -/
theorem samples_of_unmoved {c : LiuSettings} {t : BitTiming} (least : 1 ≤ c.samplePoint)
    (unmoved : t.shift = 0) (inside : t.cycle < 16 * c.bitRate.cyclesPerQuantum) :
    t.samples c 0 = 0
      ∧ t.samples c 1 = if t.cycle + 1 = c.samplePoint * c.bitRate.cyclesPerQuantum then 1 else 0 := by
  have some : 0 < c.samplePoint * c.bitRate.cyclesPerQuantum := Nat.mul_pos least (quantum_pos _)
  have sample : t.sampleCycle c = c.samplePoint * c.bitRate.cyclesPerQuantum - 1 := by
    rw [BitTiming.sampleCycle, unmoved]
    rfl
  unfold BitTiming.samples
  dsimp only
  rw [sample, bitCycles_of_unmoved _ unmoved]
  generalize c.samplePoint * c.bitRate.cyclesPerQuantum = point at some ⊢
  generalize 16 * c.bitRate.cyclesPerQuantum = whole at inside ⊢
  have none : (t.cycle + 0 + whole - (whole + point)) / whole = 0 := Nat.div_eq_of_lt (by omega)
  have later : (t.cycle + 1 + whole - (whole + point)) / whole = 0 := Nat.div_eq_of_lt (by omega)
  rw [none, later]
  refine ⟨if_neg (by omega), ?_⟩
  rw [Nat.add_zero]
  split_ifs <;> omega

/-- The bit of an idle line whose sample point the present cycle passes. -/
def State.idleBit (s : State) : Bool :=
  decide (s.fcu.state = .silenced ∧ s.liu.state = .idle
    ∧ s.liu.timing.cycle + 1 = s.liu.settings.samplePoint * Claims.quantum s.liu.settings.bitRate)

theorem idleBits_one {s : State} (silenced : s.fcu.state = .silenced)
    (timing : s.fcu.state = .silenced → s.liu.state = .idle → Claims.IdleTiming s) :
    s.liu.idleBits 0 = 0 ∧ s.liu.idleBits 1 = if s.idleBit then 1 else 0 := by
  unfold LiuBlock.idleBits State.idleBit
  by_cases idle : s.liu.state = .idle
  · obtain ⟨least, -, unmoved, inside, -⟩ := timing silenced idle
    rw [quantum_eq] at inside
    obtain ⟨none, one⟩ := samples_of_unmoved least unmoved inside
    rw [if_pos idle, if_pos idle, none, one, quantum_eq]
    simp [silenced, idle]
  · simp [idle]

/-- The span that the cycle completes is the clock's (assumption 38). -/
theorem spanEnds_one {s : State} (timing : s.fcu.state = .silenced → s.liu.state = .idle → Claims.IdleTiming s) :
    s.spanEnds 1 = (s.idleBit && decide (s.fcu.run = 11)) := by
  rw [Bool.eq_iff_iff, State.spanEnds, decide_eq_true_iff, Bool.and_eq_true, decide_eq_true_iff]
  by_cases silenced : s.fcu.state = .silenced
  · obtain ⟨none, one⟩ := idleBits_one silenced timing
    rw [Nat.sub_self, none, one]
    cases bit : s.idleBit with
    | false => simp
    | true =>
      obtain ⟨-, idle, -⟩ := of_decide_eq_true bit
      obtain ⟨-, -, -, -, run⟩ := timing silenced idle
      simp only [silenced, if_true, true_and]
      omega
  · simp [silenced, State.idleBit]

/-- What the FCU makes of the cycle (R26). -/
theorem countIdle_one {s u : State} (fcu : u.fcu = s.fcu)
    (timing : s.fcu.state = .silenced → s.liu.state = .idle → Claims.IdleTiming s) :
    u.countIdle (s.liu.idleBits 1) =
      if s.idleBit then
        Claims.spansCounted (if s.idleBit && decide (s.fcu.run = 11) then 1 else 0) u.fcu.timeReached
          { u.fcu with run := (u.fcu.run + 1) % 12 } u
      else u := by
  by_cases silenced : s.fcu.state = .silenced
  · rw [(idleBits_one silenced timing).2]
    cases bit : s.idleBit with
    | false => exact countIdle_zero u
    | true =>
      obtain ⟨-, idle, -⟩ := of_decide_eq_true bit
      obtain ⟨-, -, -, -, run⟩ := timing silenced idle
      have spans : (u.fcu.run + 1) / 12 = if (true && decide (s.fcu.run = 11)) = true then 1 else 0 := by
        rw [fcu]
        simp only [Bool.true_and, decide_eq_true_eq]
        split <;> omega
      rw [if_pos rfl, if_pos rfl, countIdle_of_silenced (fcu ▸ silenced) (by decide), spans]
      exact countSpans_eq _ _ (fcu ▸ silenced) rfl
  · have none : s.idleBit = false := decide_eq_false fun bit => silenced bit.1
    rw [none, countIdle_of_not_silenced (fcu ▸ silenced)]
    rfl

/-! ## The bit timing and the stamp (R1, R16, R41) -/

theorem payloadStart_eq (f : Frame) : payloadStart f = Claims.payloadStart f := by
  have header : (regionBits f).take 18 = false :: arbitrationField f ++ bitsOf 4 f.payload.length := by
    have split : regionBits f = (false :: arbitrationField f ++ bitsOf 4 f.payload.length)
        ++ (payloadBits f.payload ++ bitsOf 16 (crcOf (coveredBits f)).toNat) := by
      simp [regionBits, coveredBits]
    rw [split, List.take_left' (by simp [arbitrationField_length, bitsOf_length])]
  rw [payloadStart, header, Claims.payloadStart]

theorem inPayload_eq (a : Attempt) (t : BitTiming) : t.inPayload a.frame = Claims.payloadBegun a t := by
  rw [BitTiming.inPayload, Claims.payloadBegun, payloadStart_eq]

theorem stamped_eq (capture : Option Capture) (due : Attempt → Bool) (a : Attempt) :
    (if due a then a.stamped capture else a) = Claims.stampedBy capture due a := by
  obtain ⟨place, frame, stamp⟩ := a
  cases place <;> cases stamp <;> cases capture <;>
    simp only [Attempt.stamped, Claims.stampedBy, ite_self]

theorem stampedBy_never (capture : Option Capture) (a : Attempt) : Claims.stampedBy capture (fun _ => false) a = a := by
  rw [← stamped_eq]
  rfl

/-- One reference cycle at the LIU: its bit timing, and the stamp of a BEAT whose payload has begun. -/
theorem liuPass_eq (capture : Option Capture) (l : LiuBlock) :
    l.pass 1 capture =
      { l with
        timing := (l.pass 1 capture).timing
        attempt := l.attempt.map (Claims.stampedBy capture fun a =>
          decide (l.state = .sending) && Claims.payloadBegun a (l.pass 1 capture).timing) } := by
  unfold LiuBlock.pass
  split
  · rename_i stopped
    have none : decide (l.state = .sending) = false := by simp [stopped]
    simp only [none, Bool.false_and]
    rw [show Claims.stampedBy capture (fun _ => false) = id from funext (stampedBy_never capture), Option.map_id_fun]
    rfl
  · unfold LiuBlock.copyStamp
    simp only [Bool.false_and, Bool.or_false, inPayload_eq]
    exact congrArg
      (fun f => ({ l with timing := l.timing.pass l.settings.bitRate 1, attempt := l.attempt.map f } : LiuBlock))
      (funext fun a => stamped_eq capture
        (fun a => decide (l.state = .sending) && Claims.payloadBegun a (l.timing.pass l.settings.bitRate 1)) a)

/-- One reference cycle of a bit that no edge has moved. -/
theorem pass_of_unmoved {r : BitRate} {t : BitTiming} (unmoved : t.shift = 0) (inside : t.cycle < 16 * r.cyclesPerQuantum) :
    (t.pass r 1).cycle = (t.cycle + 1) % (16 * r.cyclesPerQuantum)
      ∧ (t.pass r 1).bit = t.bit + (t.cycle + 1) / (16 * r.cyclesPerQuantum) := by
  unfold BitTiming.pass
  dsimp only
  rw [bitCycles_of_unmoved r unmoved]
  generalize 16 * r.cyclesPerQuantum = whole at inside ⊢
  split
  case isTrue goesOn => exact ⟨(Nat.mod_eq_of_lt goesOn).symm, by rw [Nat.div_eq_of_lt goesOn]; rfl⟩
  case isFalse ends =>
    have last : t.cycle + 1 = whole := by omega
    rw [last, Nat.sub_self, Nat.zero_div, Nat.zero_mod, Nat.mod_self, Nat.div_self (by omega)]
    exact ⟨rfl, rfl⟩

/-! ## One reference cycle -/

/-- The part when a reference cycle is complete, but for what the FCU makes of an idle line's bit. -/
def State.cycleDone (s : State) : State := (s.cyclesPassed 1).setBtu s.btu.tick

theorem tick_eq (s : State) : s.tick = s.cycleDone.countIdle (s.liu.idleBits 1) := rfl

theorem cyclePasses : Claims.CyclePasses := by
  intro s empty none settled nothing timing q bit span
  have due : s.dueNow = [] := List.eq_nil_iff_forall_not_mem.mpr fun c there =>
    nothing _ (mem_dueNow.mp there) rfl
  refine ⟨s.tick, s.cycleDone, step_of_cycle empty none (owesSpans_of_noSpanWaits settled) (nextDue_none due),
    countIdle_one rfl timing, rfl, rfl, ?_, liuPass_eq _ _, fun i => ?_, fun stopped => ?_, fun running unmoved inside => ?_,
    rfl, rfl, rfl, rfl, rfl, rfl, rfl, rfl, rfl, rfl, rfl⟩
  · change (if s.spanEnds 1 then [Instr.idleSpan] else []) = _
    rw [spanEnds_one timing]
    rfl
  · exact getElem_mapVector Line.pinHigh s.clu.lines i i.isLt
  · change (s.liu.pass 1 s.btu.capture).timing = _
    rw [LiuBlock.pass, if_pos stopped]
  · have later : s.cycleDone.liu.timing = s.liu.timing.pass s.liu.settings.bitRate 1 := by
      change (s.liu.pass 1 s.btu.capture).timing = _
      rw [LiuBlock.pass, if_neg running]
      rfl
    have quantum : q = s.liu.settings.bitRate.cyclesPerQuantum := quantum_eq _
    rw [later, quantum]
    exact pass_of_unmoved unmoved (quantum ▸ inside)

/-- Settles O2: the counter's cycle, and what a step on an empty queue takes, in the order in which it looks for it. -/
theorem emptyQueueStepTakesExpiryOrCycle : Obligations.EmptyQueueStepTakesExpiryOrCycle := by
  refine ⟨counterTicks, fun w s empty waits => step_of_word empty (by rw [waits]; rfl),
    fun s empty none silenced owed => ?_, cyclePasses, fun c s empty none settled single => ?_,
    fun s empty none settled armed => ?_⟩
  · rw [step_of_spans empty none (decide_eq_true ⟨silenced, owed⟩), settleSpans_eq silenced owed]
  · exact step_of_due empty none (owesSpans_of_noSpanWaits settled) (nextDue_single single)
  · obtain ⟨⟨c, t⟩, there, now⟩ := armed
    obtain rfl : t = s.micros := now
    obtain ⟨due, next⟩ := nextDue_some (List.ne_nil_of_mem (mem_dueNow.mpr there))
    obtain ⟨among, same⟩ := nextDue_cases next
    exact ⟨due.1, mem_dueNow.mp among, due.2, same,
      step_of_due empty none (owesSpans_of_noSpanWaits settled) next⟩

end Sys2Proof.Machine
end

section
/-! SUPPORT. Fault confinement (O54, O53): what each report, each idle span and each expiry makes of score, fault state, spans, run and recovery time, and that every step keeps them together. -/

namespace Sys2Proof.Machine

/-! ## What the invariant reads -/

/-- The invariant reads the FCU alone. -/
theorem faultOk_of_fcu {s t : State} (same : t.fcu = s.fcu) (ok : s.FaultOk) : t.FaultOk := by
  unfold State.FaultOk
  rw [same]
  exact ok

theorem Touches.faultOk {bs : List Part} {s t : State} (h : Touches bs s t) (ok : s.FaultOk)
    (apart : .fcu ∉ bs := by decide) : t.FaultOk :=
  faultOk_of_fcu (h.fcu apart) ok

/-- Outside SILENCED the score fits, and nothing is counted (R22, R27, R28). -/
theorem faultOk_iff_of_not_silenced {s : State} (other : s.fcu.state ≠ .silenced) :
    s.FaultOk ↔ scoreFits s.fcu.state s.fcu.score ∧ s.fcu.recovery = none
      ∧ (s.fcu.spans = 0 ∧ s.fcu.run = 0 ∧ s.fcu.owed = 0 ∧ s.fcu.timeReached = false) := by
  constructor
  · rintro ⟨fits, -, -, held, free, -⟩
    exact ⟨fits, by simpa [other] using held, free other⟩
  · rintro ⟨fits, none, free⟩
    refine ⟨fits, by omega, by omega, ?_, fun _ => free, fun _ => free.2.2.2⟩
    simp [other, none]

/-- While SILENCED a recovery time is held, with at most 64 spans and a run below 12 (R25, R26, R27). -/
theorem faultOk_iff_of_silenced {s : State} (silenced : s.fcu.state = .silenced) :
    s.FaultOk ↔ scoreFits .silenced s.fcu.score ∧ s.fcu.recovery.isSome ∧ s.fcu.spans ≤ 64 ∧ s.fcu.run < 12
      ∧ (s.fcu.spans = 64 → s.fcu.timeReached = false) := by
  simp only [State.FaultOk, silenced, true_iff, ne_eq, not_true_eq_false, false_implies, true_and]
  tauto

theorem faultOk_of_restarted {s : State} (restarted : s.fcu = FcuState.restarted) : s.FaultOk := by
  rw [faultOk_iff_of_not_silenced] <;> rw [restarted]
  · exact ⟨Nat.zero_le _, rfl, rfl, rfl, rfl, rfl⟩
  · nofun

/-! ## Scores and fault states -/

@[simp] theorem changeFault_fcu (new : FaultState) (s : State) : (s.changeFault new).fcu = { s.fcu with state := new } := by
  unfold State.changeFault
  split
  · rename_i same
    rw [← same]
  · simp

/-- A score that a report gives fits the fault state that it gives (R20, R21, R22). -/
theorem scoreFits_faultStateFor {state : FaultState} {old score : Nat} (fits : scoreFits state old)
    (bounded : if state.counts then score ≤ old + 8 else score = old) : scoreFits (faultStateFor state score) score := by
  cases state with
  | active =>
    have most : score ≤ old + 8 := bounded
    simp only [scoreFits, faultStateFor] at *
    split_ifs <;> omega
  | guarded =>
    have most : score ≤ old + 8 := bounded
    simp only [scoreFits, faultStateFor] at *
    split_ifs <;> omega
  | silenced | barred => rwa [show score = old from bounded]

theorem scoreAfterError_bounded (state : FaultState) (role : Role) (old : Nat) :
    if state.counts then scoreAfterError state role old ≤ old + 8 else scoreAfterError state role old = old := by
  unfold scoreAfterError
  split
  · cases role with
    | sender => exact Nat.min_le_right _ _
    | receiver => dsimp only; split <;> omega
  · rfl

theorem scoreAfterAcceptance_bounded (state : FaultState) (old : Nat) :
    if state.counts then scoreAfterAcceptance state old ≤ old + 8 else scoreAfterAcceptance state old = old := by
  unfold scoreAfterAcceptance
  split
  · omega
  · rfl

/-- A new score keeps the invariant: it silences a station only with a recovery time armed (R22, R25). -/
theorem scoreTo_faultOk {s : State} {score : Nat} (ok : s.FaultOk)
    (bounded : if s.fcu.state.counts then score ≤ s.fcu.score + 8 else score = s.fcu.score) : (s.scoreTo score).FaultOk := by
  have fits := scoreFits_faultStateFor ok.1 bounded
  rw [scoreTo_eq]
  split
  · rename_i enters
    rw [enters.2] at fits
    rw [faultOk_iff_of_silenced (by simp)]
    simp [fits]
  · rename_i stays
    by_cases silenced : s.fcu.state = .silenced
    · rw [faultOk_iff_of_silenced (by simp [silenced, faultStateFor])]
      simp only [silenced, faultStateFor] at fits
      simpa [fits] using ((faultOk_iff_of_silenced silenced).mp ok).2
    · have other : faultStateFor s.fcu.state score ≠ .silenced := fun new => stays ⟨silenced, new⟩
      rw [faultOk_iff_of_not_silenced (by simpa using other)]
      simpa [fits] using ((faultOk_iff_of_not_silenced silenced).mp ok).2

/-- Bits sampled leave a run below 12 (R26). -/
theorem sampled_faultOk {s : State} (bits : List Bool) (ok : s.FaultOk) : (s.sampled bits).FaultOk := by
  by_cases silenced : s.fcu.state = .silenced
  · obtain ⟨fits, held, spans, run, full⟩ := (faultOk_iff_of_silenced silenced).mp ok
    rw [sampled_of_silenced silenced, faultOk_iff_of_silenced (by exact silenced)]
    exact ⟨fits, held, spans, runAfter_lt run bits, full⟩
  · rwa [sampled_of_not_silenced silenced]

theorem sampled_score (bits : List Bool) (s : State) :
    (s.sampled bits).fcu.state = s.fcu.state ∧ (s.sampled bits).fcu.score = s.fcu.score := by
  unfold State.sampled
  split <;> exact ⟨rfl, rfl⟩

theorem reportError_faultOk {s : State} (role : Role) (bits : List Bool) (ok : s.FaultOk) :
    (s.reportError role bits).FaultOk := by
  obtain ⟨state, score⟩ := sampled_score bits s
  refine scoreTo_faultOk (sampled_faultOk bits ok) ?_
  rw [state, score]
  exact scoreAfterError_bounded _ _ _

theorem reportAcceptance_faultOk {s : State} (ok : s.FaultOk) : s.reportAcceptance.FaultOk :=
  scoreTo_faultOk ok (scoreAfterAcceptance_bounded _ _)

/-- Every score a station holds is one a BARRED station may keep (R28). -/
theorem scoreFits_barred {state : FaultState} {score : Nat} (fits : scoreFits state score) : scoreFits .barred score := by
  cases state <;> simp only [scoreFits] at * <;> omega

theorem idClash_faultOk {s : State} (ok : s.FaultOk) : s.idClash.FaultOk := by
  unfold State.idClash
  dsimp only
  split
  · exact (post_touches _ _).faultOk ok
  · rw [faultOk_iff_of_not_silenced (by simp)]
    simpa using scoreFits_barred ok.1

/-! ## Spans and recovery -/

/-- R27 applied to a SILENCED station, which keeps the invariant where the station does not return. -/
theorem tryRecover_faultOk {s : State} {timeReached : Bool} (silenced : s.fcu.state = .silenced)
    (stays : (s.fcu.spans = 64 → timeReached = false) → s.FaultOk) : (s.tryRecover timeReached).FaultOk := by
  unfold State.tryRecover
  split
  · exact faultOk_of_restarted (by simp [FcuState.restarted])
  · rename_i waits
    exact stays fun full => by simpa [silenced, full] using waits

/-- Spans counted while SILENCED: 64 of them only where the recovery time has not been reached (R26, R27). -/
theorem countSpans_faultOk {s : State} {timeReached : Bool} (n : Nat) (ok : s.FaultOk) (silenced : s.fcu.state = .silenced)
    (noted : s.fcu.timeReached = true → timeReached = true) : (s.countSpans n timeReached).FaultOk := by
  obtain ⟨fits, held, spans, run, full⟩ := (faultOk_iff_of_silenced silenced).mp ok
  unfold State.countSpans
  dsimp only
  split
  · refine tryRecover_faultOk silenced fun waits => ?_
    rw [faultOk_iff_of_silenced (by exact silenced)]
    refine ⟨fits, held, min_le_left _ _, run, fun most => ?_⟩
    by_contra on
    exact Bool.false_ne_true ((waits most).symm.trans (noted (by simpa using on)))
  · rw [faultOk_iff_of_silenced (by exact silenced)]
    exact ⟨fits, held, min_le_left _ _, run, fun _ => full (by omega)⟩

/-- A SILENCED station's run and the spans it is owed written. -/
theorem faultOk_setRun {s : State} {f : FcuState} (ok : s.FaultOk) (silenced : s.fcu.state = .silenced) (run : f.run < 12)
    (same : f = { s.fcu with run := f.run, owed := f.owed }) : (s.setFcu f).FaultOk := by
  obtain ⟨fits, held, spans, -, full⟩ := (faultOk_iff_of_silenced silenced).mp ok
  rw [same, faultOk_iff_of_silenced (by exact silenced)]
  exact ⟨fits, held, spans, run, full⟩

theorem recoveryReached_of_noted {s : State} (noted : s.fcu.timeReached = true) : s.recoveryReached = true := by
  simp [State.recoveryReached, noted]

theorem spanTaken_run (reports : Bool) {f : FcuState} (run : f.run < 12) :
    (f.spanTaken reports).run < 12
      ∧ f.spanTaken reports = { f with run := (f.spanTaken reports).run, owed := (f.spanTaken reports).owed } := by
  unfold FcuState.spanTaken
  split
  · exact ⟨run, rfl⟩
  · exact ⟨Nat.zero_lt_succ _, rfl⟩

theorem countSpan_faultOk {s : State} (ok : s.FaultOk) : s.countSpan.FaultOk := by
  unfold State.countSpan
  split
  · rename_i counts
    obtain ⟨run, same⟩ := spanTaken_run s.liu.state.reports ok.2.2.1
    refine countSpans_faultOk 1 (faultOk_setRun ok counts.1 run same) ?_ fun noted => recoveryReached_of_noted ?_
    · rw [setFcu_fcu, same]
      exact counts.1
    · rw [setFcu_fcu, same] at noted
      exact noted
  · exact ok

theorem settleSpans_faultOk {s : State} (ok : s.FaultOk) : s.settleSpans.FaultOk := by
  unfold State.settleSpans
  split
  · rename_i owes
    obtain ⟨silenced, -⟩ := of_decide_eq_true owes
    exact countSpans_faultOk _ (faultOk_setRun ok silenced ok.2.2.1 rfl) silenced recoveryReached_of_noted
  · exact ok

theorem countIdle_faultOk {s : State} (bits : Nat) (ok : s.FaultOk) : (s.countIdle bits).FaultOk := by
  unfold State.countIdle
  split
  · rename_i counts
    exact countSpans_faultOk _ (faultOk_setRun ok counts.1 (Nat.mod_lt _ (by decide)) rfl) counts.1 id
  · exact ok

/-- A recovery time that may have been reached, which only a SILENCED station's can be (R27). -/
theorem recoverBy_faultOk {s : State} {timeReached : Bool} (ok : s.FaultOk)
    (held : timeReached = true → s.fcu.state = .silenced) : (s.recoverBy timeReached).FaultOk := by
  by_cases silenced : s.fcu.state = .silenced
  · obtain ⟨fits, some, spans, run, -⟩ := (faultOk_iff_of_silenced silenced).mp ok
    refine tryRecover_faultOk silenced fun waits => ?_
    rw [faultOk_iff_of_silenced (by exact silenced)]
    exact ⟨fits, some, spans, run, waits⟩
  · have no : timeReached = false := by simpa using mt held silenced
    have same : s.recoverBy timeReached = s := by
      rw [State.recoverBy, no, Bool.or_false, State.tryRecover, if_neg fun both => silenced both.1]
      rfl
    rwa [same]

theorem reexamineFcu_faultOk (old : Micros) (change : Int) {s : State} (ok : s.FaultOk) :
    (s.reexamineFcu old change).FaultOk := by
  refine recoverBy_faultOk ok fun reached => ok.2.2.2.1.mpr ?_
  cases held : s.fcu.recovery with
  | none => simp [held] at reached
  | some t => rfl

/-! ## The passing of time -/

theorem passCycles_faultOk (n : Nat) {s : State} (ok : s.FaultOk) : (s.passCycles n).FaultOk :=
  countIdle_faultOk _ ((setBtu_touches _ _).faultOk ((cyclesPassed_touches n s).faultOk ok))

theorem runTo_faultOk (t : Micros) {s : State} (ok : s.FaultOk) : (s.runTo t).FaultOk := by
  unfold State.runTo
  split
  · exact ok
  · have there := fun n => passCycles_faultOk n (settleSpans_faultOk ok)
    refine (setBtu_touches _ _).faultOk ?_
    split
    · exact passCycles_faultOk _ (there _)
    · exact there _

/-- A SILENCED station whose recovery time has not been reached: no span returns it (R27). -/
def State.recoveryAhead (s : State) : Prop := s.fcu.state = .silenced ∧ s.fcu.timeReached = false

/-- Spans counted with the recovery time not reached. -/
theorem countSpans_recoveryAhead {s : State} (n : Nat) (ahead : s.recoveryAhead) : (s.countSpans n false).recoveryAhead := by
  obtain same | ⟨-, -, -, reached, -⟩ := countSpans_cases n false s
  · rw [same]
    exact ahead
  · cases reached

theorem settleSpans_recoveryAhead {s : State} (ahead : s.recoveryAhead) (unreached : s.recoveryReached = false) :
    s.settleSpans.recoveryAhead := by
  unfold State.settleSpans
  split
  · rw [unreached]
    exact countSpans_recoveryAhead _ ahead
  · exact ahead

theorem passCycles_recoveryAhead (n : Nat) {s : State} (ahead : s.recoveryAhead) : (s.passCycles n).recoveryAhead := by
  unfold State.passCycles State.countIdle
  split
  · rw [show ((s.cyclesPassed n).setBtu (s.btu.advance n)).fcu.timeReached = false from ahead.2]
    exact countSpans_recoveryAhead _ ahead
  · exact ahead

/-- Time that runs to the recovery time leaves the return to its expiry. -/
theorem runTo_recoveryAhead {t : Micros} {s : State} (ahead : s.recoveryAhead) (held : s.fcu.recovery = some t)
    (notPassed : (t - s.micros).toNat < 2 ^ 31) : (s.runTo t).recoveryAhead := by
  unfold State.runTo
  split
  · exact ahead
  · rename_i later
    have some : (t - s.micros).toNat ≠ 0 := fun zero => later (by bv_omega)
    have before : isAhead t s.micros = true := decide_eq_true ⟨Nat.pos_of_ne_zero some, notPassed⟩
    have unreached : s.recoveryReached = false := by simp [State.recoveryReached, ahead.2, held, reached, before]
    have there := fun n => passCycles_recoveryAhead n (settleSpans_recoveryAhead ahead unreached)
    dsimp only
    split
    · exact passCycles_recoveryAhead _ (there _)
    · exact there _

/-! ## Steps of bus time and rounds -/

theorem takeWord_faultOk {s : State} (ok : s.FaultOk) : s.takeWord.FaultOk := (takeWord_touches s).faultOk ok

theorem reexamine_faultOk (order : Nat) (old : Micros) (change : Int) {s : State} (ok : s.FaultOk) :
    (s.reexamine order old change).FaultOk := by
  have word : ∀ {u : State}, u.FaultOk → u.takeWord.FaultOk := takeWord_faultOk
  have fault : ∀ {u : State}, u.FaultOk → (u.reexamineFcu old change).FaultOk := reexamineFcu_faultOk old change
  have queue : ∀ {u : State}, u.FaultOk → (u.reexamineSq old change).FaultOk := fun ok =>
    (reexamineSq_touches old change _).faultOk ok
  unfold State.reexamine
  split
  · exact fault (queue (word ok))
  · exact queue (fault (word ok))
  · exact fault (word (queue ok))
  · exact word (fault (queue ok))
  · exact queue (word (fault ok))
  · exact word (queue (fault ok))
  · exact fault (queue ok)
  · exact queue (fault ok)

theorem stepTime_faultOk (amount : Int) {s : State} (ok : s.FaultOk) : (s.stepTime amount).FaultOk := by
  unfold State.stepTime
  split
  · exact ok
  · exact reexamine_faultOk _ _ _ (s := State.drawn _) ok

theorem correct_faultOk (began : SyncState) (correction : Int) {s : State} (ok : s.FaultOk) :
    (s.correct began correction).FaultOk := by
  unfold State.correct
  split
  · exact (setBtu_touches _ _).faultOk (stepTime_faultOk correction ok)
  · exact ok

theorem syncRound_faultOk {s : State} (ok : s.FaultOk) : s.syncRound.FaultOk := by
  have round : ∀ boundary, (s.roundAt boundary).FaultOk := fun boundary => by
    have aged : s.agePeers.FaultOk := (agePeers_touches s).faultOk ok
    have corrected : ∀ fresh began correction,
        ((s.agePeers.setAgu { s.agePeers.agu with fresh := fresh }).correct began correction).FaultOk := fun _ _ _ =>
      correct_faultOk _ _ ((setAgu_touches _ _).faultOk aged)
    exact (setIku_touches _ _).faultOk ((setAgu_touches _ _).faultOk ((buildBeat_touches _ _ _ _).faultOk
      ((setAgu_touches _ _).faultOk ((updateSync_touches _ _ _ _).faultOk (corrected _ _ _)))))
  unfold State.syncRound
  split
  · exact round _
  · exact ok

theorem endWindow_faultOk {s : State} (ok : s.FaultOk) : s.endWindow.FaultOk := by
  have acquired : s.acquire.FaultOk := by
    unfold State.acquire
    exact (setIku_touches _ _).faultOk ((tellClu_touches _ _).faultOk ((setAgu_touches _ _).faultOk
      (stepTime_faultOk _ ok)))
  exact (post_touches _ _).faultOk ((setStc_touches _ _).faultOk acquired)

/-! ## The line -/

theorem endAttempt_faultOk (how : AttemptEnd) {s : State} (ok : s.FaultOk) : (s.endAttempt how).FaultOk := by
  unfold State.endAttempt
  split
  · exact (setLiu_touches _ _).faultOk ((attemptEnded_touches how _ s).faultOk ok)
  · exact ok

theorem frameError_faultOk (role : Role) (sampled : List Bool) {s : State} (ok : s.FaultOk) :
    (s.frameError role sampled).FaultOk := by
  have reported : ((s.reportError role sampled).endAttempt .error).FaultOk :=
    endAttempt_faultOk _ (reportError_faultOk role sampled ok)
  unfold State.frameError
  split
  · exact ok
  · cases role <;> exact reported

theorem intake_faultOk (a : Accepted) {s : State} (ok : s.FaultOk) : (s.intake a).FaultOk := by
  have clashed : (if s.isClash a then s.idClash else s).FaultOk := by
    split
    · exact idClash_faultOk ok
    · exact ok
  have heard : ∀ {u : State}, u.FaultOk → (if u.isHeard a then u.heard a.frame.station else u).FaultOk := fun {u} ok => by
    split
    · exact (heard_touches _ u).faultOk ok
    · exact ok
  have gated : ∀ {u : State}, u.FaultOk → (u.gate a).FaultOk := fun {u} ok => by
    unfold State.gate
    split
    · exact (validate_touches a u).faultOk ok
    · split
      · exact (validate_touches a u).faultOk ok
      · exact ok
    · exact ok
  exact gated (heard clashed)

theorem sof_faultOk (sampledDominant drove : Bool) {s : State} (ok : s.FaultOk) :
    ((s.hardSync.sofBit sampledDominant).sampleSof sampledDominant drove).FaultOk := by
  have bit : (s.hardSync.sofBit sampledDominant).FaultOk := by
    unfold State.sofBit
    split
    · exact sampled_faultOk (s := s.hardSync) _ ok
    · exact ok
  unfold State.sampleSof
  split
  · exact bit
  · exact frameError_faultOk _ _ bit
  · exact endAttempt_faultOk (s := State.captureSof _) .lost bit
  · exact bit

theorem acceptSending_faultOk (ack : Bool) {s : State} (ok : s.FaultOk) : (s.acceptSending ack).FaultOk := by
  unfold State.acceptSending
  split
  · exact ok
  · split
    · exact ok
    · split
      · exact intake_faultOk _ (s := (State.markOwnEnded _).afterAcceptance)
          (endAttempt_faultOk (.sent !ack) (reportAcceptance_faultOk ok))
      · exact ok

theorem acceptReceived_faultOk (f : Frame) (ack : Bool) {s : State} (ok : s.FaultOk) : (s.acceptReceived f ack).FaultOk :=
  intake_faultOk _ (s := State.afterAcceptance _) (reportAcceptance_faultOk (sampled_faultOk _ ok))

theorem offer_touches (s : State) :
    Touches [.liu, .timing, .stamp, .holdOff, .sq, .pendingBeat, .notices, .posted, .draws] s s.offer := by
  have cleared := (removeStale_touches s).mono
    (cs := [.liu, .timing, .stamp, .holdOff, .sq, .pendingBeat, .notices, .posted, .draws]) (by decide)
  unfold State.offer
  dsimp only
  split
  · exact cleared.trans ((takeOffer_touches _ _).mono (by decide))
  · exact cleared

/-! ## Every step -/

/-- RECOVERY_TIME_EXPIRY finds the station still SILENCED (R27). -/
theorem recoveryTimeExpiry_faultOk {s : State} (ok : s.FaultOk) :
    (s.expire State.recoveryTime (State.recoverBy true)).FaultOk := by
  obtain same | ⟨t, held, notPassed, -, taken⟩ := expire_cases s State.recoveryTime (State.recoverBy true)
  · rwa [same]
  · rw [taken]
    unfold State.recoveryTime at held
    split at held
    · exact recoverBy_faultOk (runTo_faultOk t (takeWord_faultOk ok)) fun _ => (runTo_recoveryAhead ‹_› held notPassed).1
    · cases held

/-- Every other expiry keeps the invariant where its owner's event does. -/
theorem expire_faultOk {s : State} {stored : State → Option Micros} {event : State → State}
    (owner : ∀ u : State, u.FaultOk → (event u).FaultOk) (ok : s.FaultOk) : (s.expire stored event).FaultOk :=
  expire_keeps (P := State.FaultOk) takeWord_faultOk (fun t _ => runTo_faultOk t) (fun _ u _ _ => owner u) ok

theorem unlessSpent_faultOk {s : State} {c : Instr} {event : State → State} (owner : s.FaultOk → (event s).FaultOk)
    (ok : s.FaultOk) : (s.unlessSpent c event).FaultOk :=
  unlessSpent_keeps (P := State.FaultOk) takeWord_faultOk (fun s _ => (setSpent_touches s _).faultOk) owner ok

theorem takeCommand_faultOk {s : State} {handle : State → State × Reply} (owner : s.FaultOk → (handle s).1.FaultOk)
    (ok : s.FaultOk) : (s.takeCommand handle).FaultOk :=
  takeCommand_keeps (P := State.FaultOk) (fun s _ => (setLpu_touches s _).faultOk) owner ok

/-- A command of the port whose owner leaves the FCU. -/
theorem takeCommand_faultOk_of_touches {bs : List Part} {s : State} {handle : State → State × Reply}
    (frame : Touches bs s (handle s).1) (ok : s.FaultOk) (apart : .fcu ∉ bs := by decide) :
    (s.takeCommand handle).FaultOk :=
  takeCommand_faultOk (fun ok => frame.faultOk ok apart) ok

theorem exec_faultOk (c : Instr) {s t : State} (ok : s.FaultOk) (ran : exec c s = .next t) : t.FaultOk := by
  cases c with
  | setStation a =>
    exact next_keeps ran (takeCommand_faultOk_of_touches (configure_touches fun _ => setStc_touches s _) ok)
  | setLine a =>
    exact next_keeps ran (takeCommand_faultOk_of_touches (configure_touches fun _ => setClu_touches s _) ok)
  | setInput a =>
    exact next_keeps ran (takeCommand_faultOk_of_touches (configure_touches fun _ => setMarkInput_touches _ _ s) ok)
  | setSubscription a =>
    exact next_keeps ran (takeCommand_faultOk_of_touches (configure_touches fun _ => setIku_touches s _) ok)
  | setReaction a =>
    exact next_keeps ran (takeCommand_faultOk_of_touches (configure_touches fun _ => setMku_touches s _) ok)
  | join => exact next_keeps ran (takeCommand_faultOk_of_touches (join_touches s) ok)
  | restart =>
    exact next_keeps ran (takeCommand_faultOk (fun _ => faultOk_of_restarted (by simp [State.restart, State.settlePosts, State.restartBlocks])) ok)
  | postCueShared a => exact next_keeps ran (takeCommand_faultOk_of_touches (postShared_touches a s) ok)
  | postCueLocal a => exact next_keeps ran (takeCommand_faultOk_of_touches (postLocal_touches a s) ok)
  | postRecallShared a => exact next_keeps ran (takeCommand_faultOk_of_touches (recallShared_touches a s) ok)
  | postRecallLocal a => exact next_keeps ran (takeCommand_faultOk_of_touches (recallLocal_touches a s) ok)
  | withdraw tag => exact next_keeps ran (takeCommand_faultOk_of_touches (withdraw_touches tag s) ok)
  | readNotice => exact next_keeps ran (takeCommand_faultOk_of_touches (takeNotice_touches s) ok)
  | readStatus | readTime | readPeer | readEntry | readRecord => exact next_keeps ran (takeCommand_faultOk id ok)
  | badCommand code =>
    refine next_keeps ran ?_
    split
    · exact ok
    · exact takeCommand_faultOk id ok
  | transactionTruncated =>
    refine next_keeps ran ?_
    split
    · exact ok
    · exact (selRises_touches s).faultOk ok
  | transactionBegin =>
    refine next_keeps ran ?_
    split <;> exact ok
  | transactionEnd => exact next_keeps ran ((selRises_touches s).faultOk ok)
  | pinReset => exact next_keeps ran (faultOk_of_restarted rfl)
  | markEdge input edge =>
    refine next_keeps ran ?_
    split
    · exact (takeEdge_touches input edge s).faultOk ok
    · exact ok
  | sof sampledDominant drove =>
    refine next_keeps ran ?_
    split
    · exact sof_faultOk sampledDominant drove ok
    · exact ok
  | offer =>
    refine next_keeps ran ?_
    split
    · exact (offer_touches s).faultOk ok
    · exact ok
  | lostArbitration =>
    refine next_keeps ran ?_
    split
    · split
      · exact ok
      · exact endAttempt_faultOk .lost ok
    · exact ok
  | errorDetected kind sampled =>
    refine next_keeps ran ?_
    split
    · exact reportError_faultOk .receiver sampled ok
    · split
      · exact frameError_faultOk _ sampled ok
      · exact ok
  | acceptance f ack =>
    refine next_keeps ran ?_
    split
    · exact acceptSending_faultOk ack ok
    · exact acceptReceived_faultOk f ack ok
    · exact ok
  | stuckLineError sampled =>
    refine next_keeps ran ?_
    split
    · split
      · exact ok
      · exact reportError_faultOk _ sampled ok
    · exact ok
  | errorDelimiterEnd sampled =>
    refine next_keeps ran ?_
    split
    · split
      · exact ok
      · exact sampled_faultOk (s := State.setLiuState _ s) sampled ok
    · exact ok
  | interframeSpaceEnd =>
    refine next_keeps ran ?_
    split
    · exact sampled_faultOk (s := s.enterIdle) _ ok
    · exact ok
  | errorFlagEnd | integrationComplete | holdOffEnd | drainEnd =>
    refine next_keeps ran ?_
    split <;> exact ok
  | idleSpan =>
    refine next_keeps ran ?_
    split
    · exact ok
    · exact countSpan_faultOk ok
  | recoveryTimeExpiry => exact next_keeps ran (recoveryTimeExpiry_faultOk ok)
  | syncRound => exact next_keeps ran (expire_faultOk (fun _ => syncRound_faultOk) ok)
  | listenWindowEnd => exact next_keeps ran (expire_faultOk (fun _ => endWindow_faultOk) ok)
  | scheduleExpiry => exact next_keeps ran (expire_faultOk (fun u => (expireFirst_touches u).faultOk) ok)
  | staleTimeExpiry p => exact next_keeps ran (expire_faultOk (fun u => (expireStale_touches p u).faultOk) ok)
  | pulseEnd line =>
    exact next_keeps ran (unlessSpent_faultOk (expire_faultOk fun u => (endPulse_touches line u).faultOk) ok)
  | spacingEnd input =>
    exact next_keeps ran (unlessSpent_faultOk (expire_faultOk fun u => (setMarkInput_touches _ _ u).faultOk) ok)

/-- Settles O54: what every command and every event of an empty queue keeps, a step keeps. -/
theorem stepKeepsFaultConfinement : Obligations.StepKeepsFaultConfinement := fun _ _ =>
  step_keeps (P := State.FaultOk) (fun c _ _ => exec_faultOk c) (fun _ _ => id) (fun _ => id) (fun _ => takeWord_faultOk)
    (fun _ => settleSpans_faultOk) (fun _ => passCycles_faultOk 1)

/-! ## Pin reset -/

/-- After pin reset every line is at its safe level, without a pulse (R130). -/
theorem reset_linesOk : State.reset.LinesOk := by
  refine ⟨rfl, fun i => ?_⟩
  have line : State.reset.clu.lines[i] = Line.defaults := Vector.getElem_replicate _
  rw [line]
  exact ⟨nofun, nofun⟩

/-- After pin reset the peer table holds no entry (R66). -/
theorem reset_peersOk : State.reset.PeersOk := by
  have free : ∀ i : Fin 32, State.reset.agu.peers[i] = none := fun i => Vector.getElem_replicate _
  exact ⟨fun i p held => absurd ((free i).symm.trans held) nofun,
    fun i _ p _ held => absurd ((free i).symm.trans held) nofun⟩

/-- Settles O53: FCU and rates at rest, and every queue, table and schedule empty. -/
theorem resetMeetsInvariants : Obligations.ResetMeetsInvariants := by
  have rates : State.reset.RatesOk := by
    unfold State.RatesOk
    decide
  exact ⟨faultOk_of_restarted rfl, ⟨Nat.zero_le _, Nat.zero_le _, nofun⟩, reset_linesOk, ⟨Nat.zero_le _, .nil⟩, rates,
    pinReset_stationOk State.reset, ⟨.nil, .nil, nofun, nofun, nofun, nofun⟩, ⟨.nil, nofun⟩, reset_peersOk⟩

end Sys2Proof.Machine
end

section
/-! SUPPORT. An id clash (O36): what the gate of the IKU leaves, the FCU's notices of an acceptance and of a clash, and what both leave of FCU and LIU. -/

namespace Sys2Proof.Machine

/-! ## The gate of another station's frame (R87, R88) -/

theorem react_onlyPosts (m : SeenMark) (s : State) : OnlyPosts [.csu] s (s.react m) := by
  refine .foldl (fun s r => ?_) _ _
  unfold State.tryReaction
  split
  · exact arrive_onlyPosts _ _
  · exact .refl _ _

theorem dispatch_onlyPosts (a : Accepted) (c : Content) (s : State) : OnlyPosts [.iku, .csu] s (s.dispatch a c) := by
  unfold State.dispatch
  split
  · split
    · exact .refl _ _
    · split
      · exact (beatSample_touches _ _ _ _ _ _ _).onlyPosts (by decide)
      · exact .refl _ _
  · exact (recallEntries_onlyPosts _ _).mono (by decide)
  · split
    · exact .refl _ _
    · exact (react_onlyPosts _ _).mono (by decide)
  · exact takeCue_onlyPosts _ _ _

theorem validate_onlyPosts (a : Accepted) (s : State) : OnlyPosts [.iku, .csu] s (s.validate a) := by
  unfold State.validate
  split
  · exact malformed_onlyPosts _ _
  · exact dispatch_onlyPosts _ _ _

/-- Past its gate a frame comes to the AGU's samples, the counts, the schedule and the lines, and the IKU and the CSU post. -/
theorem gate_leaves (a : Accepted) (s : State) :
    Touches [.agu, .iku, .csu, .clu, .notices, .posted, .spent, .draws] s (s.gate a)
      ∧ OnlyPosts [.iku, .csu] s (s.gate a) := by
  unfold State.gate
  split
  · exact ⟨validate_touches a s, validate_onlyPosts a s⟩
  · split
    · exact ⟨validate_touches a s, validate_onlyPosts a s⟩
    · exact ⟨.refl _ _, .refl _ _⟩
  · exact ⟨.refl _ _, .refl _ _⟩

/-- While LISTENING only a BEAT passes the gate (R88). -/
theorem gate_of_other {a : Accepted} {s : State} (listening : s.stc.station = .listening) (other : a.frame.cls ≠ .beat) :
    s.gate a = s := by
  rw [State.gate, listening]
  exact if_neg other

/-- A frame of this station's id that it did not send is a clash, and no heard report (R28, R48, R87). -/
theorem intake_of_clash {a : Accepted} {s : State} (other : a.own = false) (online : s.stc.station ≠ .offline)
    (same : a.frame.station = s.stc.config.id) : s.intake a = (Claims.clashReported s).gate a := by
  have clash : s.isClash a = true := by simp [State.isClash, other, same, online]
  have notHeard : s.idClash.isHeard a = false := by
    simp [State.isHeard, other, same, ((idClash_touches s).stc (by decide)).2.2]
  rw [State.intake, if_pos clash, notHeard, if_neg Bool.false_ne_true, idClash_eq]

/-! ## The notices of the FCU (R22, R28) -/

theorem isFaultOrClash_poster (b : NoticeBody) (kind : Claims.isFaultOrClash b = true) : b.poster = .fcu := by
  cases b with
  | faultState => rfl
  | peer what id =>
    cases what with
    | idClash => rfl
    | _ => cases kind
  | _ => cases kind

/-- An acceptance posts FAULT_STATE where the fault state changes. -/
theorem acceptanceReported_posts {kinds : NoticeBody → Bool} (own : ∀ b, kinds b = true → b.poster = .fcu)
    (all : ∀ old new, kinds (.faultState old new) = true) (s : State) :
    Claims.posts kinds s (Claims.acceptanceReported s)
      (Claims.noticesAt s.micros
        (if (Claims.fcuAfterAcceptance s).state = s.fcu.state then []
        else [.faultState s.fcu.state (Claims.fcuAfterAcceptance s).state])) := by
  unfold Claims.acceptanceReported
  dsimp only
  split
  · exact fun _ => (List.append_nil _).symm
  · have posted := post_posts own (.faultState s.fcu.state (Claims.fcuAfterAcceptance s).state)
      ((s.setFcu (Claims.fcuAfterAcceptance s)).setLiu { s.liu with holdOff := false })
    rwa [if_pos (all _ _)] at posted

/-- A clash posts ID_CLASH, and behind it FAULT_STATE of a station not BARRED yet. -/
theorem clashReported_posts (s : State) :
    Claims.posts Claims.isFaultOrClash s (Claims.clashReported s)
        (Claims.noticesAt s.micros
          (.peer .idClash s.stc.config.id :: if s.fcu.state = .barred then [] else [.faultState s.fcu.state .barred]))
      ∧ s.lpu.notices.length ≤ (Claims.clashReported s).lpu.notices.length := by
  have first := post_posts isFaultOrClash_poster (.peer .idClash s.stc.config.id) s
  have more := (post_length (.peer .idClash s.stc.config.id) s).1
  unfold Claims.clashReported
  dsimp only
  split
  · exact ⟨first, more⟩
  · let barred := ((s.post (.peer .idClash s.stc.config.id)).setFcu
      { s.fcu with state := .barred, spans := 0, run := 0, owed := 0, recovery := none, timeReached := false }).setLiu
        { s.liu with holdOff := false }
    have second := post_posts isFaultOrClash_poster (.faultState s.fcu.state .barred) barred
    have behind := (post_length (.faultState s.fcu.state .barred) barred).1
    have now : barred.micros = s.micros := post_micros _ _
    rw [now] at second
    exact ⟨posts_trans (t := barred) behind first second, more.trans behind⟩

/-! ## FCU and LIU -/

/-- A clash keeps the score, and bars a station that is not BARRED yet (R28). -/
theorem clashReported_fcu (s : State) :
    (Claims.clashReported s).fcu =
      if s.fcu.state = .barred then s.fcu
      else { s.fcu with state := .barred, spans := 0, run := 0, owed := 0, recovery := none, timeReached := false } := by
  unfold Claims.clashReported
  dsimp only
  split <;> simp

/-- A hold-off ends where a station is barred (R24). -/
theorem clashReported_liu (s : State) :
    (Claims.clashReported s).liu = if s.fcu.state = .barred then s.liu else { s.liu with holdOff := false } := by
  unfold Claims.clashReported
  dsimp only
  split <;> simp

/-- A hold-off ends where an acceptance changes the fault state (R24). -/
theorem acceptanceReported_liu (s : State) :
    (Claims.acceptanceReported s).liu =
      if (Claims.fcuAfterAcceptance s).state = s.fcu.state then s.liu else { s.liu with holdOff := false } := by
  unfold Claims.acceptanceReported
  dsimp only
  split <;> simp

theorem clashReported_touches (s : State) :
    Touches [.fcu, .holdOff, .notices, .posted] s (Claims.clashReported s) := idClash_eq s ▸ idClash_touches s

/-- The bits of the frame, which only a SILENCED station counts, leave score and fault state to the acceptance (R21, R26). -/
theorem fcuAfterAcceptance_runSince (n : Nat) (s : State) :
    (Claims.fcuAfterAcceptance (s.setFcu (Claims.runSince n s))).score = (Claims.fcuAfterAcceptance s).score
      ∧ (Claims.fcuAfterAcceptance (s.setFcu (Claims.runSince n s))).state = (Claims.fcuAfterAcceptance s).state
      ∧ (Claims.runSince n s).state = s.fcu.state := by
  unfold Claims.runSince
  split
  · rename_i silenced
    simp [Claims.fcuAfterAcceptance, silenced]
  · exact ⟨rfl, rfl, rfl⟩

/-- An acceptance neither bars a station nor ends its being BARRED (R21, R28). -/
theorem fcuAfterAcceptance_barred_iff (s : State) :
    (Claims.fcuAfterAcceptance s).state = .barred ↔ s.fcu.state = .barred := by
  unfold Claims.fcuAfterAcceptance
  cases state : s.fcu.state with
  | active | guarded => dsimp only; split <;> simp [state]
  | silenced | barred => simp [state]

/-- The reception of a frame before its gate, part by part (R14, R15, R26). -/
theorem receptionReported_fcu (f : Frame) (ack : Bool) (s : State) :
    (Claims.receptionReported f ack s).fcu =
      Claims.fcuAfterAcceptance (s.setFcu (Claims.runSince (Claims.quietTail f ack) s)) :=
  acceptanceReported_fcu _

theorem receptionReported_liu (f : Frame) (ack : Bool) (s : State) :
    (Claims.receptionReported f ack s).liu =
      { s.liu with
        state := .spacing
        holdOff := decide ((Claims.fcuAfterAcceptance s).state = s.fcu.state) && s.liu.holdOff } := by
  obtain ⟨-, after, before⟩ := fcuAfterAcceptance_runSince (Claims.quietTail f ack) s
  unfold Claims.receptionReported
  dsimp only
  rw [setLiu_liu, acceptanceReported_liu, setFcu_fcu, after, before]
  split <;> simp_all

theorem receptionReported_posts (f : Frame) (ack : Bool) (s : State) :
    Claims.posts Claims.isFaultOrClash s (Claims.receptionReported f ack s)
      (Claims.noticesAt s.micros
        (if (Claims.fcuAfterAcceptance s).state = s.fcu.state then []
        else [.faultState s.fcu.state (Claims.fcuAfterAcceptance s).state])) := by
  obtain ⟨-, after, before⟩ := fcuAfterAcceptance_runSince (Claims.quietTail f ack) s
  have posted := acceptanceReported_posts isFaultOrClash_poster (fun _ _ => rfl)
    (s.setFcu (Claims.runSince (Claims.quietTail f ack) s))
  rwa [setFcu_fcu, after, before] at posted

/-- A BARRED station's FCU takes no acceptance (R21). -/
theorem fcuAfterAcceptance_of_barred {s : State} (barred : s.fcu.state = .barred) : Claims.fcuAfterAcceptance s = s.fcu := by
  simp [Claims.fcuAfterAcceptance, barred]

/-- An accepted frame that clashes: its reception, the clash, and its gate (R14, R28, R87). -/
theorem acceptance_of_clash {f : Frame} {ack : Bool} {s : State} (receiving : s.liu.state = .receiving)
    (online : s.stc.station ≠ .offline) (same : f.station = s.stc.config.id) (ok : s.FaultOk) :
    exec (.acceptance f ack) s = .next ((Claims.clashReported (Claims.receptionReported f ack s)).gate
      { frame := f, own := false, capture := s.captureTime }) := by
  obtain ⟨station, -, config⟩ := (receptionReported_touches f ack ok).stc (by decide)
  rw [acceptance_of_receiving f ack receiving, State.acceptReceived, receptionReported_eq ok,
    intake_of_clash rfl (by rwa [station]) (by rwa [config])]

theorem clashBarsStation : Claims.ClashBarsStation := by
  intro f ack s receiving online same ok accepted barred
  have reported := receptionReported_touches f ack ok
  have clashed := clashReported_touches (Claims.receptionReported f ack s)
  obtain ⟨gated, others⟩ := gate_leaves { frame := f, own := false, capture := s.captureTime }
    (Claims.clashReported (Claims.receptionReported f ack s))
  obtain ⟨score, after, before⟩ := fcuAfterAcceptance_runSince (Claims.quietTail f ack) s
  have stc := reported.stc_eq (by decide)
  have state : (Claims.receptionReported f ack s).fcu.state = accepted.state := by rw [receptionReported_fcu, after]
  have bars : accepted.state = .barred ↔ s.fcu.state = .barred := fcuAfterAcceptance_barred_iff s
  have behind := clashReported_posts (Claims.receptionReported f ack s)
  have now : (Claims.receptionReported f ack s).micros = s.micros := rfl
  refine ⟨_, acceptance_of_clash receiving online same ok, ?_, ?_, ?_, ?_, ?_, ?_, ?_, ?_⟩
  · rw [gated.fcu (by decide), clashReported_fcu, state, receptionReported_fcu]
    by_cases is : s.fcu.state = .barred
    · have none : Claims.runSince (Claims.quietTail f ack) s = s.fcu := if_neg (by simp [is])
      simp only [barred, bars, is, if_true, decide_true]
      rw [none, setFcu_self, fcuAfterAcceptance_of_barred is]
    · simp [barred, bars, is, score, accepted]
  · rw [gated.liu_eq (by decide), clashReported_liu, state, receptionReported_liu]
    by_cases is : s.fcu.state = .barred
    · simp [barred, is, accepted, fcuAfterAcceptance_of_barred is]
    · simp [barred, bars, is]
  · refine posts_of_onlyPosts isFaultOrClash_poster ?_ others
    have posted := posts_trans behind.2 (receptionReported_posts f ack s) behind.1
    rw [now, stc, state] at posted
    by_cases is : s.fcu.state = .barred
    · simpa [barred, is, accepted, fcuAfterAcceptance_of_barred is, Claims.noticesAt] using posted
    · simpa [barred, bars, is, Claims.noticesAt] using posted
  · exact (gated.btu (by decide)).trans (clashed.btu (by decide))
  · exact (gated.stc_eq (by decide)).trans ((clashed.stc_eq (by decide)).trans stc)
  · exact (gated.sq (by decide)).trans ((clashed.sq (by decide)).trans (reported.sq (by decide)))
  · exact (gated.mku (by decide)).trans ((clashed.mku (by decide)).trans (reported.mku (by decide)))
  · exact (gated.pending (by decide)).trans ((clashed.pending (by decide)).trans (reported.pending (by decide)))

/-- An acceptance at an ACTIVE station whose score lies below GUARDED (R21, R22). -/
theorem reportAcceptance_of_active {s : State} (active : s.fcu.state = .active) (low : s.fcu.score ≤ 95) :
    s.reportAcceptance = s.setFcu { s.fcu with score := s.fcu.score - 1 } := by
  have stays : faultStateFor .active (s.fcu.score - 1) = .active := if_pos (by omega)
  have counted : scoreAfterAcceptance .active s.fcu.score = s.fcu.score - 1 := rfl
  rw [State.reportAcceptance, scoreTo_eq, active, counted, stays, if_neg (by simp), changeFault_setFcu, if_pos active]

/-- A station barred, with its two notices behind the writes. -/
theorem clashReported_of_not_barred {s : State} (other : s.fcu.state ≠ .barred) :
    Claims.clashReported s =
      (((s.setFcu
              { s.fcu with state := .barred, spans := 0, run := 0, owed := 0, recovery := none, timeReached := false }).setLiu
          { s.liu with holdOff := false }).post (.peer .idClash s.stc.config.id)).post (.faultState s.fcu.state .barred) := by
  rw [Claims.clashReported, if_neg other]
  simp only [setLiu_post, setFcu_post]

theorem clashWhileListening : Claims.ClashWhileListening := by
  intro f ack s receiving listening mark same active low
  have quiet : s.sampled (lineBits f ack) = s := sampled_of_not_silenced (by simp [active]) _
  have online : s.stc.station ≠ .offline := by simp [listening]
  rw [acceptance_of_receiving f ack receiving, State.acceptReceived, quiet, reportAcceptance_of_active active low,
    intake_of_clash rfl (by exact online) (by exact same),
    gate_of_other (by exact ((clashReported_touches _).stc (by decide)).1.trans listening) (by simp [mark]),
    clashReported_of_not_barred (by exact fun barred => nomatch active.symm.trans barred)]
  rw [← active]
  rfl

/-- Settles O36: the acceptance reported, the clash, and the gate, past which the FCU posts nothing. -/
theorem idClashBarsStation : Obligations.IdClashBarsStation := ⟨clashBarsStation, clashWhileListening⟩

end Sys2Proof.Machine
end

section
/-! SUPPORT. The CSU's step handling (O41): firings and late occurrences in the statements' words, and distances across a step of bus time. -/

namespace Sys2Proof.Machine

/-! ## Firings (R107, R108, R125) -/

/-- An action that may act is applied, or overlaps a pulse (R122, R123). -/
theorem apply_not_suppressed (now : Micros) (action : Action) (width : Option (BitVec 16)) (l : Line) :
    (l.apply now action width).2 ≠ .suppressed := by
  unfold Line.apply
  cases action with
  | set | clear | note => nofun
  | toggle | pulse => dsimp only; split <;> nofun

/-- An action is suppressed exactly on a line that may not act (R121). -/
theorem act_suppressed_iff (told : SyncState) (now : Micros) (action : Action) (width : Option (BitVec 16)) (l : Line) :
    (l.act told now action width).2 = .suppressed ↔ l.mayNotAct told = true := by
  unfold Line.act
  split
  · simp [*]
  · simp [*, apply_not_suppressed]

/-- A pulse end is reached where its distance is 0, or 2^31 µs or more (R33). -/
theorem endsNow_eq (now : Micros) (l : Line) :
    l.endsNow now = l.pulse.any fun stop => decide ((stop - now).toNat = 0 ∨ 2 ^ 31 ≤ (stop - now).toNat) := by
  unfold Line.endsNow
  congr 1
  funext stop
  rw [Bool.eq_iff_iff, reached_iff, decide_eq_true_iff, Claims.ahead]
  omega

/-- An action handed to a line: the line, and the pulse-end event that it leaves nothing to do (R125). -/
theorem actOnLine_eq (line : Fin 8) (action : Action) (width : Option (BitVec 16)) (s : State) :
    let l := s.clu.lines[line]
    let r := l.act s.clu.told s.micros action width
    s.actOnLine line action width =
      ((s.setClu { s.clu with lines := s.clu.lines.set line r.1 }).setSpent
          (if r.2 ≠ .suppressed
              ∧ (l.pulse.any fun stop =>
                decide ((stop - s.micros).toNat = 0 ∨ 2 ^ 31 ≤ (stop - s.micros).toNat)) = true then
            .pulseEnd line :: s.spent
          else s.spent),
        r.2) := by
  intro l r
  have spends : l.spendsEnd s.clu.told s.micros = true ↔ r.2 ≠ .suppressed
      ∧ (l.pulse.any fun stop => decide ((stop - s.micros).toNat = 0 ∨ 2 ^ 31 ≤ (stop - s.micros).toNat)) = true := by
    rw [Line.spendsEnd, Bool.and_eq_true, endsNow_eq, ne_eq, act_suppressed_iff, Bool.not_eq_true', Bool.not_eq_true]
  unfold State.actOnLine State.spend
  simp only [spends, l, r]
  split <;> rfl

/-- NOTE and target NONE are handed to no line (R107). -/
theorem handOver_eq (e : Entry) (s : State) :
    s.handOver e =
      match e.target with
      | some line => if e.action = .note then (s, .applied) else s.actOnLine line e.action e.width
      | none => (s, .applied) := by
  unfold State.handOver
  cases e.target <;> cases e.action <;> rfl

/-- The notice that a line's result brings (R108). -/
theorem firingNotice_eq (late : Bool) (e : Entry) (acted : State × LineResult) :
    (match firingNotice late e.notify acted.2 with
      | some kind => acted.1.post (e.notice kind 0)
      | none => acted.1) =
      match acted.2 with
      | .applied =>
        if late then acted.1.post (.schedule .firedLate e.key e.target 0)
        else if e.notify then acted.1.post (.schedule .fired e.key e.target 0)
        else acted.1
      | .suppressed => acted.1.post (.schedule .suppressed e.key e.target 0)
      | .overlap => acted.1.post (.schedule .overlap e.key e.target 0) := by
  obtain ⟨s, result⟩ := acted
  cases result with
  | applied => cases late <;> cases notify : e.notify <;> simp only [firingNotice] <;> rfl
  | suppressed | overlap => rfl

/-- A firing, as the statements have it. -/
theorem fire_eq (late : Bool) (e : Entry) (s : State) : (s.fire late e).1 = Claims.fired late e s := by
  have handed := handOver_eq e s
  refine (firingNotice_eq late e (s.handOver e)).trans ?_
  unfold Claims.fired
  cases target : e.target with
  | none => simp only [handed, target]
  | some line =>
    simp only [target] at handed
    by_cases note : e.action = .note
    · simp only [handed, if_pos note]
    · simp only [handed, if_neg note, actOnLine_eq] <;> rfl

/-! ## Late occurrences (R103, R110, R114) -/

/-- The re-entry of an entry with a repeat: its first occurrence ahead, unless none is left (R110). -/
theorem reentry_of_repeat {e : Entry} {r : Repeat} (rpt : e.rpt = some r) (lateness : Nat) :
    let k := lateness / r.period + 1
    e.reentry lateness =
      if r.count ≠ 0 ∧ r.count ≤ k then none
      else some { e with due := e.due + BitVec.ofNat 32 (k * r.period), rpt := some { r with count := r.count - k } } := by
  intro k
  unfold Entry.reentry nextOccurrence
  rw [rpt]
  by_cases forever : r.count = 0
  · obtain ⟨period, count⟩ := r
    obtain rfl : count = 0 := forever
    simp [k, occurrencesPassed, laterBy]
  · by_cases last : r.count ≤ k
    · simp [forever, k, occurrencesPassed, last]
    · simp [forever, k, occurrencesPassed, last, laterBy]

/-- MISSED for the occurrences that a repeat passed and did not make (R110). -/
theorem postMissed_of_repeat {e : Entry} {r : Repeat} (rpt : e.rpt = some r) (lateness : Nat) (made : Bool) (s : State) :
    let k := lateness / r.period + 1
    let c := if r.count ≠ 0 ∧ r.count < k then r.count else k
    let missed := if made then c - 1 else c
    s.postMissed e (occurrencesMissed e.rpt lateness made) =
      if 1 ≤ missed then s.post (.schedule .missed e.key e.target (min 65535 missed)) else s := by
  intro k c missed
  have count : occurrencesMissed e.rpt lateness made = missed := by
    rw [rpt]
    rfl
  rw [count, State.postMissed, State.postIf]
  simp only [decide_eq_true_eq, Entry.notice]

/-- A late occurrence, as the statements have it. -/
theorem lateOccurrence_eq (e : Entry) (lateness : Nat) (s : State) :
    s.lateOccurrence e lateness = Claims.lateHandled e lateness s := by
  have late : (s.fire true e).2 = { e with late := true } := rfl
  unfold State.lateOccurrence Claims.lateHandled
  by_cases made : lateness ≤ s.stc.config.lateWindow
  · rw [if_pos made]
    dsimp only
    rw [late, fire_eq]
    cases rpt : e.rpt with
    | none => simp [made, occurrencesMissed, State.postMissed, State.postIf, Entry.reentry, nextOccurrence]
    | some r =>
      have again := reentry_of_repeat (e := { e with late := true }) rpt lateness
      have missed := postMissed_of_repeat rpt lateness true
      rw [rpt] at missed again
      simp only [missed, again, made]
      simp
  · rw [if_neg made]
    cases rpt : e.rpt with
    | none => simp [made, rpt, occurrencesMissed, State.postMissed, State.postIf, Entry.notice, Entry.reentry, nextOccurrence]
    | some r =>
      have again := reentry_of_repeat rpt lateness
      have missed := postMissed_of_repeat rpt lateness false
      rw [rpt] at missed
      simp only [missed, again, made]
      simp

/-! ## Step handling (R114, R115) -/

theorem takeReached_eq (e : Entry) (s : State) :
    s.takeReached e =
      let done := Claims.lateHandled e (s.micros - e.due).toNat s
      match done.2 with
      | some again =>
        done.1.setCsu { done.1.csu with schedule := insertEntry done.1.aheadNow again done.1.csu.schedule }
      | none => done.1 := by
  rw [State.takeReached, lateOccurrence_eq]
  rfl

theorem stepHandling : Claims.StepHandling := by
  refine ⟨fun s => takeWord_of_none, fun s forward => ?_, fun s backward => ?_⟩
  · have each : State.takeReached = fun t e => _ := funext fun t => funext fun e => takeReached_eq e t
    rw [State.takeWord, forward, State.forwardSchedule, each]
    rfl
  · rw [State.takeWord, backward]
    rfl

/-- The distance ahead of a bus time, by its µs part (R32, R33). -/
theorem sub_microsOf_toNat (t : Micros) (now : BusTime) :
    ((t - microsOf now).toNat : Int) = (t.toNat - now.toNat / 16 : Int) % 2 ^ 32 := by
  have fine := now.isLt
  rw [BitVec.toNat_sub, microsOf, BitVec.toNat_ofNat]
  omega

/-- The µs part after a step, counted on from the old time (R37). -/
theorem add_toNat_div (old : BusTime) (amount : Int) :
    (((old + BitVec.ofInt 36 amount).toNat / 16 : Nat) : Int) = (old.toNat + amount) / 16 % 2 ^ 32 := by
  rw [BitVec.toNat_add, BitVec.toNat_ofInt]
  omega

theorem distanceAfterStepIsExact : Claims.DistanceAfterStepIsExact := by
  intro old due amount near least most now after
  have fine := old.isLt
  have ahead := sub_microsOf_toNat due old
  have later := sub_microsOf_toNat due (old + BitVec.ofInt 36 amount)
  have moved := add_toNat_div old amount
  have change : Claims.microsChange old amount = (old.toNat + amount) / 16 - old.toNat / 16 := rfl
  have read := BitVec.toInt_eq_toNat_cond (due - now)
  have behind : (now - due).toNat = (2 ^ 32 - (due - now).toNat) % 2 ^ 32 := by
    simp only [BitVec.toNat_sub]
    omega
  change ((due - now).toNat : Int) = _ at later
  have short := (due - now).isLt
  refine ⟨fun forward => ⟨?_, fun reached => ?_⟩, fun backward => ?_⟩
  · rw [read]
    simp only [after, change]
    split <;> omega
  · simp only [after, change] at reached ⊢
    omega
  · simp only [after, change]
    omega

end Sys2Proof.Machine
end

section
/-! SUPPORT. A step of bus time (O41): what it moves, and one owner's turn among the orders that the owners may take. -/

namespace Sys2Proof.Machine

/-! ## The lines through a step handling (R107, R114) -/

/-- The CLU from s to t: the sync state as told and the pins stand, and so do the lines that no entry targets. -/
def LinesStand (targets : List Entry) (s t : State) : Prop :=
  t.clu = { s.clu with lines := t.clu.lines }
    ∧ ∀ i : Fin 8, (∀ e ∈ targets, e.target ≠ some i) → t.clu.lines[i] = s.clu.lines[i]

theorem LinesStand.of_clu {targets : List Entry} {s t : State} (same : t.clu = s.clu) : LinesStand targets s t := by
  unfold LinesStand
  rw [same]
  exact ⟨rfl, fun _ _ => rfl⟩

theorem LinesStand.trans {targets : List Entry} {s t u : State} (h : LinesStand targets s t) (k : LinesStand targets t u) :
    LinesStand targets s u := by
  obtain ⟨whole, lines⟩ := h
  obtain ⟨whole', lines'⟩ := k
  refine ⟨?_, fun i other => (lines' i other).trans (lines i other)⟩
  rw [whole', whole]

/-- An entry handed over moves no line but its target. -/
theorem handOver_linesStand {targets : List Entry} {e : Entry} (among : e ∈ targets) (s : State) :
    LinesStand targets s (s.handOver e).1 := by
  unfold State.handOver
  split
  · exact .of_clu rfl
  · exact .of_clu rfl
  · rename_i line target _
    have acted : (s.actOnLine line e.action e.width).1.clu =
        { s.clu with
          lines := s.clu.lines.set line (s.clu.lines[line].act s.clu.told s.micros e.action e.width).1 } :=
      (spend_touches _ _ _).clu (by decide)
    unfold LinesStand
    rw [acted]
    refine ⟨rfl, fun i other => ?_⟩
    have apart : line.val ≠ i.val := fun same => other e among (by rw [target, Fin.ext same])
    exact Vector.getElem_set_ne line.isLt i.isLt apart

theorem fire_linesStand {targets : List Entry} (late : Bool) {e : Entry} (among : e ∈ targets) (s : State) :
    LinesStand targets s (s.fire late e).1 := by
  have handed := handOver_linesStand among s
  unfold State.fire
  dsimp only
  split
  · exact handed.trans (.of_clu (post_clu _ _))
  · exact handed

theorem takeReached_linesStand {targets : List Entry} {e : Entry} (among : e ∈ targets) (s : State) :
    LinesStand targets s (s.takeReached e) := by
  have missed : ∀ n u, LinesStand targets u (u.postMissed e n) := fun n u =>
    .of_clu ((postMissed_touches e n u).clu (by decide))
  have done : LinesStand targets s (s.lateOccurrence e (distance s.micros e.due)).1 := by
    unfold State.lateOccurrence
    split
    · exact (fire_linesStand true among s).trans (missed _ _)
    · exact missed _ _
  unfold State.takeReached
  dsimp only
  split
  · exact done.trans (.of_clu rfl)
  · exact done

/-- A step handling acts on the lines that entries of the schedule target. -/
theorem takeWord_linesStand (s : State) : LinesStand s.csu.schedule s s.takeWord := by
  have fold : ∀ (l : List Entry) (f : State → Entry → State) (u : State),
      (∀ e ∈ l, ∀ v, LinesStand s.csu.schedule v (f v e)) → LinesStand s.csu.schedule u (l.foldl f u) := by
    intro l f
    induction l with
    | nil => exact fun u _ => .of_clu rfl
    | cons e rest ih =>
      intro u each
      exact (each e (List.mem_cons_self ..) u).trans (ih _ fun x m => each x (List.mem_cons_of_mem _ m))
  unfold State.takeWord
  split
  · exact .of_clu rfl
  · exact LinesStand.trans (t := State.setSchedule _ _) (.of_clu rfl)
      (fold _ _ _ fun e m v => takeReached_linesStand (List.mem_of_mem_filter m) v)
  · exact LinesStand.trans (t := State.setSchedule _ _) (.of_clu rfl)
      (fold _ _ _ fun e _ v => .of_clu (post_clu _ _))

/-! ## The orders of the owners (assumption 5) -/

section Reexamine

variable {R : State → State → Prop} (refl : ∀ u, R u u) (trans : ∀ {u v w}, R u v → R v w → R u w)
  (order : Nat) (old : Micros) (change : Int) (s : State)
include refl trans

/-- The SQ takes the word once, and before and behind it only the CSU and the FCU act. -/
theorem reexamine_around_sq (word : ∀ u : State, R u u.takeWord) (fault : ∀ u : State, R u (u.reexamineFcu old change)) :
    ∃ u, R s u ∧ R (u.reexamineSq old change) (s.reexamine order old change) := by
  unfold State.reexamine
  split
  · exact ⟨_, word _, fault _⟩
  · exact ⟨_, trans (word _) (fault _), refl _⟩
  · exact ⟨_, refl _, trans (word _) (fault _)⟩
  · exact ⟨_, refl _, trans (fault _) (word _)⟩
  · exact ⟨_, trans (fault _) (word _), refl _⟩
  · exact ⟨_, fault _, word _⟩
  · exact ⟨_, refl _, fault _⟩
  · exact ⟨_, fault _, refl _⟩

/-- The FCU takes the word once, and before and behind it only the CSU and the SQ act. -/
theorem reexamine_around_fcu (word : ∀ u : State, R u u.takeWord) (queue : ∀ u : State, R u (u.reexamineSq old change)) :
    ∃ u, R s u ∧ R (u.reexamineFcu old change) (s.reexamine order old change) := by
  unfold State.reexamine
  split
  · exact ⟨_, trans (word _) (queue _), refl _⟩
  · exact ⟨_, word _, queue _⟩
  · exact ⟨_, trans (queue _) (word _), refl _⟩
  · exact ⟨_, queue _, word _⟩
  · exact ⟨_, refl _, trans (word _) (queue _)⟩
  · exact ⟨_, refl _, trans (queue _) (word _)⟩
  · exact ⟨_, queue _, refl _⟩
  · exact ⟨_, refl _, queue _⟩

/-- The CSU makes its step handling once, with only the SQ and the FCU before and behind it, or leaves it for later. -/
theorem reexamine_around_csu (queue : ∀ u : State, R u (u.reexamineSq old change))
    (fault : ∀ u : State, R u (u.reexamineFcu old change)) :
    R s (s.reexamine order old change) ∨ ∃ u, R s u ∧ R u.takeWord (s.reexamine order old change) := by
  unfold State.reexamine
  split
  · exact .inr ⟨_, refl _, trans (queue _) (fault _)⟩
  · exact .inr ⟨_, refl _, trans (fault _) (queue _)⟩
  · exact .inr ⟨_, queue _, fault _⟩
  · exact .inr ⟨_, trans (queue _) (fault _), refl _⟩
  · exact .inr ⟨_, fault _, queue _⟩
  · exact .inr ⟨_, trans (fault _) (queue _), refl _⟩
  · exact .inl (trans (queue _) (fault _))
  · exact .inl (trans (fault _) (queue _))

end Reexamine

/-! ## What a step moves (R37, R38, R41) -/

/-- The state at which the owners of a step take its word. -/
def State.stepTold (amount : Int) (s : State) : State :=
  ((s.stampAttempt.moveLocal amount (microsChange s.btu.time amount)).setWord (some (wordOf amount))).drawn

theorem stepTime_eq {amount : Int} (moves : amount ≠ 0) (s : State) :
    s.stepTime amount =
      (s.stepTold amount).reexamine (Config.reexamineOrder s.draws) s.micros (microsChange s.btu.time amount) :=
  if_neg moves

theorem atPayload_iff (a : Attempt) (t : BitTiming) : t.atPayload a.frame = true ↔ Claims.payloadBegins a t := by
  rw [BitTiming.atPayload, decide_eq_true_iff, payloadStart_eq]
  rfl

/-- The stamp of the BEAT being sent, as a step finds it (R41). -/
theorem stampAttempt_attempt (s : State) :
    s.stampAttempt.liu.attempt = s.liu.attempt.map (Claims.stampedBy s.btu.capture fun a =>
      decide (s.liu.state = .sending)
        && (Claims.payloadBegun a s.liu.timing || (Config.stampCopied s.draws && s.liu.timing.atPayload a.frame))) := by
  change s.liu.attempt.map _ = _
  congr 1
  funext a
  simp only [← inPayload_eq]
  exact stamped_eq s.btu.capture (fun a => decide (s.liu.state = .sending)
    && (s.liu.timing.inPayload a.frame || (Config.stampCopied s.draws && s.liu.timing.atPayload a.frame))) a

/-- Whether a stamp is copied is read of the attempt itself. -/
theorem stampedBy_congr {capture : Option Capture} {due due' : Attempt → Bool} {a : Attempt} (same : due a = due' a) :
    Claims.stampedBy capture due a = Claims.stampedBy capture due' a := by
  rw [← stamped_eq, ← stamped_eq, same]

/-- The LIU but for its attempt and its hold-off. -/
theorem Touches.liu_eq_but {bs : List Part} {s t : State} (h : Touches bs s t) (apart : .liu ∉ bs ∧ .timing ∉ bs) :
    t.liu = { s.liu with attempt := t.liu.attempt, holdOff := t.liu.holdOff } := by
  obtain ⟨state, -, settings, ended⟩ := h.liu apart.1
  have timing := h.timing apart.2
  cases l : t.liu
  cases m : s.liu
  simp_all

/-- The AGU but for its pending BEAT. -/
theorem Touches.agu_eq_but {bs : List Part} {s t : State} (h : Touches bs s t) (apart : .agu ∉ bs) :
    t.agu = { s.agu with pendingBeat := t.agu.pendingBeat } :=
  congrArg (fun a : AguState => { a with pendingBeat := t.agu.pendingBeat }) (h.agu apart)

/-- The owners of a step leave what it has moved but for the lines that the CSU acts on. -/
theorem stepTime_told (amount : Int) (s : State) (moves : amount ≠ 0) :
    Touches [.holdOff, .fcu, .pendingBeat, .sq, .csu, .clu, .notices, .posted, .spent] (s.stepTold amount)
        (s.stepTime amount)
      ∧ LinesStand s.csu.schedule (s.stepTold amount) (s.stepTime amount) := by
  rw [stepTime_eq moves]
  refine ⟨reexamine_touches _ _ _ _, ?_⟩
  obtain still | ⟨u, ⟨clu, csu⟩, ⟨clu', -⟩⟩ :=
    reexamine_around_csu (R := fun u v => v.clu = u.clu ∧ v.csu = u.csu) (fun _ => ⟨rfl, rfl⟩)
      (fun h k => ⟨k.1.trans h.1, k.2.trans h.2⟩) (Config.reexamineOrder s.draws) s.micros (microsChange s.btu.time amount)
      (s.stepTold amount)
      (fun u => ⟨(reexamineSq_touches _ _ u).clu (by decide), (reexamineSq_touches _ _ u).csu (by decide)⟩)
      (fun u => ⟨(reexamineFcu_touches _ _ u).clu (by decide), (reexamineFcu_touches _ _ u).csu (by decide)⟩)
  · exact .of_clu still.1
  · have handled := takeWord_linesStand u
    rw [csu] at handled
    exact (LinesStand.of_clu clu).trans (handled.trans (.of_clu clu'))

theorem stepMovesTimes : Claims.StepMovesTimes := by
  refine ⟨fun s => if_pos rfl, fun amount s moves => ?_⟩
  obtain ⟨told, lines⟩ := stepTime_told amount s moves
  have attempt : (s.stepTime amount).liu.attempt = s.stampAttempt.liu.attempt := told.attempt_eq (by decide)
  refine ⟨told.btu (by decide), fun i others => ?_, lines.1, fun i => ?_, ?_, told.stc_eq (by decide),
    told.iku (by decide), told.agu_eq_but (by decide), told.pending (by decide), told.liu_eq_but (by decide),
    fun none => ?_, fun a held begins => ?_⟩
  · exact (lines.2 i others).trans (getElem_mapVector (Line.moved (microsChange s.btu.time amount)) s.clu.lines i i.isLt)
  · rw [told.mku (by decide)]
    exact getElem_mapVector _ s.mku.inputs i i.isLt
  · rw [told.mku (by decide)]
    rfl
  · rw [attempt, stampAttempt_attempt]
    refine Option.map_congr fun a held => stampedBy_congr ?_
    by_cases sending : s.liu.state = .sending
    · have later : s.liu.timing.atPayload a.frame = false := by
        rw [← Bool.not_eq_true, atPayload_iff]
        exact fun begins => none ⟨a, held, sending, begins⟩
      rw [later, Bool.and_false, Bool.or_false]
    · simp [sending]
  · have notBegun : Claims.payloadBegun a s.liu.timing = false := by
      obtain ⟨bit, cycle⟩ := begins
      simp [Claims.payloadBegun, bit, cycle]
    rw [attempt, stampAttempt_attempt, held, Option.map_some]
    by_cases copies : s.liu.state = .sending ∧ Config.stampCopied s.draws = true
    · refine .inr ⟨copies.1, congrArg some (stampedBy_congr ?_)⟩
      simp [copies, (atPayload_iff a _).mpr begins]
    · refine .inl (congrArg some ((stampedBy_congr ?_).trans (stampedBy_never s.btu.capture a)))
      by_cases sending : s.liu.state = .sending
      · simp_all
      · simp [sending]

end Sys2Proof.Machine
end

section
/-! SUPPORT. What the SQ and the FCU make of the word of a step, whatever the order of the owners, with their notices (O41). -/

namespace Sys2Proof.Machine

/-! ## Several notices of one block -/

/-- Notices posted one after the other. -/
def State.postAll (bodies : List NoticeBody) (s : State) : State := bodies.foldl (fun s body => s.post body) s

@[simp] theorem postAll_nil (s : State) : s.postAll [] = s := rfl

@[simp] theorem postAll_cons (body : NoticeBody) (rest : List NoticeBody) (s : State) :
    s.postAll (body :: rest) = (s.post body).postAll rest := rfl

theorem postAll_append (first second : List NoticeBody) (s : State) :
    s.postAll (first ++ second) = (s.postAll first).postAll second := List.foldl_append

@[simp] theorem postAll_btu (bodies : List NoticeBody) (s : State) : (s.postAll bodies).btu = s.btu := by
  induction bodies generalizing s with
  | nil => rfl
  | cons body rest ih => rw [postAll_cons, ih, post_btu]

/-- Posting reads the notice queue, what is kept of this cycle's notices, and bus time. -/
theorem postAll_congr {s t : State} (lpu : t.lpu = s.lpu) (posted : t.posted = s.posted) (now : t.micros = s.micros)
    (bodies : List NoticeBody) :
    (t.postAll bodies).lpu = (s.postAll bodies).lpu ∧ (t.postAll bodies).posted = (s.postAll bodies).posted := by
  induction bodies generalizing s t with
  | nil => exact ⟨lpu, posted⟩
  | cons body rest ih =>
    obtain ⟨lpu', posted'⟩ := post_congr lpu posted now body
    exact ih lpu' posted' (by rw [post_micros, post_micros, now])

/-- Notices of kinds of one block, posted in one event (R155). -/
theorem postAll_posts {kinds : NoticeBody → Bool} {p : Poster} (own : ∀ b, kinds b = true → b.poster = p)
    {bodies : List NoticeBody} (all : ∀ b ∈ bodies, kinds b = true) (s : State) :
    Claims.posts kinds s (s.postAll bodies) (Claims.noticesAt s.micros bodies)
      ∧ s.lpu.notices.length ≤ (s.postAll bodies).lpu.notices.length := by
  induction bodies generalizing s with
  | nil => exact ⟨fun _ => (List.append_nil _).symm, le_rfl⟩
  | cons body rest ih =>
    obtain ⟨here, others⟩ := List.forall_mem_cons.mp all
    obtain ⟨behind, more⟩ := ih others (s.post body)
    have first := post_posts own body s
    rw [if_pos here] at first
    rw [post_micros] at behind
    exact ⟨posts_trans more first behind, (post_length body s).1.trans more⟩

/-- Where none has been lost each notice posted waits. -/
theorem postAll_length (bodies : List NoticeBody) {s : State} (room : (s.postAll bodies).lpu.notices.length < 32) :
    (s.postAll bodies).lpu.notices.length = s.lpu.notices.length + bodies.length := by
  induction bodies generalizing s with
  | nil => rfl
  | cons body rest ih =>
    have behind := ih (s := s.post body) room
    rw [postAll_cons] at room ⊢
    obtain ⟨front, back, split, -, eq⟩ := post_of_room body ((post_length body s).2 (by omega))
    rw [behind, eq, split, List.length_cons]
    simp only [List.length_append, List.length_cons]
    omega

/-- Where one block's notices alone wait, and there is room, its next ones stand behind them in order. -/
theorem postAll_of_own {p : Poster} {bodies : List NoticeBody} (all : ∀ b ∈ bodies, b.poster = p) {s : State}
    (own : ∀ n ∈ s.lpu.notices, n.body.poster = p) (room : s.lpu.notices.length + bodies.length ≤ 32) :
    (s.postAll bodies).lpu.notices = s.lpu.notices ++ Claims.noticesAt s.micros bodies := by
  induction bodies generalizing s with
  | nil => exact (List.append_nil _).symm
  | cons body rest ih =>
    obtain ⟨here, others⟩ := List.forall_mem_cons.mp all
    rw [List.length_cons] at room
    obtain ⟨front, back, split, apart, eq⟩ := post_of_room (s := s) body (by omega)
    obtain rfl : back = [] := List.eq_nil_iff_forall_not_mem.mpr fun n m =>
      apart n m ((own n (by rw [split]; exact List.mem_append_right _ m)).trans here.symm)
    rw [List.append_nil] at split
    have behind : (s.post body).lpu.notices = s.lpu.notices ++ [{ posted := s.micros, body := body }] := by rw [eq, split]
    rw [postAll_cons, ih others (s := s.post body) ?_ ?_, behind, post_micros, List.append_assoc]
    · rfl
    · intro n m
      rw [behind, List.mem_append, List.mem_singleton] at m
      obtain old | rfl := m
      · exact own n old
      · exact here
    · rw [behind, List.length_append, List.length_singleton]
      omega

/-! ## The SQ (R80, R84) -/

/-- The SQ takes the word of a step: WAITING records and a WAITING BEAT that it makes out of date leave. -/
theorem reexamineSq_eq (old : Micros) (change : Int) {s : State} (ok : s.QueueOk) :
    let stale := fun t => staleAfterStep t old change
    let u := Claims.allLeft (fun r => decide (r.state = .waiting) && r.stale.any stale) .stale s
    s.reexamineSq old change = u.setSq { u.sq with beat := s.sq.beat.filter fun b => b.inFlight || !stale b.beat.stale } := by
  intro stale u
  obtain ⟨records, pendingBehind, -⟩ := (queueOk_iff s).mp ok
  have which : (fun r : Record => decide (r.state = .waiting) &&
      match r.stale with
      | some t => staleAfterStep t old change
      | none => false) = fun r => decide (r.state = .waiting) && r.stale.any stale := by
    funext r
    cases r.stale <;> rfl
  have left : s.leaveAll (fun r => decide (r.state = .waiting) && r.stale.any stale) .stale = u :=
    leaveAll_eq _ .stale records.slots_nodup
  have pending : u.agu.pendingBeat = s.agu.pendingBeat := left ▸ (leaveAll_touches _ .stale s).pendingBeat (by decide)
  have beat : u.sq.beat = s.sq.beat := rfl
  have taken : s.reexamineSq old change =
      match u.sq.beat with
      | some b => if !b.inFlight && stale b.beat.stale then u.beatLeft else u
      | none => u := by
    rw [← left, ← which]
    rfl
  rw [taken, beat]
  cases held : s.sq.beat with
  | none => exact (setSq_beat_self (beat.trans held)).symm
  | some b =>
    dsimp only
    by_cases leaves : (!b.inFlight && stale b.beat.stale) = true
    · obtain ⟨waits, out⟩ := Bool.and_eq_true_iff.mp leaves
      rw [Bool.not_eq_true'] at waits
      have alone : u.agu.pendingBeat = none := by
        rw [pending]
        by_contra behind
        obtain ⟨x, there, inFlight, -⟩ := pendingBehind (Option.isSome_iff_ne_none.mpr behind)
        obtain rfl : b = x := Option.some.inj (held.symm.trans there)
        exact Bool.false_ne_true (waits.symm.trans inFlight)
      have gone : (b.inFlight || !stale b.beat.stale) = false := by rw [waits, out]; rfl
      rw [if_pos leaves, beatLeft_eq, beatLeft_of_none alone, Option.filter_some, gone, if_neg Bool.false_ne_true]
    · have stays : (b.inFlight || !stale b.beat.stale) = true := by
        cases flies : b.inFlight <;> simp_all
      rw [if_neg leaves, Option.filter_some, stays, if_pos rfl]
      exact (setSq_beat_self (beat.trans held)).symm

/-- Records that leave in one event post their notices, in slot order (R84). -/
theorem allLeft_posts (which : Record → Bool) (how : Completion) (s : State) :
    Claims.posts Claims.isCompletion s (Claims.allLeft which how s)
      (Claims.noticesAt s.micros ((s.sq.records.filter which).map fun r => .sendQueue how r.tag false false)) := by
  have posted := (postAll_posts isCompletion_poster
    (bodies := (s.sq.records.filter which).map fun r => .sendQueue how r.tag false false)
    (by simp only [List.forall_mem_map]; exact fun _ _ => rfl) s).1
  rw [State.postAll, List.foldl_map] at posted
  exact posted

theorem allLeft_agu (which : Record → Bool) (how : Completion) (s : State) : (Claims.allLeft which how s).agu = s.agu := by
  have posts : ∀ (u : State) (r : Record), Touches [.notices, .posted] u (u.post (.sendQueue how r.tag false false)) :=
    fun u r => post_touches _ u
  exact (Touches.foldl posts (s.sq.records.filter which) s).agu_eq (by decide)

theorem reexamineSq_onlyPosts (old : Micros) (change : Int) (s : State) : OnlyPosts [.sq] s (s.reexamineSq old change) := by
  have left : ∀ which how, OnlyPosts [.sq] s (s.leaveAll which how) := fun _ how =>
    .foldl (fun s r => leave_onlyPosts r how false false s) _ _
  have beat : ∀ u : State, OnlyPosts [.sq] u u.beatLeft := fun u => (beatLeft_touches u).onlyPosts (by decide)
  unfold State.reexamineSq
  dsimp only
  split
  · split
    · exact (left _ _).trans (beat _)
    · exact left _ _
  · exact left _ _

/-! ## The FCU (R22, R27) -/

/-- Whether the word of a step returns a station: with 64 spans, where its recovery time is reached now or was before. -/
def FcuState.returnsAt (f : FcuState) (now : Bool) : Bool :=
  decide (f.state = .silenced ∧ f.spans = 64) && (f.timeReached || now)

theorem returnsAt_iff (f : FcuState) (now : Bool) :
    f.returnsAt now = true ↔ f.state = .silenced ∧ f.spans = 64 ∧ (f.timeReached || now) = true := by
  rw [FcuState.returnsAt, Bool.and_eq_true, decide_eq_true_iff, and_assoc]

theorem recoverBy_eq (now : Bool) (s : State) :
    s.recoverBy now =
      if s.fcu.returnsAt now then
        ((s.setFcu Claims.fcuAtRest).setLiu { s.liu with holdOff := false }).post (.faultState .silenced .active)
      else s.setFcu { s.fcu with timeReached := s.fcu.timeReached || now } := by
  unfold State.recoverBy State.tryRecover
  by_cases returns : s.fcu.returnsAt now = true
  · have all := (returnsAt_iff _ _).mp returns
    rw [if_pos returns, if_pos (by exact all), changeFault_setFcu]
    have silenced : (s.noteRecovery (s.fcu.timeReached || now)).fcu.state = .silenced := all.1
    simp only [silenced]
    rfl
  · rw [if_neg returns, if_neg (by exact mt (returnsAt_iff s.fcu now).mpr returns)]
    rfl

theorem recoverBy_fcu (now : Bool) (s : State) :
    (s.recoverBy now).fcu =
      if s.fcu.returnsAt now then Claims.fcuAtRest else { s.fcu with timeReached := s.fcu.timeReached || now } := by
  rw [recoverBy_eq]
  split <;> simp

theorem recoverBy_posts (now : Bool) (s : State) :
    Claims.posts Claims.isFaultState s (s.recoverBy now)
        (Claims.noticesAt s.micros (if s.fcu.returnsAt now then [.faultState .silenced .active] else []))
      ∧ OnlyPosts [.fcu] s (s.recoverBy now) := by
  rw [recoverBy_eq]
  split
  · let back := (s.setFcu Claims.fcuAtRest).setLiu { s.liu with holdOff := false }
    exact ⟨post_posts isFaultState_poster (.faultState .silenced .active) back,
      OnlyPosts.trans (t := back) (.of_notices rfl) (post_onlyPosts (List.mem_singleton.mpr rfl))⟩
  · exact ⟨fun _ => (List.append_nil _).symm, .of_notices rfl⟩

/-! ## SQ and FCU in a step -/

/-- What an operation leaves and which blocks post in it. -/
def Leaves (bs : List Part) (ps : List Poster) (s t : State) : Prop := Touches bs s t ∧ OnlyPosts ps s t

theorem Leaves.refl (bs : List Part) (ps : List Poster) (s : State) : Leaves bs ps s s := ⟨.refl bs s, .refl ps s⟩

theorem Leaves.trans {bs : List Part} {ps : List Poster} {s t u : State} (h : Leaves bs ps s t) (k : Leaves bs ps t u) :
    Leaves bs ps s u := ⟨h.1.trans k.1, h.2.trans k.2⟩

theorem stepTold_queueOk (amount : Int) {s : State} (ok : s.QueueOk) : (s.stepTold amount).QueueOk :=
  queueOk_of_eq ((stampAttempt_touches s).attemptPlace (by decide)) rfl rfl ok

/-- What the SQ makes of a step (R80, R84). -/
theorem stepTime_sq {amount : Int} {s : State} (moves : amount ≠ 0) (ok : s.QueueOk) :
    (s.stepTime amount).sq = Claims.sqAfterStep amount s
      ∧ Claims.posts Claims.isCompletion s (s.stepTime amount)
        (Claims.noticesAt (s.stepTime amount).micros
          ((s.sq.records.filter (Claims.leavesAtStep amount s)).map fun r => .sendQueue .stale r.tag false false))
      ∧ (s.stepTime amount).agu.pendingBeat = s.agu.pendingBeat := by
  obtain ⟨u, ⟨before, only⟩, ⟨after, only'⟩⟩ :=
    reexamine_around_sq (R := Leaves [.holdOff, .fcu, .csu, .clu, .notices, .posted, .spent] [.csu, .fcu])
      (Leaves.refl _ _) Leaves.trans (Config.reexamineOrder s.draws) s.micros (microsChange s.btu.time amount)
      (s.stepTold amount)
      (fun u => ⟨(takeWord_touches u).mono (by decide), (takeWord_onlyPosts u).mono (by decide)⟩)
      (fun u => ⟨(reexamineFcu_touches _ _ u).mono (by decide), (recoverBy_posts _ u).2.mono (by decide)⟩)
  rw [← stepTime_eq moves] at after only'
  have sq : u.sq = s.sq := before.sq (by decide)
  have queue := reexamineSq_touches s.micros (microsChange s.btu.time amount) u
  have now : (s.stepTime amount).micros = u.micros :=
    congrArg (fun b : BtuState => microsOf b.time) ((after.btu (by decide)).trans (queue.btu (by decide)))
  have pending : u.agu.pendingBeat = s.agu.pendingBeat := before.pendingBeat (by decide)
  have left := reexamineSq_eq s.micros (microsChange s.btu.time amount) (before.queueOk (by decide) (stepTold_queueOk amount ok))
  have which : (fun r : Record => decide (r.state = .waiting)
      && r.stale.any fun t => staleAfterStep t s.micros (microsChange s.btu.time amount)) = Claims.leavesAtStep amount s := rfl
  dsimp only at left
  rw [which] at left
  refine ⟨?_, ?_, ?_⟩
  · rw [after.sq (by decide), left]
    simp only [setSq_sq, Claims.sqAfterStep, Claims.allLeft, sq]
    rfl
  · have posted := allLeft_posts (Claims.leavesAtStep amount s) .stale u
    rw [sq] at posted
    have told : OnlyPosts [.csu, .fcu] s u := OnlyPosts.trans (t := s.stepTold amount) (.of_notices rfl) only
    have more := (reexamineSq_onlyPosts s.micros (microsChange s.btu.time amount) u).1
    rw [left] at more only'
    rw [now]
    exact posts_of_onlyPosts isCompletion_poster
      (onlyPosts_posts isCompletion_poster told more (t := u) posted) only'
  · rw [after.pendingBeat (by decide), left, setSq_agu, allLeft_agu, pending]

/-- What the FCU makes of a step (R22, R27). -/
theorem stepTime_fcu {amount : Int} {s : State} (moves : amount ≠ 0) :
    let now := s.fcu.recovery.any fun r =>
      decide (Claims.distanceAfter r s.micros (Claims.microsChange s.btu.time amount) ≤ 0)
    (s.stepTime amount).fcu =
        (if s.fcu.returnsAt now then Claims.fcuAtRest else { s.fcu with timeReached := s.fcu.timeReached || now })
      ∧ Claims.posts Claims.isFaultState s (s.stepTime amount)
        (Claims.noticesAt (s.stepTime amount).micros
          (if s.fcu.returnsAt now then [.faultState .silenced .active] else [])) := by
  intro now
  obtain ⟨u, ⟨before, only⟩, ⟨after, only'⟩⟩ :=
    reexamine_around_fcu (R := Leaves [.pendingBeat, .sq, .csu, .clu, .notices, .posted, .spent] [.csu, .sq])
      (Leaves.refl _ _) Leaves.trans (Config.reexamineOrder s.draws) s.micros (microsChange s.btu.time amount)
      (s.stepTold amount)
      (fun u => ⟨(takeWord_touches u).mono (by decide), (takeWord_onlyPosts u).mono (by decide)⟩)
      (fun u => ⟨(reexamineSq_touches _ _ u).mono (by decide), (reexamineSq_onlyPosts _ _ u).mono (by decide)⟩)
  rw [← stepTime_eq moves] at after only'
  have fcu : u.fcu = s.fcu := before.fcu (by decide)
  have taken : u.reexamineFcu s.micros (microsChange s.btu.time amount) = u.recoverBy now := by
    rw [State.reexamineFcu, fcu]
    rfl
  rw [taken] at after only'
  have micros : (s.stepTime amount).micros = u.micros :=
    congrArg (fun b : BtuState => microsOf b.time) ((after.btu (by decide)).trans ((recoverBy_touches now u).btu (by decide)))
  obtain ⟨posted, others⟩ := recoverBy_posts now u
  have told : OnlyPosts [.csu, .sq] s u := OnlyPosts.trans (t := s.stepTold amount) (.of_notices rfl) only
  rw [fcu] at posted
  refine ⟨by rw [after.fcu (by decide), recoverBy_fcu, fcu], ?_⟩
  rw [micros]
  exact posts_of_onlyPosts isFaultState_poster (onlyPosts_posts isFaultState_poster told others.1 posted) only'

theorem sqAndFcuTakeStep : Claims.SqAndFcuTakeStep := by
  intro amount s moves ok now returns t
  obtain ⟨sq, completions, pending⟩ := stepTime_sq moves ok
  obtain ⟨fcu, posted⟩ := stepTime_fcu (s := s) moves
  exact ⟨sq, completions, pending, fcu, posted⟩

end Sys2Proof.Machine
end

section
/-! SUPPORT. The CSU's step handling is the same, with the same notices, in any state of the same schedule, lines and times (O41). -/

namespace Sys2Proof.Machine

/-! ## Two runs of the CSU side by side -/

/-- Two states agree in what the CSU reads and writes: CSU, CLU, BTU, STC and the expiries spent. -/
structure CsuAlike (s t : State) : Prop where
  csu : t.csu = s.csu
  clu : t.clu = s.clu
  btu : t.btu = s.btu
  stc : t.stc = s.stc
  spent : t.spent = s.spent

theorem CsuAlike.micros {s t : State} (h : CsuAlike s t) : t.micros = s.micros :=
  congrArg (fun b : BtuState => microsOf b.time) h.btu

/-- From s to t these notices are posted, and bus time stands. -/
def Sends (bodies : List NoticeBody) (s t : State) : Prop :=
  t.lpu = (s.postAll bodies).lpu ∧ t.posted = (s.postAll bodies).posted ∧ t.btu = s.btu

theorem Sends.trans {first second : List NoticeBody} {s t u : State} (h : Sends first s t) (k : Sends second t u) :
    Sends (first ++ second) s u := by
  obtain ⟨lpu, posted, btu⟩ := h
  obtain ⟨lpu', posted', btu'⟩ := k
  have now : t.micros = (s.postAll first).micros := by simp [State.micros, btu]
  obtain ⟨sameLpu, samePosted⟩ := postAll_congr lpu posted now second
  rw [← postAll_append] at sameLpu samePosted
  exact ⟨lpu'.trans sameLpu, posted'.trans samePosted, btu'.trans btu⟩

/-- Side by side, from s to s' and from t to t', the CSU does the same and posts the same schedule notices. -/
def CsuTogether (s s' t t' : State) : Prop :=
  CsuAlike s' t' ∧ ∃ bodies, (∀ b ∈ bodies, Claims.isSchedule b = true) ∧ Sends bodies s s' ∧ Sends bodies t t'

/-- Writes that post nothing keep two alike states together. -/
theorem CsuTogether.of_quiet {bs : List Part} {s s' t t' : State} (alike : CsuAlike s' t') (h : Touches bs s s')
    (k : Touches bs t t') (apart : (.port ∉ bs ∧ .notices ∉ bs ∧ .posted ∉ bs ∧ .btu ∉ bs) := by decide) :
    CsuTogether s s' t t' := by
  obtain ⟨port, notices, posted, btu⟩ := apart
  have silent : ∀ {u v : State}, Touches bs u v → Sends [] u v := fun {u v} w => by
    obtain ⟨transaction, reply, truncated⟩ := w.port port
    obtain ⟨waiting, lost⟩ := w.notices notices
    refine ⟨?_, w.posted posted, w.btu btu⟩
    cases x : v.lpu
    cases y : u.lpu
    simp_all
  exact ⟨alike, [], by simp, silent h, silent k⟩

theorem CsuTogether.still {s t : State} (alike : CsuAlike s t) : CsuTogether s s t t :=
  .of_quiet alike (.refl [] s) (.refl [] t)

theorem CsuTogether.trans {s s' s'' t t' t'' : State} (h : CsuTogether s s' t t') (k : CsuTogether s' s'' t' t'') :
    CsuTogether s s'' t t'' := by
  obtain ⟨-, first, kinds, one, other⟩ := h
  obtain ⟨alike, second, kinds', one', other'⟩ := k
  exact ⟨alike, first ++ second, List.forall_mem_append.mpr ⟨kinds, kinds'⟩, one.trans one', other.trans other'⟩

/-! ## The CSU's operations, side by side -/

section Together

variable {s t : State} (alike : CsuAlike s t)
include alike

theorem setCsu_together (c : CsuState) : CsuTogether s (s.setCsu c) t (t.setCsu c) :=
  .of_quiet ⟨rfl, alike.clu, alike.btu, alike.stc, alike.spent⟩ (setCsu_touches s c) (setCsu_touches t c)

theorem post_together {body : NoticeBody} (kind : Claims.isSchedule body = true) :
    CsuTogether s (s.post body) t (t.post body) := by
  refine ⟨⟨?_, ?_, ?_, ?_, ?_⟩, [body], by simpa using kind, ⟨rfl, rfl, post_btu _ _⟩, ⟨rfl, rfl, post_btu _ _⟩⟩ <;>
    simp [alike.csu, alike.clu, alike.btu, alike.stc, alike.spent]

theorem postMissed_together (e : Entry) (missed : Nat) :
    CsuTogether s (s.postMissed e missed) t (t.postMissed e missed) := by
  unfold State.postMissed State.postIf
  split
  · exact post_together alike rfl
  · exact .still alike

theorem actOnLine_together (line : Fin 8) (action : Action) (width : Option (BitVec 16)) :
    CsuTogether s (s.actOnLine line action width).1 t (t.actOnLine line action width).1
      ∧ (t.actOnLine line action width).2 = (s.actOnLine line action width).2 := by
  have same : CsuAlike (s.actOnLine line action width).1 (t.actOnLine line action width).1 := by
    simp only [actOnLine_eq, alike.clu, alike.spent, alike.micros]
    exact ⟨alike.csu, rfl, alike.btu, alike.stc, rfl⟩
  refine ⟨.of_quiet same (actOnLine_touches line action width s) (actOnLine_touches line action width t), ?_⟩
  simp only [actOnLine_eq, alike.clu, alike.micros]

theorem handOver_together (e : Entry) :
    CsuTogether s (s.handOver e).1 t (t.handOver e).1 ∧ (t.handOver e).2 = (s.handOver e).2 := by
  rw [handOver_eq, handOver_eq]
  split
  · split
    · exact ⟨.still alike, rfl⟩
    · exact actOnLine_together alike _ _ _
  · exact ⟨.still alike, rfl⟩

theorem fire_together (late : Bool) (e : Entry) : CsuTogether s (s.fire late e).1 t (t.fire late e).1 := by
  obtain ⟨handed, result⟩ := handOver_together alike e
  unfold State.fire
  dsimp only
  rw [result]
  split
  · exact handed.trans (post_together handed.1 rfl)
  · exact handed

theorem lateOccurrence_together (e : Entry) (lateness : Nat) :
    CsuTogether s (s.lateOccurrence e lateness).1 t (t.lateOccurrence e lateness).1
      ∧ (t.lateOccurrence e lateness).2 = (s.lateOccurrence e lateness).2 := by
  unfold State.lateOccurrence
  rw [alike.stc]
  split
  · have fired := fire_together alike true e
    exact ⟨fired.trans (postMissed_together fired.1 _ _), rfl⟩
  · exact ⟨postMissed_together alike _ _, rfl⟩

theorem insert_together (e : Entry) : CsuTogether s (s.insert e) t (t.insert e) := by
  have same : t.insert e = t.setCsu (s.insert e).csu := by
    simp only [State.insert, State.aheadNow, State.setSchedule, alike.csu, alike.micros, setCsu_csu]
  rw [same]
  exact setCsu_together alike (s.insert e).csu

theorem takeReached_together (e : Entry) : CsuTogether s (s.takeReached e) t (t.takeReached e) := by
  obtain ⟨done, again⟩ := lateOccurrence_together alike e (distance s.micros e.due)
  unfold State.takeReached
  dsimp only
  rw [alike.micros, again]
  split
  · exact done.trans (insert_together done.1 _)
  · exact done

omit alike in
theorem foldl_together {f : State → Entry → State} (each : ∀ {u v : State}, CsuAlike u v → ∀ e, CsuTogether u (f u e) v (f v e))
    (l : List Entry) {s t : State} (alike : CsuAlike s t) : CsuTogether s (l.foldl f s) t (l.foldl f t) := by
  induction l generalizing s t with
  | nil => exact .still alike
  | cons e rest ih =>
    have first := each alike e
    exact first.trans (ih first.1)

/-- Entries taken one after the other, once the schedule and the word are written. -/
theorem handling_together {f : State → Entry → State}
    (each : ∀ {u v : State}, CsuAlike u v → ∀ e, CsuTogether u (f u e) v (f v e)) (taken : List Entry) (c : CsuState) :
    CsuTogether s (taken.foldl f (s.setCsu c)) t (taken.foldl f (t.setCsu c)) :=
  have written := setCsu_together alike c
  written.trans (foldl_together each taken written.1)

/-- The step handling acts alike, and posts alike, in any state of the same schedule, lines, bus time and settings. -/
theorem takeWord_together : CsuTogether s s.takeWord t t.takeWord := by
  cases word : s.csu.word with
  | none =>
    rw [takeWord_of_none word, takeWord_of_none (alike.csu ▸ word)]
    exact .still alike
  | some direction =>
    have word' : t.csu.word = some direction := alike.csu ▸ word
    have same : t.csu.schedule = s.csu.schedule := congrArg CsuState.schedule alike.csu
    cases direction with
    | forward =>
      have taken : ∀ u : State, u.csu.word = some .forward → u.takeWord =
          (u.csu.schedule.filter (Entry.isReached u.micros)).foldl State.takeReached
            (u.setCsu { schedule := u.csu.schedule.filter fun e => !e.isReached u.micros, word := none }) :=
        fun u word => by rw [State.takeWord, word]; rfl
      rw [taken s word, taken t word', same, alike.micros]
      exact handling_together alike takeReached_together _ _
    | backward =>
      have taken : ∀ u : State, u.csu.word = some .backward → u.takeWord =
          (u.csu.schedule.filter (Entry.isBeyond u.micros)).foldl (fun s e => s.post (e.notice .outOfRange 0))
            (u.setCsu { schedule := u.csu.schedule.filter fun e => !e.isBeyond u.micros, word := none }) :=
        fun u word => by rw [State.takeWord, word]; rfl
      rw [taken s word, taken t word', same, alike.micros]
      exact handling_together alike (fun same e => post_together (body := e.notice .outOfRange 0) same rfl) _ _

end Together

/-! ## The CSU in a step (R114 to R117) -/

theorem isSchedule_poster (b : NoticeBody) (kind : Claims.isSchedule b = true) : b.poster = .csu := by
  cases b with
  | schedule => rfl
  | _ => cases kind

/-- The notices posted are those posted before an empty queue. -/
theorem posts_of_together {s s' t t' : State} (now : t.micros = s.micros) (empty : t.lpu.notices = [])
    (h : CsuTogether s s' t t') : Claims.posts Claims.isSchedule s s' t'.lpu.notices := by
  intro room
  obtain ⟨-, bodies, kinds, ⟨lpu, -, -⟩, ⟨lpu', -, -⟩⟩ := h
  have own : ∀ b ∈ bodies, b.poster = .csu := fun b m => isSchedule_poster b (kinds b m)
  rw [lpu] at room
  have short := postAll_length bodies room
  have alone := postAll_of_own own (s := t) (by simp [empty]) (by rw [empty, List.length_nil]; omega)
  rw [lpu, lpu', alone, empty, List.nil_append, now]
  exact (postAll_posts isSchedule_poster kinds s).1 room

/-- The state before the CSU's step handling, with an empty queue. -/
def State.stepBefore (amount : Int) (s : State) : State :=
  (s.stepTold amount).setLpu { s.lpu with notices := [] }

theorem csuTakesStep : Claims.CsuTakesStep := by
  intro amount s moves t
  have told := (stepTime_told amount s moves).1
  refine ⟨s.stepBefore amount, (told.btu (by decide)).symm, ?_, rfl, rfl, rfl, rfl,
    fun i => getElem_mapVector (Line.moved (microsChange s.btu.time amount)) s.clu.lines i i.isLt, ?_⟩
  · exact (told.stc_eq (by decide)).symm
  · have only : OnlyPosts [.sq, .fcu] s (s.stepTold amount) := .of_notices rfl
    have around := reexamine_around_csu
      (R := Leaves [.holdOff, .fcu, .pendingBeat, .sq, .notices, .posted] [.sq, .fcu])
      (Leaves.refl _ _) Leaves.trans (Config.reexamineOrder s.draws) s.micros (microsChange s.btu.time amount)
      (s.stepTold amount)
      (fun u => ⟨(reexamineSq_touches _ _ u).mono (by decide), (reexamineSq_onlyPosts _ _ u).mono (by decide)⟩)
      (fun u => ⟨(reexamineFcu_touches _ _ u).mono (by decide), (recoverBy_posts _ u).2.mono (by decide)⟩)
    rw [← stepTime_eq moves] at around
    obtain ⟨later, posts⟩ | ⟨u, ⟨before, posts⟩, ⟨after, posts'⟩⟩ := around
    · exact .inl ⟨later.csu (by decide), later.clu (by decide), later.spent (by decide),
        (only.trans posts).2 _ ⟨.csu, by decide, isSchedule_poster⟩⟩
    · have alike : CsuAlike u (s.stepBefore amount) :=
        ⟨(before.csu (by decide)).symm, (before.clu (by decide)).symm, (before.btu (by decide)).symm,
          (before.stc_eq (by decide)).symm, (before.spent (by decide)).symm⟩
      have together := takeWord_together alike
      refine .inr ⟨(after.csu (by decide)).trans together.1.csu.symm, (after.clu (by decide)).trans together.1.clu.symm,
        (after.spent (by decide)).trans together.1.spent.symm, ?_⟩
      have handled := posts_of_together alike.micros rfl together
      exact posts_of_onlyPosts isSchedule_poster
        (onlyPosts_posts isSchedule_poster (only.trans posts) (takeWord_onlyPosts u).1 handled) posts'

/-- Settles O41: what a step moves, by the parts its owners leave; what each owner makes of its word, whatever acts before and behind it; and the CSU's handling, the same before an empty queue. -/
theorem stepMovesTimesAndOwnersAct : Obligations.StepMovesTimesAndOwnersAct :=
  ⟨stepMovesTimes, sqAndFcuTakeStep, csuTakesStep, stepHandling, distanceAfterStepIsExact⟩

end Sys2Proof.Machine
end

section
/-! SUPPORT. The counter run on at once is the counter run cycle by cycle, and it stops in the first cycle in which a stored time is reached (O40); the modular comparison of times (O39). -/

namespace Sys2Proof.Machine

/-! ## What many cycles gain (R32, R36) -/

/-- An accumulator and a correction below the modulus: what every state that runs reach has (R35, R36). -/
def BtuState.RatesFit (b : BtuState) : Prop :=
  b.acc < Config.accumulatorModulus ∧ b.combined.natAbs < Config.accumulatorModulus

/-- How often the accumulator overflows in n reference cycles (R36). -/
def BtuState.overflows (n : Nat) (b : BtuState) : Nat := (b.acc + n * b.combined.natAbs) / Config.accumulatorModulus

/-- How many sixteenths n reference cycles gain, none of them the cycle of a step (R36). -/
def BtuState.gain (n : Nat) (b : BtuState) : Nat :=
  if 0 ≤ b.combined then n + b.overflows n else n - b.overflows n

/-- Bus time and accumulator n reference cycles on. -/
def BtuState.gone (n : Nat) (b : BtuState) : BtuState :=
  { b with
    time := b.time + BitVec.ofNat 36 (b.gain n)
    acc := (b.acc + n * b.combined.natAbs) % Config.accumulatorModulus }

theorem modulus_eq : Config.accumulatorModulus = 16000000 := rfl

theorem gone_combined (n : Nat) (b : BtuState) : (b.gone n).combined = b.combined := rfl

theorem overflows_of_no_correction {b : BtuState} (fit : b.RatesFit) (zero : b.combined = 0) (n : Nat) :
    b.overflows n = 0 := by
  simp [BtuState.overflows, zero, Nat.div_eq_of_lt fit.1]

theorem leap_eq_gone {b : BtuState} (fit : b.RatesFit) (n : Nat) : b.leap n = b.gone n := by
  unfold BtuState.leap BtuState.gone BtuState.gain
  dsimp only
  split
  · rename_i zero
    simp [zero, overflows_of_no_correction fit zero, Nat.mod_eq_of_lt fit.1]
  · rename_i corrected
    have sign : 0 < b.combined ↔ 0 ≤ b.combined := by omega
    simp only [sign]
    rfl

/-- The first n cycles of n + m overflow as often as they do alone, and the others go on with the accumulator they find. -/
theorem overflows_add (n m : Nat) (b : BtuState) :
    b.overflows (n + m) = b.overflows n + (b.gone n).overflows m := by
  unfold BtuState.overflows
  rw [gone_combined, BtuState.gone]
  dsimp only
  have split := Nat.div_add_mod (b.acc + n * b.combined.natAbs) Config.accumulatorModulus
  have whole : b.acc + (n + m) * b.combined.natAbs =
      (b.acc + n * b.combined.natAbs) % Config.accumulatorModulus + m * b.combined.natAbs
        + Config.accumulatorModulus * ((b.acc + n * b.combined.natAbs) / Config.accumulatorModulus) := by
    rw [Nat.add_mul]
    omega
  rw [whole, Nat.add_mul_div_left _ _ (by decide)]
  omega

/-- Fewer cycles overflow the accumulator than pass. -/
theorem overflows_le {b : BtuState} (fit : b.RatesFit) (n : Nat) : b.overflows n ≤ n := by
  obtain ⟨acc, rate⟩ := fit
  have most : n * b.combined.natAbs ≤ n * Config.accumulatorModulus := Nat.mul_le_mul_left n rate.le
  refine Nat.lt_succ_iff.mp ((Nat.div_lt_iff_lt_mul (by decide)).mpr ?_)
  rw [Nat.succ_mul]
  omega

theorem gone_ratesFit {b : BtuState} (fit : b.RatesFit) (n : Nat) : (b.gone n).RatesFit :=
  ⟨Nat.mod_lt _ (by decide), fit.2⟩

theorem gain_add {b : BtuState} (fit : b.RatesFit) (n m : Nat) : b.gain (n + m) = b.gain n + (b.gone n).gain m := by
  have first := overflows_le fit n
  have behind := overflows_le (gone_ratesFit fit n) m
  unfold BtuState.gain
  rw [gone_combined, overflows_add]
  split <;> omega

theorem gone_gone {b : BtuState} (fit : b.RatesFit) (n m : Nat) : (b.gone n).gone m = b.gone (n + m) := by
  have acc : ((b.acc + n * b.combined.natAbs) % Config.accumulatorModulus + m * b.combined.natAbs)
      % Config.accumulatorModulus = (b.acc + (n + m) * b.combined.natAbs) % Config.accumulatorModulus := by
    rw [Nat.mod_add_mod, Nat.add_mul, Nat.add_assoc]
  have time : b.time + BitVec.ofNat 36 (b.gain n) + BitVec.ofNat 36 ((b.gone n).gain m)
      = b.time + BitVec.ofNat 36 (b.gain (n + m)) := by
    rw [gain_add fit, BitVec.ofNat_add, BitVec.add_assoc]
  unfold BtuState.gone at time ⊢
  rw [← acc, ← time]
  rfl

theorem gone_zero {b : BtuState} (fit : b.RatesFit) : b.gone 0 = b := by
  have none : b.overflows 0 = 0 := Nat.le_zero.mp (overflows_le fit 0)
  simp [BtuState.gone, BtuState.gain, none, Nat.mod_eq_of_lt fit.1]

/-- One cycle gains one sixteenth, or two or none where the accumulator overflows (R36). -/
theorem gain_succ_le {b : BtuState} (fit : b.RatesFit) (n : Nat) :
    b.gain n ≤ b.gain (n + 1) ∧ b.gain (n + 1) ≤ b.gain n + 2 := by
  have last := overflows_le (gone_ratesFit fit n) 1
  rw [gain_add fit, BtuState.gain.eq_1 1, gone_combined]
  split <;> omega

theorem gain_mono {b : BtuState} (fit : b.RatesFit) : Monotone b.gain :=
  monotone_nat_of_le_succ fun n => (gain_succ_le fit n).1

/-! ## Cycle by cycle -/

/-- A counter but for the readings that the edges of a cycle are timed by (R135). -/
def BtuState.unlatched (b : BtuState) : BtuState := { b with latch := 0, latchFrom := none }

/-- A cycle makes those readings anew. -/
theorem tick_of_unlatched {b c : BtuState} (same : b.unlatched = c.unlatched) : b.tick = c.tick := by
  obtain ⟨time, trim, slew, acc, capture, stepFrom, latch, latchFrom⟩ := b
  obtain ⟨time', trim', slew', acc', capture', stepFrom', latch', latchFrom'⟩ := c
  simp only [BtuState.unlatched, BtuState.mk.injEq, and_true] at same
  obtain ⟨rfl, rfl, rfl, rfl, rfl, rfl⟩ := same
  rfl

/-- One cycle without a step gains what one cycle gains. -/
theorem tick_unlatched {b : BtuState} (fit : b.RatesFit) (free : b.stepFrom = none) :
    b.tick.unlatched = (b.gone 1).unlatched := by
  obtain ⟨acc, rate⟩ := fit
  have sum : b.acc + 1 * b.combined.natAbs = b.acc + b.combined.natAbs := by rw [Nat.one_mul]
  by_cases zero : b.combined = 0
  · rw [tick_of_no_correction free zero]
    simp [BtuState.unlatched, BtuState.latched, BtuState.gone, BtuState.gain, BtuState.overflows, zero, free,
      Nat.div_eq_of_lt acc, Nat.mod_eq_of_lt acc]
  · rw [tick_of_correction free zero]
    split
    · rename_i below
      simp [BtuState.unlatched, BtuState.latched, BtuState.gone, BtuState.gain, BtuState.overflows, free,
        Nat.div_eq_of_lt below, Nat.mod_eq_of_lt below]
    · rename_i full
      have once : (b.acc + b.combined.natAbs) / Config.accumulatorModulus = 1 := by
        rw [Nat.div_eq_iff (by decide)]
        omega
      have left : (b.acc + b.combined.natAbs) % Config.accumulatorModulus
          = b.acc + b.combined.natAbs - Config.accumulatorModulus := by
        rw [Nat.mod_eq_sub_mod (Nat.not_lt.mp full), Nat.mod_eq_of_lt (by omega)]
      have sign : 0 < b.combined ↔ 0 ≤ b.combined := by omega
      simp only [BtuState.unlatched, BtuState.latched, BtuState.gone, BtuState.gain, BtuState.overflows, free, sum,
        once, left, sign]
      split <;> simp

theorem ticks_unlatched {b : BtuState} (fit : b.RatesFit) (free : b.stepFrom = none) (n : Nat) :
    (BtuState.tick^[n] b).unlatched = (b.gone n).unlatched := by
  induction n with
  | zero => rw [Function.iterate_zero_apply, gone_zero fit]
  | succ n ih =>
    rw [Function.iterate_succ_apply', tick_of_unlatched ih, tick_unlatched (gone_ratesFit fit n) free, gone_gone fit]

/-- The cycles before the last, run at once, are those cycles but for the readings of edges. -/
theorem skip_unlatched {b : BtuState} (fit : b.RatesFit) (n : Nat) :
    (BtuState.tick^[n] b).unlatched = (b.skip n).unlatched := by
  cases n with
  | zero => rfl
  | succ n =>
    cases stepped : b.stepFrom with
    | none => rw [skip_of_free stepped, leap_eq_gone fit, ticks_unlatched fit stepped]
    | some old =>
      rw [skip_of_step (by rw [stepped]; rfl), Function.iterate_succ_apply, tick_of_step (by rw [stepped]; rfl),
        leap_eq_gone (b := { b with stepFrom := none }) fit, ticks_unlatched (b := b.latched) fit rfl]
      rfl

/-- Bus time run on n cycles at once is bus time run on cycle by cycle. -/
theorem advance_eq_ticks {b : BtuState} (fit : b.RatesFit) (n : Nat) : b.advance n = BtuState.tick^[n] b := by
  cases n with
  | zero => rfl
  | succ n => rw [advance_succ, Function.iterate_succ_apply', tick_of_unlatched (skip_unlatched fit n)]

theorem ticks_time {b : BtuState} (fit : b.RatesFit) (free : b.stepFrom = none) (n : Nat) :
    (BtuState.tick^[n] b).time = b.time + BitVec.ofNat 36 (b.gain n) :=
  congrArg BtuState.time (ticks_unlatched fit free n)

/-! ## The first cycle there (R34) -/

theorem overflows_lt_iff (n k : Nat) (b : BtuState) :
    b.overflows n < k ↔ b.acc + n * b.combined.natAbs < k * Config.accumulatorModulus :=
  Nat.div_lt_iff_lt_mul (by decide)

/-- A counter that is not slowed gains fewer than d sixteenths in n cycles. -/
theorem add_overflows_lt_iff (n d : Nat) (b : BtuState) :
    n + b.overflows n < d ↔ n * (Config.accumulatorModulus + b.combined.natAbs) + b.acc < d * Config.accumulatorModulus := by
  rw [Nat.mul_add]
  obtain within | beyond := Nat.lt_or_ge n d
  · obtain ⟨k, rfl⟩ := Nat.exists_eq_add_of_le within.le
    rw [Nat.add_lt_add_iff_left, overflows_lt_iff, Nat.add_mul]
    omega
  · have least : d * Config.accumulatorModulus ≤ n * Config.accumulatorModulus := Nat.mul_le_mul_right _ beyond
    omega

/-- A slowed counter gains at most d sixteenths in n cycles. -/
theorem sub_overflows_le_iff {b : BtuState} (fit : b.RatesFit) (n d : Nat) :
    n - b.overflows n ≤ d ↔ n * (Config.accumulatorModulus - b.combined.natAbs) ≤ d * Config.accumulatorModulus + b.acc := by
  have most : n * b.combined.natAbs ≤ n * Config.accumulatorModulus := Nat.mul_le_mul_left n fit.2.le
  rw [Nat.mul_sub]
  obtain within | beyond := Nat.le_total n d
  · have least : n * Config.accumulatorModulus ≤ d * Config.accumulatorModulus := Nat.mul_le_mul_right _ within
    omega
  · obtain ⟨k, rfl⟩ := Nat.exists_eq_add_of_le beyond
    have fewer : d + k - b.overflows (d + k) ≤ d ↔ ¬b.overflows (d + k) < k := by omega
    rw [fewer, overflows_lt_iff, Nat.add_mul d k Config.accumulatorModulus]
    rw [Nat.add_mul d k Config.accumulatorModulus] at most
    omega

/-- The cycles that pass before d sixteenths are gained are those that gain fewer. -/
theorem lt_cyclesFor_iff {b : BtuState} (fit : b.RatesFit) {d : Nat} (near : 0 < d) (n : Nat) :
    n < b.cyclesFor d ↔ b.gain n < d := by
  have ⟨acc, rate⟩ := fit
  unfold BtuState.cyclesFor BtuState.gain
  dsimp only
  rw [if_neg near.ne']
  split
  · have enough : b.acc ≤ d * Config.accumulatorModulus := acc.le.trans (Nat.le_mul_of_pos_left _ near)
    rw [add_overflows_lt_iff, Nat.lt_iff_add_one_le, Nat.le_div_iff_mul_le (by omega), Nat.add_mul]
    omega
  · rw [← Nat.le_sub_one_iff_lt near, sub_overflows_le_iff fit, Nat.lt_succ_iff, Nat.le_div_iff_mul_le (by omega)]

/-- Bus time d sixteenths before a stored time, or fewer than 16 behind it, and on its way there. -/
theorem microsOf_add_iff {time : BusTime} {t : Micros} (apart : microsOf time ≠ t) (g : Nat) :
    (g < (BitVec.ofNat 36 (t.toNat * 16) - time).toNat → microsOf (time + BitVec.ofNat 36 g) ≠ t)
      ∧ ((BitVec.ofNat 36 (t.toNat * 16) - time).toNat ≤ g → g ≤ (BitVec.ofNat 36 (t.toNat * 16) - time).toNat + 1 →
        microsOf (time + BitVec.ofNat 36 g) = t) := by
  have fine := time.isLt
  have short := t.isLt
  have read : ∀ u : BusTime, microsOf u = t ↔ u.toNat / 16 = t.toNat := fun u => by
    have whole := u.isLt
    rw [BitVec.toNat_eq, microsOf, BitVec.toNat_ofNat, Nat.mod_eq_of_lt (by omega)]
  rw [ne_eq, read] at apart
  simp only [ne_eq, read, BitVec.toNat_add, BitVec.toNat_sub, BitVec.toNat_ofNat]
  constructor <;> intros <;> omega

theorem cyclesTo_of_free {b : BtuState} {t : Micros} (free : b.stepFrom = none) (apart : microsOf b.time ≠ t) :
    b.cyclesTo t = b.cyclesFor (BitVec.ofNat 36 (t.toNat * 16) - b.time).toNat := by
  simp [BtuState.cyclesTo, apart, free]

/-- From a cycle without a step on, the stored time is first reached after the cycles counted. -/
theorem ticks_first {b : BtuState} {t : Micros} (fit : b.RatesFit) (free : b.stepFrom = none)
    (apart : microsOf b.time ≠ t) :
    microsOf (BtuState.tick^[b.cyclesTo t] b).time = t
      ∧ ∀ m < b.cyclesTo t, microsOf (BtuState.tick^[m] b).time ≠ t := by
  have near : 0 < (BitVec.ofNat 36 (t.toNat * 16) - b.time).toNat := by
    by_contra none
    have here := (microsOf_add_iff apart 0).2 (by omega) (by omega)
    simp at here
    exact apart here
  rw [cyclesTo_of_free free apart]
  have counted := lt_cyclesFor_iff fit near
  refine ⟨?_, fun m before => ?_⟩
  · rw [ticks_time fit free]
    refine (microsOf_add_iff apart _).2 (Nat.not_lt.mp ((counted _).not.mp (lt_irrefl _))) ?_
    obtain ⟨n, last⟩ : ∃ n, b.cyclesFor (BitVec.ofNat 36 (t.toNat * 16) - b.time).toNat = n + 1 := by
      refine Nat.exists_eq_add_one.mpr ((counted 0).mpr ?_)
      rw [BtuState.gain, Nat.le_zero.mp (overflows_le fit 0)]
      simpa using near
    have before := (counted n).mp (last ▸ Nat.lt_succ_self n)
    have step := (gain_succ_le fit n).2
    rw [last]
    omega
  · rw [ticks_time fit free]
    exact (microsOf_add_iff apart _).1 ((counted m).mp before)

theorem ratesFit_of_bounds {b : BtuState} (acc : b.acc < 16000000) (least : -11200 ≤ b.trim * 16 + b.slew)
    (most : b.trim * 16 + b.slew ≤ 11200) : b.RatesFit := by
  refine ⟨acc, ?_⟩
  rw [BtuState.combined, modulus_eq]
  omega

theorem runTo_first {b : BtuState} (fit : b.RatesFit) (t : Micros) :
    ∃ n : Nat, b.runTo t = BtuState.tick^[n] b ∧ microsOf (b.runTo t).time = t
      ∧ ∀ m < n, microsOf (BtuState.tick^[m] b).time ≠ t := by
  unfold BtuState.runTo
  split
  · rename_i here
    exact ⟨0, rfl, here, fun m none => absurd none (Nat.not_lt_zero m)⟩
  · rename_i apart
    rw [advance_eq_ticks fit]
    refine ⟨b.cyclesTo t, rfl, ?_⟩
    cases stepped : b.stepFrom with
    | none => exact ticks_first fit stepped apart
    | some old =>
      have held : b.tick = b.latched := tick_of_step (by rw [stepped]; rfl)
      have count : b.cyclesTo t = b.latched.cyclesTo t + 1 := by
        simp [BtuState.cyclesTo, apart, stepped, BtuState.latched]
        rfl
      obtain ⟨there, first⟩ := ticks_first (b := b.latched) fit rfl apart
      rw [count, Function.iterate_succ_apply, held]
      refine ⟨there, fun m before => ?_⟩
      cases m with
      | zero => exact apart
      | succ m =>
        rw [Function.iterate_succ_apply, held]
        exact first m (Nat.lt_of_succ_lt_succ before)

/-- Settles O40: many cycles at once gain what they gain one by one, and the cycles counted are those that gain less than the distance. -/
theorem runToIsFirstCycleThere : Obligations.RunToIsFirstCycleThere := fun t _ acc least most =>
  runTo_first (ratesFit_of_bounds acc least most) t

/-! ## The modular comparison (R33) -/

theorem distance_eq (a b : Micros) : distance a b = (a.toNat + (2 ^ 32 - b.toNat)) % 2 ^ 32 := by
  rw [distance, BitVec.toNat_sub, Nat.add_comm]

/-- Settles O39: both comparisons read the difference modulo 2^32, the one of full times modulo 2^36. -/
theorem modularComparison : Obligations.ModularComparison := by
  have ahead : ∀ a b : Micros, isAhead a b = true ↔ 1 ≤ (a.toNat + (2 ^ 32 - b.toNat)) % 2 ^ 32
      ∧ (a.toNat + (2 ^ 32 - b.toNat)) % 2 ^ 32 ≤ 2 ^ 31 - 1 := fun a b => by
    rw [← distance_eq, isAhead, decide_eq_true_iff]
    omega
  have notAhead : ∀ a b : Micros, reached a b = true ↔ ¬isAhead a b = true := fun a b => by
    rw [reached, Bool.not_eq_true', Bool.not_eq_true]
  refine ⟨ahead, notAhead, fun a => ?_, fun a b far => ?_, fun a b => ?_⟩
  · rw [notAhead, ahead]
    have short := a.isLt
    omega
  · rw [notAhead, ahead]
    omega
  · exact signedDifference_eq a b

end Sys2Proof.Machine
end

section
/-! SUPPORT. The rate correction (O58): which events leave bus time, its correction, agreement and schedule as they are, what rounds and the passing of time make of the correction, and that every step keeps it in its ranges. -/

namespace Sys2Proof.Machine

/-! ## What most events leave -/

/-- From s to t bus time, its correction, the agreement, the schedule, the station state and the configuration stand. -/
structure Steady (s t : State) : Prop where
  clock : t.btu.time = s.btu.time ∧ t.btu.trim = s.btu.trim ∧ t.btu.slew = s.btu.slew ∧ t.btu.acc = s.btu.acc
  agu : { t.agu with pendingBeat := none } = { s.agu with pendingBeat := none }
  csu : t.csu = s.csu
  stc : t.stc.station = s.stc.station ∧ t.stc.config = s.stc.config

theorem Steady.refl (s : State) : Steady s s := ⟨⟨rfl, rfl, rfl, rfl⟩, rfl, rfl, rfl, rfl⟩

theorem Steady.trans {s t u : State} (h : Steady s t) (k : Steady t u) : Steady s u := by
  obtain ⟨⟨time, trim, slew, acc⟩, agu, csu, station, config⟩ := h
  obtain ⟨⟨time', trim', slew', acc'⟩, agu', csu', station', config'⟩ := k
  exact ⟨⟨time'.trans time, trim'.trans trim, slew'.trans slew, acc'.trans acc⟩, agu'.trans agu, csu'.trans csu,
    station'.trans station, config'.trans config⟩

theorem Touches.steady {bs : List Part} {s t : State} (h : Touches bs s t)
    (apart : ∀ p ∈ [Part.stc, .btu, .agu, .csu], p ∉ bs) : Steady s t := by
  obtain ⟨station, -, config⟩ := h.stc (apart _ (by decide))
  refine ⟨?_, h.agu (apart _ (by decide)), h.csu (apart _ (by decide)), station, config⟩
  rw [h.btu (apart _ (by decide))]
  exact ⟨rfl, rfl, rfl, rfl⟩

theorem dropCapture_steady (s : State) : Steady s s.dropCapture := ⟨⟨rfl, rfl, rfl, rfl⟩, rfl, rfl, rfl, rfl⟩

theorem captureSof_steady (s : State) : Steady s s.captureSof := ⟨⟨rfl, rfl, rfl, rfl⟩, rfl, rfl, rfl, rfl⟩

theorem endDrain_steady (s : State) : Steady s s.endDrain := ⟨⟨rfl, rfl, rfl, rfl⟩, rfl, rfl, rfl, rfl⟩

theorem setLiu_steady (s : State) (b : LiuBlock) : Steady s (s.setLiu b) := (setLiu_touches s b).steady (by decide)

theorem endAttempt_steady (how : AttemptEnd) (s : State) : Steady s (s.endAttempt how) := by
  unfold State.endAttempt
  split
  · exact ((attemptEnded_touches how _ s).steady (by decide)).trans (setLiu_steady _ _)
  · exact .refl s

theorem frameError_steady (role : Role) (sampled : List Bool) (s : State) : Steady s (s.frameError role sampled) := by
  have reported := ((((reportError_touches role sampled s).steady (by decide)).trans (endAttempt_steady .error _)).trans
    (dropCapture_steady _))
  unfold State.frameError
  split
  · exact (dropCapture_steady s).trans (setLiu_steady _ _)
  · cases role with
    | sender => exact (reported.trans (setLiu_steady _ _)).trans (setLiu_steady _ _)
    | receiver => exact reported.trans (setLiu_steady _ _)

theorem sof_steady (sampledDominant drove : Bool) (s : State) :
    Steady s ((s.hardSync.sofBit sampledDominant).sampleSof sampledDominant drove) := by
  have bit : Steady s (s.hardSync.sofBit sampledDominant) := by
    have synced : Steady s s.hardSync := setLiu_steady s _
    unfold State.sofBit
    split
    · exact synced.trans ((sampled_touches _ _).steady (by decide))
    · exact synced
  refine bit.trans ?_
  unfold State.sampleSof
  split
  · exact (captureSof_steady _).trans (setLiu_steady _ _)
  · exact frameError_steady _ _ _
  · exact ((captureSof_steady _).trans (endAttempt_steady _ _)).trans (setLiu_steady _ _)
  · exact .refl _

/-- A command of the port whose owner leaves what a port command leaves. -/
theorem takeCommand_steady {bs : List Part} {s : State} {handle : State → State × Reply}
    (frame : Touches bs s (handle s).1) (apart : ∀ p ∈ [Part.stc, .btu, .agu, .csu], p ∉ bs) :
    Steady s (s.takeCommand handle) :=
  (takeCommand_touches s frame).steady (by simpa using apart)

/-- The commands that leave bus time, its correction, the agreement, the schedule and the station state whatever the state. -/
def Instr.isSteady : Instr → Bool
  | .setLine _ | .setInput _ | .setSubscription _ | .setReaction _ | .postCueShared _ | .postRecallShared _
  | .withdraw _ | .readNotice | .readStatus | .readTime | .readPeer _ | .readEntry _ | .readRecord _
  | .badCommand _ | .transactionTruncated | .transactionBegin | .transactionEnd | .sof _ _ | .offer | .lostArbitration
  | .errorDetected _ _ | .errorFlagEnd | .stuckLineError _ | .errorDelimiterEnd _ | .interframeSpaceEnd
  | .integrationComplete | .holdOffEnd | .drainEnd | .idleSpan => true
  | _ => false

theorem exec_steady (c : Instr) (quiet : Instr.isSteady c = true) {s t : State} (ran : exec c s = .next t) : Steady s t := by
  cases c with
  | setLine a => exact next_keeps ran (takeCommand_steady (configure_touches fun _ => setClu_touches s _) (by decide))
  | setInput a => exact next_keeps ran (takeCommand_steady (configure_touches fun _ => setMarkInput_touches _ _ s) (by decide))
  | setSubscription a => exact next_keeps ran (takeCommand_steady (configure_touches fun _ => setIku_touches s _) (by decide))
  | setReaction a => exact next_keeps ran (takeCommand_steady (configure_touches fun _ => setMku_touches s _) (by decide))
  | postCueShared a => exact next_keeps ran (takeCommand_steady (postShared_touches a s) (by decide))
  | postRecallShared a => exact next_keeps ran (takeCommand_steady (recallShared_touches a s) (by decide))
  | withdraw tag => exact next_keeps ran (takeCommand_steady (withdraw_touches tag s) (by decide))
  | readNotice => exact next_keeps ran (takeCommand_steady (takeNotice_touches s) (by decide))
  | readStatus | readTime | readPeer | readEntry | readRecord =>
    exact next_keeps ran (takeCommand_steady (.refl [] s) (by decide))
  | badCommand code =>
    refine next_keeps ran ?_
    split
    · exact .refl s
    · exact takeCommand_steady (.refl [] s) (by decide)
  | transactionTruncated =>
    refine next_keeps ran ?_
    split
    · exact (setLpu_touches s _).steady (by decide)
    · exact (selRises_touches s).steady (by decide)
  | transactionBegin =>
    refine next_keeps ran ?_
    split
    · exact (setTransaction_touches _ s).steady (by decide)
    · exact .refl s
  | transactionEnd => exact next_keeps ran ((selRises_touches s).steady (by decide))
  | sof sampledDominant drove =>
    refine next_keeps ran ?_
    split
    · exact sof_steady sampledDominant drove s
    · exact .refl s
  | offer =>
    refine next_keeps ran ?_
    split
    · exact (offer_touches s).steady (by decide)
    · exact .refl s
  | lostArbitration =>
    refine next_keeps ran ?_
    split
    · split
      · exact endDrain_steady s
      · exact (endAttempt_steady .lost s).trans (setLiu_steady _ _)
    · exact .refl s
  | errorDetected kind sampled =>
    refine next_keeps ran ?_
    split
    · exact ((reportError_touches .receiver sampled s).steady (by decide)).trans (setLiu_steady _ _)
    · split
      · exact frameError_steady _ sampled s
      · exact .refl s
  | errorFlagEnd =>
    refine next_keeps ran ?_
    split
    · exact setLiu_steady s _
    · exact .refl s
  | stuckLineError sampled =>
    refine next_keeps ran ?_
    split
    · split
      · exact .refl s
      · exact (reportError_touches _ sampled s).steady (by decide)
    · exact .refl s
  | errorDelimiterEnd sampled =>
    refine next_keeps ran ?_
    split
    · split
      · exact endDrain_steady s
      · exact (setLiu_steady s _).trans ((sampled_touches sampled _).steady (by decide))
    · exact .refl s
  | interframeSpaceEnd =>
    refine next_keeps ran ?_
    split
    · exact (setLiu_steady s _).trans ((sampled_touches _ _).steady (by decide))
    · exact .refl s
  | integrationComplete | holdOffEnd =>
    refine next_keeps ran ?_
    split
    · exact setLiu_steady s _
    · exact .refl s
  | drainEnd =>
    refine next_keeps ran ?_
    split
    · exact endDrain_steady s
    · exact .refl s
  | idleSpan =>
    refine next_keeps ran ?_
    split
    · exact (setSpent_touches s _).steady (by decide)
    · exact (countSpan_touches s).steady (by decide)
  | _ => cases quiet

/-- An acceptance leaves what such an event leaves, but for what its frame does at the IKU (R14). -/
theorem acceptance_cases {f : Frame} {ack : Bool} {s t : State} (ran : exec (.acceptance f ack) s = .next t) :
    Steady s t ∨ ∃ (u : State) (a : Accepted), Steady s u ∧ t = u.intake a := by
  obtain rfl := Host.Outcome.next.inj ran
  split
  · unfold State.acceptSending
    split
    · exact .inl (endDrain_steady s)
    · split
      · exact .inl (.refl s)
      · split
        · have ended := ((reportAcceptance_touches s).steady (by decide)).trans (endAttempt_steady (.sent !ack) _)
          exact .inr ⟨_, _, ((ended.trans (setLiu_steady _ _)).trans (dropCapture_steady _)).trans (setLiu_steady _ _), rfl⟩
        · exact .inl (.refl s)
  · have reported := ((sampled_touches (lineBits f ack) s).steady (by decide)).trans
      ((reportAcceptance_touches _).steady (by decide))
    exact .inr ⟨_, _, (reported.trans (dropCapture_steady _)).trans (setLiu_steady _ _), rfl⟩
  · exact .inl (.refl s)

/-! ## What the invariant reads (R35, R36, R58) -/

/-- The values whose ranges the invariant gives. -/
def State.rates (s : State) : (Int × Int × Nat) × Int × Nat × Nat :=
  ((s.btu.trim, s.btu.slew, s.btu.acc), s.agu.residue, s.agu.good, s.agu.fresh)

theorem ratesOk_of_rates {s t : State} (same : t.rates = s.rates) (ok : s.RatesOk) : t.RatesOk := by
  simp only [State.rates, Prod.mk.injEq] at same
  obtain ⟨⟨trim, slew, acc⟩, residue, good, fresh⟩ := same
  simpa only [State.RatesOk, trim, slew, acc, residue, good, fresh] using ok

theorem Steady.rates {s t : State} (h : Steady s t) : t.rates = s.rates := by
  obtain ⟨⟨-, trim, slew, acc⟩, agu, -, -⟩ := h
  have residue := congrArg AguState.residue agu
  have good := congrArg AguState.good agu
  have fresh := congrArg AguState.fresh agu
  simp only at residue good fresh
  simp only [State.rates, trim, slew, acc, residue, good, fresh]

theorem Touches.rates {bs : List Part} {s t : State} (h : Touches bs s t)
    (apart : ∀ p ∈ [Part.btu, .agu], p ∉ bs) : t.rates = s.rates := by
  have agu := h.agu (apart _ (by decide))
  have residue := congrArg AguState.residue agu
  have good := congrArg AguState.good agu
  have fresh := congrArg AguState.fresh agu
  simp only at residue good fresh
  simp only [State.rates, h.btu (apart _ (by decide)), residue, good, fresh]

theorem Touches.ratesOk {bs : List Part} {s t : State} (h : Touches bs s t)
    (apart : ∀ p ∈ [Part.btu, .agu], p ∉ bs) (ok : s.RatesOk) : t.RatesOk :=
  ratesOk_of_rates (h.rates apart) ok

/-! ## The passing of time (R36) -/

theorem State.RatesOk.ratesFit {s : State} (ok : s.RatesOk) : s.btu.RatesFit := by
  obtain ⟨⟨trim, trim'⟩, ⟨slew, slew'⟩, acc, -⟩ := ok
  exact ratesFit_of_bounds acc (by omega) (by omega)

theorem tick_ratesFit {b : BtuState} (fit : b.RatesFit) : b.tick.RatesFit := by
  obtain ⟨trim, slew, -⟩ := tick_keeps b
  refine ⟨?_, by rw [BtuState.combined, trim, slew]; exact fit.2⟩
  cases stepped : b.stepFrom with
  | some old =>
    rw [tick_of_step (by rw [stepped]; rfl)]
    exact fit.1
  | none =>
    have acc : b.tick.acc = (b.gone 1).acc := (BtuState.mk.inj (tick_unlatched fit stepped)).2.2.2.1
    rw [acc]
    exact (gone_ratesFit fit 1).1

theorem advance_ratesFit {b : BtuState} (fit : b.RatesFit) (n : Nat) : (b.advance n).RatesFit := by
  rw [advance_eq_ticks fit]
  induction n with
  | zero => exact fit
  | succ n ih =>
    rw [Function.iterate_succ_apply']
    exact tick_ratesFit ih

theorem runTo_ratesFit {b : BtuState} (fit : b.RatesFit) (t : Micros) : (b.runTo t).RatesFit := by
  unfold BtuState.runTo
  split
  · exact fit
  · exact advance_ratesFit fit _

/-- A counter that has kept trim and slew, and an accumulator below the modulus. -/
theorem ratesOk_of_btu {s t : State} (ok : s.RatesOk) (trim : t.btu.trim = s.btu.trim) (slew : t.btu.slew = s.btu.slew)
    (fit : t.btu.RatesFit) (agu : t.agu = s.agu) : t.RatesOk := by
  obtain ⟨trims, slews, -, rest⟩ := ok
  exact ⟨by rwa [trim], by rwa [slew], fit.1, by rwa [agu]⟩

theorem passCycles_btu (n : Nat) (s : State) : (s.passCycles n).btu = s.btu.advance n :=
  (countIdle_touches _ _).btu (by decide)

theorem tick_ratesOk {s : State} (ok : s.RatesOk) : s.tick.RatesOk := by
  have btu : s.tick.btu = s.btu.tick := passCycles_btu 1 s
  obtain ⟨trim, slew, -⟩ := tick_keeps s.btu
  refine ratesOk_of_btu ok (by rw [btu, trim]) (by rw [btu, slew]) ?_ ((tick_touches s).agu_eq (by decide))
  rw [btu]
  exact tick_ratesFit ok.ratesFit

theorem runTo_ratesOk (t : Micros) {s : State} (ok : s.RatesOk) : (s.runTo t).RatesOk := by
  obtain ⟨trim, slew, -⟩ := runTo_keeps t s.btu
  refine ratesOk_of_btu ok (by rw [runTo_btu, trim]) (by rw [runTo_btu, slew]) ?_ ((runTo_touches t s).agu_eq (by decide))
  rw [runTo_btu]
  exact runTo_ratesFit ok.ratesFit t

/-! ## Slew, trim and residue (R58) -/

theorem slewFor_bounds (interval : Nat) (correction : Int) :
    -8000 ≤ slewFor interval correction ∧ slewFor interval correction ≤ 8000 := by
  unfold slewFor
  omega

theorem trimAfter_bounds (trim residue slew : Int) :
    (-200 ≤ (trimAfter trim residue slew).1 ∧ (trimAfter trim residue slew).1 ≤ 200)
      ∧ -127 ≤ (trimAfter trim residue slew).2 ∧ (trimAfter trim residue slew).2 ≤ 127 := by
  have least := Int.lt_tmod_of_pos (residue + slew) (b := 128) (by decide)
  have most := Int.tmod_lt_of_pos (residue + slew) (b := 128) (by decide)
  unfold trimAfter
  dsimp only
  split_ifs <;> omega

theorem slewTo_ratesOk (correction : Int) {s : State} (ok : s.RatesOk) : (s.slewTo correction).RatesOk := by
  obtain ⟨-, -, acc, -, counts⟩ := ok
  obtain ⟨trim, residue⟩ := trimAfter_bounds s.btu.trim s.agu.residue (slewFor s.beatMicros correction)
  exact ⟨trim, slewFor_bounds _ _, acc, residue, counts⟩

/-- A step leaves the correction (R37). -/
theorem stepTime_rates (amount : Int) (s : State) : (s.stepTime amount).rates = s.rates := by
  obtain ⟨-, trim, slew, acc, -⟩ := stepTime_btu amount s
  have agu := (stepTime_touches amount s).agu (by decide)
  have residue := congrArg AguState.residue agu
  have good := congrArg AguState.good agu
  have fresh := congrArg AguState.fresh agu
  simp only at residue good fresh
  simp only [State.rates, trim, slew, acc, residue, good, fresh]

theorem correct_ratesOk (began : SyncState) (correction : Int) {s : State} (ok : s.RatesOk) :
    (s.correct began correction).RatesOk := by
  unfold State.correct
  split
  · obtain ⟨trim, -, rest⟩ := ratesOk_of_rates (stepTime_rates correction s) ok
    exact ⟨trim, ⟨Int.negSucc_le_zero _, Int.natCast_nonneg _⟩, rest⟩
  · exact slewTo_ratesOk correction ok

/-! ## Rounds and acquisition (R52, R53, R57, R64) -/

theorem syncAfterRound_good (config : StationConfig) (before : SyncState) (good fresh : Nat) (correction : Int) :
    (syncAfterRound config before good fresh correction).2 ≤ 3 := by
  unfold syncAfterRound
  cases before <;> dsimp only <;> split_ifs <;> omega

/-- The AGU written with its residue, and counts in their ranges. -/
theorem State.RatesOk.setAgu {s : State} {a : AguState} (ok : s.RatesOk) (residue : a.residue = s.agu.residue)
    (good : a.good ≤ 3) (fresh : a.fresh ≤ 32) : (s.setAgu a).RatesOk := by
  obtain ⟨trim, slew, acc, bounds, -, -⟩ := ok
  exact ⟨trim, slew, acc, by rwa [setAgu_agu, residue], good, fresh⟩

theorem updateSync_ratesOk (began : SyncState) (fresh : Nat) (correction : Int) {s : State} (ok : s.RatesOk) :
    (s.updateSync began fresh correction).RatesOk := by
  have good := syncAfterRound_good s.stc.config began s.agu.good fresh correction
  have updated : ∀ y, (s.setAgu { s.agu with
      sync := y, good := (syncAfterRound s.stc.config began s.agu.good fresh correction).2 }).RatesOk := fun _ =>
    ok.setAgu rfl good ok.2.2.2.2.2
  unfold State.updateSync
  dsimp only
  split
  · exact updated _
  · exact (tellClu_touches _ _).ratesOk (by decide) ((post_touches _ _).ratesOk (by decide) (updated _))

/-- The offsets of a round come from the 32 entries of the table (R57). -/
theorem offsets_length_le (of : Peer → Option Int) (s : State) : (s.offsets of).length ≤ 32 := by
  have most := List.length_filterMap_le (fun p : Option Peer => p.bind of) s.agu.peers.toList
  rwa [Vector.length_toList] at most

/-- An entry aged, and one written, leave the correction. -/
theorem agePeer_rates (s : State) (i : Fin 32) : (s.agePeer i).rates = s.rates := by
  have written : ∀ p (u : State), (u.setPeer i p).rates = u.rates := fun _ _ => rfl
  unfold State.agePeer
  split
  · rfl
  · dsimp only
    split
    · rw [(post_touches _ _).rates (by decide), written, (postIf_touches _ _ _).rates (by decide), written]
    · rw [(postIf_touches _ _ _).rates (by decide), written]

theorem agePeers_rates (s : State) : s.agePeers.rates = s.rates := by
  unfold State.agePeers
  induction allIndexes generalizing s with
  | nil => rfl
  | cons i rest ih => exact (ih _).trans (agePeer_rates s i)

theorem buildBeat_rates (boundary : Micros) (change : Int) (fresh : Nat) (s : State) :
    (s.buildBeat boundary change fresh).rates = s.rates := by
  unfold State.buildBeat
  dsimp only
  split
  · rfl
  · rw [(placeBeat_touches _ _).rates (by decide)]
    rfl

theorem syncRound_ratesOk {s : State} (ok : s.RatesOk) : s.syncRound.RatesOk := by
  have counted : ∀ (u : State) n, u.RatesOk → n ≤ 32 → (u.setAgu { u.agu with fresh := n }).RatesOk := fun _ _ ok most =>
    ok.setAgu rfl ok.2.2.2.2.1 most
  have aged := ratesOk_of_rates (agePeers_rates s) ok
  have cleared : ∀ u : State, (u.setAgu u.agu.cleared).rates = u.rates := fun _ => rfl
  have bounded : ∀ (u : State) b, ((u.setAgu { u.agu with boundary := b }).setIku { u.iku with noticed := false }).rates
      = u.rates := fun _ _ => rfl
  have round : ∀ boundary, (s.roundAt boundary).RatesOk := fun boundary => by
    unfold State.roundAt
    dsimp only
    refine ratesOk_of_rates (((bounded _ _).trans (buildBeat_rates _ _ _ _)).trans (cleared _)) ?_
    exact updateSync_ratesOk _ _ _ (correct_ratesOk _ _ (counted _ _ aged (offsets_length_le _ _)))
  unfold State.syncRound
  split
  · exact round _
  · exact ok

theorem endWindow_ratesOk {s : State} (ok : s.RatesOk) : s.endWindow.RatesOk := by
  have acquired : s.acquire.RatesOk := by
    have stepped := ratesOk_of_rates (stepTime_rates (midpoint (s.offsets Peer.acquisitionOffset)) s) ok
    have count := offsets_length_le Peer.acquisitionOffset s
    unfold State.acquire
    dsimp only
    generalize s.stepTime _ = u at stepped ⊢
    exact (setIku_touches _ _).ratesOk (by decide) ((tellClu_touches _ _).ratesOk (by decide)
      (stepped.setAgu rfl (Nat.zero_le _) count))
  exact (post_touches _ _).ratesOk (by decide) ((setStc_touches _ _).ratesOk (by decide) acquired)

/-! ## Frames and edges -/

/-- A heard report and a BEAT sample write the peer table (R48, R50). -/
theorem heard_rates (id : StationId) (s : State) : (s.heard id).rates = s.rates := by
  have written : ∀ i p (u : State), (u.setPeer i p).rates = u.rates := fun _ _ _ => rfl
  have created : ∀ i j (u : State), (u.createPeer i j).rates = u.rates := fun i j u =>
    ((post_touches _ _).rates (by decide)).trans (written _ _ u)
  unfold State.heard
  split
  · split
    · exact ((postIf_touches _ _ _).rates (by decide)).trans (written _ _ s)
    · rfl
  · split
    · exact created _ _ s
    · unfold State.heardFull
      split
      · exact (created _ _ _).trans ((post_touches _ _).rates (by decide))
      · split
        · rfl
        · simp [State.rates]

theorem beatSample_rates (id : StationId) (stamp capture : BusTime) (interval : Nat) (sync : SyncState) (sequence : Byte)
    (s : State) : (s.beatSample id stamp capture interval sync sequence).rates = s.rates := by
  unfold State.beatSample
  split <;> rfl

theorem dispatch_rates (a : Accepted) (content : Content) (s : State) : (s.dispatch a content).rates = s.rates := by
  unfold State.dispatch
  split
  · split
    · rfl
    · split
      · exact beatSample_rates _ _ _ _ _ _ _
      · rfl
  · exact (recallEntries_touches _ _).rates (by decide)
  · split
    · rfl
    · exact (react_touches _ _).rates (by decide)
  · exact (takeCue_touches _ _ _).rates (by decide)

theorem intake_rates (a : Accepted) (s : State) : (s.intake a).rates = s.rates := by
  have clashed : (if s.isClash a then s.idClash else s).rates = s.rates := by
    split
    · exact (idClash_touches s).rates (by decide)
    · rfl
  have heard : ∀ u : State, (if u.isHeard a then u.heard a.frame.station else u).rates = u.rates := fun u => by
    split
    · exact heard_rates _ u
    · rfl
  have valid : ∀ u : State, (u.validate a).rates = u.rates := fun u => by
    unfold State.validate
    split
    · exact (malformed_touches _ u).rates (by decide)
    · exact dispatch_rates _ _ u
  have gated : ∀ u : State, (u.gate a).rates = u.rates := fun u => by
    unfold State.gate
    split
    · exact valid u
    · split
      · exact valid u
      · rfl
    · rfl
  exact ((gated _).trans (heard _)).trans clashed

/-- The sight of an edge fixes what the edges of its cycle read (R42). -/
theorem edgeSeen_steady (s : State) : Steady s s.edgeSeen.2 := by
  unfold State.edgeSeen
  split
  · exact .refl s
  · exact ⟨⟨rfl, rfl, rfl, rfl⟩, rfl, rfl, rfl, rfl⟩

/-! ## Every step -/

theorem expire_ratesOk {s : State} {stored : State → Option Micros} {event : State → State}
    (owner : ∀ u : State, u.RatesOk → (event u).RatesOk) (ok : s.RatesOk) : (s.expire stored event).RatesOk :=
  expire_keeps (P := State.RatesOk) ((takeWord_touches s).ratesOk (by decide)) (fun t _ => runTo_ratesOk t)
    (fun _ u _ _ => owner u) ok

theorem unlessSpent_ratesOk {s : State} {c : Instr} {event : State → State} (owner : s.RatesOk → (event s).RatesOk)
    (ok : s.RatesOk) : (s.unlessSpent c event).RatesOk :=
  unlessSpent_keeps (P := State.RatesOk) ((takeWord_touches s).ratesOk (by decide)) (fun _ _ ok => ok) owner ok

theorem takeCommand_ratesOk {s : State} {handle : State → State × Reply} (owner : s.RatesOk → (handle s).1.RatesOk)
    (ok : s.RatesOk) : (s.takeCommand handle).RatesOk :=
  takeCommand_keeps (P := State.RatesOk) (fun _ _ ok => ok) owner ok

/-- RESTART and pin reset leave a station without a correction (R45, R66). -/
theorem ratesOk_of_zero {s : State} (zero : s.rates = ((0, 0, 0), 0, 0, 0)) : s.RatesOk :=
  ratesOk_of_rates (s := State.reset) zero (by unfold State.RatesOk; decide)

theorem exec_ratesOk (c : Instr) {s t : State} (ok : s.RatesOk) (ran : exec c s = .next t) : t.RatesOk := by
  by_cases quiet : Instr.isSteady c = true
  · exact ratesOk_of_rates (exec_steady c quiet ran).rates ok
  cases c with
  | setStation a =>
    have frame := configure_touches (values := configOf a) (write := State.writeStation) fun _ => setStc_touches s _
    exact next_keeps ran (takeCommand_ratesOk (frame.ratesOk (by decide)) ok)
  | join => exact next_keeps ran (takeCommand_ratesOk ((join_touches s).ratesOk (by decide)) ok)
  | restart =>
    have zero : s.restart.rates = ((0, 0, 0), 0, 0, 0) := (post_touches .restarted s.restartBlocks).rates (by decide)
    exact next_keeps ran (takeCommand_ratesOk (fun _ => ratesOk_of_zero zero) ok)
  | pinReset => exact next_keeps ran (ratesOk_of_zero rfl)
  | postCueLocal a => exact next_keeps ran (takeCommand_ratesOk ((postLocal_touches a s).ratesOk (by decide)) ok)
  | postRecallLocal a => exact next_keeps ran (takeCommand_ratesOk ((recallLocal_touches a s).ratesOk (by decide)) ok)
  | markEdge input edge =>
    refine next_keeps ran ?_
    split
    · exact (takeSeenEdge_touches input edge _ _).ratesOk (by decide) (ratesOk_of_rates (edgeSeen_steady s).rates ok)
    · exact ok
  | acceptance f ack =>
    obtain steady | ⟨u, a, steady, rfl⟩ := acceptance_cases ran
    · exact ratesOk_of_rates steady.rates ok
    · exact ratesOk_of_rates ((intake_rates a u).trans steady.rates) ok
  | recoveryTimeExpiry => exact next_keeps ran (expire_ratesOk (fun u => (recoverBy_touches true u).ratesOk (by decide)) ok)
  | syncRound => exact next_keeps ran (expire_ratesOk (fun _ => syncRound_ratesOk) ok)
  | listenWindowEnd => exact next_keeps ran (expire_ratesOk (fun _ => endWindow_ratesOk) ok)
  | scheduleExpiry => exact next_keeps ran (expire_ratesOk (fun u => (expireFirst_touches u).ratesOk (by decide)) ok)
  | staleTimeExpiry p => exact next_keeps ran (expire_ratesOk (fun u => (expireStale_touches p u).ratesOk (by decide)) ok)
  | pulseEnd line =>
    exact next_keeps ran (unlessSpent_ratesOk (expire_ratesOk fun u => (endPulse_touches line u).ratesOk (by decide)) ok)
  | spacingEnd input =>
    exact next_keeps ran (unlessSpent_ratesOk (expire_ratesOk fun u => (setMarkInput_touches _ _ u).ratesOk (by decide)) ok)
  | _ => exact absurd rfl quiet

/-- Settles O58: what every command and every event of an empty queue keeps, a step keeps. -/
theorem stepKeepsRateRanges : Obligations.StepKeepsRateRanges := fun _ _ =>
  step_keeps (P := State.RatesOk) (fun c _ _ => exec_ratesOk c) (fun _ _ => id) (fun _ => id)
    (fun s => (takeWord_touches s).ratesOk (by decide)) (fun s => (settleSpans_touches s).ratesOk (by decide))
    (fun _ => tick_ratesOk)

end Sys2Proof.Machine
end

section
/-! SUPPORT. The schedule in schedule order and within its bounds (O32): what an insertion, an arrival, a recall, a step handling and the passing of time make of it. -/

namespace Sys2Proof.Machine

/-! ## Schedule order (R99) -/

theorem before_iff (ahead : Micros → Int) (a b : Entry) :
    before ahead a b = true ↔ ahead a.due < ahead b.due
      ∨ ahead a.due = ahead b.due
        ∧ (a.key.origin < b.key.origin ∨ a.key.origin = b.key.origin ∧ a.key.number < b.key.number) := by
  unfold before
  split
  · rename_i apart
    simp [apart]
  · rename_i same
    rw [ne_eq, not_not] at same
    split
    · rename_i other
      simp [same, other]
    · rename_i origin
      rw [ne_eq, not_not] at origin
      simp [same, origin]

theorem before_trans {ahead : Micros → Int} {a b c : Entry} (h : before ahead a b = true) (k : before ahead b c = true) :
    before ahead a c = true := by
  rw [before_iff] at *
  simp only [BitVec.lt_def, ← BitVec.toNat_inj] at *
  omega

/-- Of two entries of different keys one stands before the other. -/
theorem before_of_not {ahead : Micros → Int} {a b : Entry} (apart : a.key ≠ b.key) (not : ¬before ahead a b = true) :
    before ahead b a = true := by
  have fields : a.key.origin.toNat = b.key.origin.toNat → a.key.number.toNat ≠ b.key.number.toNat := fun origin number =>
    apart (by
      cases ka : a.key
      cases kb : b.key
      simp only [ka, kb, BitVec.toNat_inj] at origin number
      rw [origin, number])
  rw [before_iff] at *
  simp only [BitVec.lt_def, ← BitVec.toNat_inj] at *
  omega

theorem standsBefore_iff (c : CsuState) (now : Micros) (a b : Entry) :
    standsBefore c.word now a b ↔ before (c.ahead now) a b = true := by
  rw [before_iff]
  unfold standsBefore CsuState.ahead
  cases c.word with
  | none => rfl
  | some w => cases w <;> rfl

theorem insertEntry_perm (ahead : Micros → Int) (e : Entry) (l : List Entry) : (insertEntry ahead e l).Perm (e :: l) := by
  induction l with
  | nil => exact .refl _
  | cons x rest ih =>
    unfold insertEntry
    split
    · exact .refl _
    · exact (ih.cons x).trans (.swap e x rest)

/-- An entry of a new key put at its position keeps the order (R106). -/
theorem insertEntry_pairwise {ahead : Micros → Int} {e : Entry} {l : List Entry}
    (sorted : l.Pairwise fun a b => before ahead a b = true) (fresh : ∀ x ∈ l, x.key ≠ e.key) :
    (insertEntry ahead e l).Pairwise fun a b => before ahead a b = true := by
  induction l with
  | nil => exact List.pairwise_singleton _ e
  | cons x rest ih =>
    obtain ⟨front, back⟩ := List.pairwise_cons.mp sorted
    unfold insertEntry
    split
    · rename_i first
      refine List.pairwise_cons.mpr ⟨fun y m => ?_, sorted⟩
      obtain rfl | later := List.mem_cons.mp m
      · exact first
      · exact before_trans first (front y later)
    · rename_i behind
      have apart : e.key ≠ x.key := (fresh x (List.mem_cons_self ..)).symm
      refine List.pairwise_cons.mpr ⟨fun y m => ?_, ih back fun y m => fresh y (List.mem_cons_of_mem _ m)⟩
      obtain rfl | later := mem_insertEntry.mp m
      · exact before_of_not apart behind
      · exact front y later

/-! ## The schedule in order -/

/-- A repeat's period is one that its 24 bits hold (R18, R98). -/
def Entry.PeriodOk (e : Entry) : Prop := ∀ r, e.rpt = some r → 1 ≤ r.period ∧ r.period < 2 ^ 24

/-- The schedule in schedule order, its entries within their bounds, and no two of one key (R98, R99). -/
def CsuState.Ordered (c : CsuState) (now : Micros) : Prop :=
  (c.schedule.map Entry.key).Nodup
    ∧ c.schedule.Pairwise (fun a b => before (c.ahead now) a b = true)
    ∧ ∀ e ∈ c.schedule, dueInBounds c.word now e.due ∧ e.PeriodOk

/-- The part's schedule in order at its bus time. -/
def State.InOrder (s : State) : Prop := s.csu.Ordered s.micros

theorem inOrder_iff (s : State) : s.InOrder ↔ (s.csu.schedule.map Entry.key).Nodup ∧ s.ScheduleOrdered := by
  unfold State.InOrder CsuState.Ordered State.ScheduleOrdered Entry.PeriodOk
  simp only [← standsBefore_iff]

theorem inOrder_of_eq {s t : State} (csu : t.csu = s.csu) (now : t.micros = s.micros) (ok : s.InOrder) : t.InOrder := by
  unfold State.InOrder
  rwa [csu, now]

theorem Steady.inOrder {s t : State} (h : Steady s t) (ok : s.InOrder) : t.InOrder :=
  inOrder_of_eq h.csu (congrArg microsOf h.clock.1) ok

theorem Touches.micros {bs : List Part} {s t : State} (h : Touches bs s t) (apart : .btu ∉ bs) :
    t.micros = s.micros := by
  rw [State.micros, h.btu apart]
  rfl

/-- The invariant reads the CSU and bus time. -/
theorem Touches.inOrder {bs : List Part} {s t : State} (h : Touches bs s t) (apart : .btu ∉ bs ∧ .csu ∉ bs)
    (ok : s.InOrder) : t.InOrder :=
  inOrder_of_eq (h.csu apart.2) (h.micros apart.1) ok

theorem ordered_nil (w : Option StepWord) (now : Micros) : CsuState.Ordered { schedule := [], word := w } now :=
  ⟨.nil, .nil, fun _ held => absurd held List.not_mem_nil⟩

section Ordered

variable {c : CsuState} {now : Micros} (ok : c.Ordered now)
include ok

/-- Entries that leave leave the others in order. -/
theorem CsuState.Ordered.sublist {l : List Entry} (fewer : l.Sublist c.schedule) :
    CsuState.Ordered { c with schedule := l } now := by
  obtain ⟨keys, sorted, each⟩ := ok
  exact ⟨keys.sublist (fewer.map _), sorted.sublist fewer, fun e m => each e (fewer.subset m)⟩

/-- An entry of a new key, within its bounds, put at its position (R106). -/
theorem CsuState.Ordered.insert {e : Entry} (due : dueInBounds c.word now e.due) (period : e.PeriodOk)
    (fresh : ∀ x ∈ c.schedule, x.key ≠ e.key) :
    CsuState.Ordered { c with schedule := insertEntry (c.ahead now) e c.schedule } now := by
  obtain ⟨keys, sorted, each⟩ := ok
  refine ⟨?_, insertEntry_pairwise sorted fresh, fun x m => ?_⟩
  · refine (((insertEntry_perm _ e c.schedule).map Entry.key).nodup_iff).mpr (List.nodup_cons.mpr ⟨?_, keys⟩)
    rintro same
    obtain ⟨x, m, key⟩ := List.mem_map.mp same
    exact fresh x m key
  · obtain rfl | held := mem_insertEntry.mp m
    · exact ⟨due, period⟩
    · exact each x held

/-- Where every distance moves by the same the order stays. -/
theorem CsuState.Ordered.shift {w : Option StepWord} {later : Micros} (change : Int)
    (moved : ∀ e ∈ c.schedule, ({ c with word := w } : CsuState).ahead later e.due = c.ahead now e.due - change)
    (bounds : ∀ e ∈ c.schedule, dueInBounds w later e.due) : CsuState.Ordered { c with word := w } later := by
  obtain ⟨keys, sorted, each⟩ := ok
  refine ⟨keys, sorted.imp_of_mem fun {a b} ma mb h => ?_, fun e m => ⟨bounds e m, (each e m).2⟩⟩
  rw [before_iff] at h ⊢
  rw [moved a ma, moved b mb]
  obtain nearer | ⟨same, key⟩ := h
  · exact .inl (by omega)
  · exact .inr ⟨by omega, key⟩

end Ordered

/-- A due time within the horizon of bus time is within the bounds whatever word waits. -/
theorem dueInBounds_of_near {now due : Micros} (near : (due - now).toNat ≤ 2 ^ 30) (word : Option StepWord) :
    dueInBounds word now due := by
  have signed : (due - now).toInt = (due - now).toNat := BitVec.toInt_eq_toNat_of_lt (by omega)
  cases word with
  | none => exact near
  | some w =>
    cases w with
    | forward => rw [dueInBounds, signed]; exact_mod_cast near
    | backward => exact near.trans (by decide)

/-! ## Re-entries (R110) -/

/-- An entry that re-enters does so with its key, its period, and the first occurrence ahead. -/
theorem reentry_some {e again : Entry} {lateness : Nat} (h : e.reentry lateness = some again) :
    again.key = e.key ∧ ∃ r left, e.rpt = some r ∧ again.rpt = some { r with count := left }
      ∧ again.due = e.due + BitVec.ofNat 32 ((lateness / r.period + 1) * r.period) := by
  cases rpt : e.rpt with
  | none => simp [Entry.reentry, nextOccurrence, rpt] at h
  | some r =>
    rw [reentry_of_repeat rpt] at h
    split at h
    · cases h
    · cases h
      exact ⟨rfl, r, _, rfl, rfl, rfl⟩

/-- The first occurrence ahead lies at most one period ahead. -/
theorem nextOccurrence_near {due now : Micros} {period : Nat} (least : 1 ≤ period) (most : period < 2 ^ 24) :
    (due + BitVec.ofNat 32 (((now - due).toNat / period + 1) * period) - now).toNat ≤ 2 ^ 30 := by
  have split := Nat.div_add_mod (now - due).toNat period
  have rest := Nat.mod_lt (now - due).toNat least
  have whole : ((now - due).toNat / period + 1) * period = period * ((now - due).toNat / period) + period := by ring
  have late := BitVec.toNat_sub now due
  have short := due.isLt
  have short' := now.isLt
  rw [whole, BitVec.toNat_sub, BitVec.toNat_add, BitVec.toNat_ofNat]
  omega

theorem reentry_fits {e again : Entry} {now : Micros} (h : e.reentry (distance now e.due) = some again)
    (period : e.PeriodOk) :
    again.key = e.key ∧ again.PeriodOk ∧ (again.due - now).toNat ≤ 2 ^ 30 := by
  obtain ⟨key, r, left, rpt, rpt', due⟩ := reentry_some h
  obtain ⟨least, most⟩ := period r rpt
  refine ⟨key, fun r' held => ?_, ?_⟩
  · obtain rfl := Option.some.inj (rpt'.symm.trans held)
    exact ⟨least, most⟩
  · rw [due]
    exact nextOccurrence_near least most

/-- A late occurrence re-enters as its entry does. -/
theorem lateOccurrence_reentry {e again : Entry} {lateness : Nat} {s : State}
    (h : (s.lateOccurrence e lateness).2 = some again) :
    e.reentry lateness = some again ∨ ({ e with late := true } : Entry).reentry lateness = some again := by
  unfold State.lateOccurrence at h
  split at h
  · exact .inr h
  · exact .inl h

theorem lateOccurrence_fits {e again : Entry} {s : State} {now : Micros}
    (h : (s.lateOccurrence e (distance now e.due)).2 = some again) (period : e.PeriodOk) :
    again.key = e.key ∧ again.PeriodOk ∧ (again.due - now).toNat ≤ 2 ^ 30 := by
  obtain h | h := lateOccurrence_reentry h
  · exact reentry_fits h period
  · exact reentry_fits (e := { e with late := true }) h period

/-! ## Step handling (R114, R115) -/

theorem insert_inOrder {e : Entry} {s : State} (ok : s.InOrder) (near : (e.due - s.micros).toNat ≤ 2 ^ 30)
    (period : e.PeriodOk) (fresh : ∀ x ∈ s.csu.schedule, x.key ≠ e.key) : (s.insert e).InOrder :=
  CsuState.Ordered.insert ok (dueInBounds_of_near near _) period fresh

/-- One entry that a forward step reached, taken: it may re-enter, and nothing else joins the schedule. -/
theorem takeReached_inOrder {e : Entry} {s : State} (ok : s.InOrder) (period : e.PeriodOk)
    (fresh : ∀ x ∈ s.csu.schedule, x.key ≠ e.key) :
    (s.takeReached e).InOrder ∧ ∀ x ∈ (s.takeReached e).csu.schedule, x.key = e.key ∨ x ∈ s.csu.schedule := by
  have frame := lateOccurrence_touches e (distance s.micros e.due) s
  have csu := frame.csu (by decide)
  have done := frame.inOrder (by decide) ok
  unfold State.takeReached
  dsimp only
  split
  · rename_i again h
    obtain ⟨key, period', near⟩ := lateOccurrence_fits h period
    refine ⟨insert_inOrder done (by rwa [frame.micros (by decide)]) period' (by rwa [csu, key]), fun x m => ?_⟩
    obtain rfl | held := mem_insertEntry.mp m
    · exact .inl key
    · exact .inr (csu ▸ held)
  · exact ⟨done, fun x m => .inr (csu ▸ m)⟩

/-- The entries that a forward step reached, taken one after the other. -/
theorem takeReached_foldl_inOrder (l : List Entry) {s : State} (ok : s.InOrder) (period : ∀ e ∈ l, e.PeriodOk)
    (keys : (l.map Entry.key).Nodup) (fresh : ∀ e ∈ l, ∀ x ∈ s.csu.schedule, x.key ≠ e.key) :
    (l.foldl State.takeReached s).InOrder := by
  induction l generalizing s with
  | nil => exact ok
  | cons e rest ih =>
    obtain ⟨apart, keys⟩ := List.nodup_cons.mp keys
    have here := List.mem_cons_self (a := e) (l := rest)
    obtain ⟨ok, held⟩ := takeReached_inOrder ok (period e here) (fresh e here)
    refine ih ok (fun x m => period x (List.mem_cons_of_mem _ m)) keys fun x m y my same => ?_
    obtain key | before := held y my
    · exact apart (List.mem_map.mpr ⟨x, m, same.symm.trans key⟩)
    · exact fresh x (List.mem_cons_of_mem _ m) y before same

/-- The CSU's measure once no word waits. -/
theorem ahead_of_none {c : CsuState} (none : c.word = none) (now due : Micros) : c.ahead now due = (due - now).toNat := by
  rw [CsuState.ahead, none]
  rfl

theorem ahead_of_forward {c : CsuState} (forward : c.word = some .forward) (now due : Micros) :
    c.ahead now due = (due - now).toInt := by
  rw [CsuState.ahead, forward]

theorem ahead_of_backward {c : CsuState} (backward : c.word = some .backward) (now due : Micros) :
    c.ahead now due = (due - now).toNat := by
  rw [CsuState.ahead, backward]
  rfl

/-- The entries that a forward step did not reach are ahead, within the horizon. -/
theorem forward_ordered {c : CsuState} {now : Micros} (ok : c.Ordered now) (forward : c.word = some .forward) :
    CsuState.Ordered { schedule := c.schedule.filter fun e => !e.isReached now, word := none } now := by
  have kept := ok.sublist (List.filter_sublist (l := c.schedule) (p := fun e => !e.isReached now))
  obtain ⟨-, -, each⟩ := ok
  have near : ∀ e ∈ c.schedule.filter fun e => !e.isReached now,
      (e.due - now).toInt = (e.due - now).toNat ∧ (e.due - now).toNat ≤ 2 ^ 30 := fun e m => by
    obtain ⟨held, ahead⟩ := List.mem_filter.mp m
    have bound := (each e held).1
    rw [forward, dueInBounds] at bound
    simp only [Entry.isReached, Bool.not_eq_true', decide_eq_false_iff_not] at ahead
    have read := BitVec.toInt_eq_toNat_cond (e.due - now)
    split at read <;> omega
  refine kept.shift (w := none) 0 (fun e m => ?_) fun e m => (near e m).2
  rw [ahead_of_none rfl, ahead_of_forward (by exact forward), (near e m).1, sub_zero]

/-- The entries that a backward step left within the horizon. -/
theorem backward_ordered {c : CsuState} {now : Micros} (ok : c.Ordered now) (backward : c.word = some .backward) :
    CsuState.Ordered { schedule := c.schedule.filter fun e => !e.isBeyond now, word := none } now := by
  refine (ok.sublist (List.filter_sublist (l := c.schedule) (p := fun e => !e.isBeyond now))).shift (w := none) 0
    (fun e m => ?_) fun e m => ?_
  · rw [ahead_of_none rfl, ahead_of_backward (by exact backward), sub_zero]
  · have within := (List.mem_filter.mp m).2
    have near : ¬ Config.horizon < distance e.due now := by
      simpa only [Entry.isBeyond, Bool.not_eq_true', decide_eq_false_iff_not] using within
    exact Nat.not_lt.mp near

theorem takeWord_word (s : State) : s.takeWord.csu.word = none := by
  have reached : ∀ (l : List Entry) (u : State), u.csu.word = none → (l.foldl State.takeReached u).csu.word = none := by
    intro l
    induction l with
    | nil => exact fun u none => none
    | cons e rest ih =>
      refine fun u none => ih _ ?_
      unfold State.takeReached
      dsimp only
      have csu := (lateOccurrence_touches e (distance u.micros e.due) u).csu (by decide)
      split
      · exact (congrArg CsuState.word csu).trans none
      · rwa [csu]
  unfold State.takeWord
  split
  · assumption
  · exact reached _ _ rfl
  · exact congrArg CsuState.word ((Touches.foldl (fun s e => post_touches _ s) _ _).csu (by decide))

/-- The CSU's step handling keeps the schedule in order (R114, R115). -/
theorem takeWord_inOrder {s : State} (ok : s.InOrder) : s.takeWord.InOrder := by
  unfold State.takeWord
  split
  · exact ok
  · rename_i forward
    have kept : ((s.setWord none).setSchedule (s.csu.schedule.filter fun e => !e.isReached s.micros)).InOrder :=
      forward_ordered ok forward
    obtain ⟨keys, -, each⟩ := ok
    refine takeReached_foldl_inOrder _ kept (fun e m => (each e (List.mem_of_mem_filter m)).2)
      (keys.sublist (List.filter_sublist.map _)) fun e m x mx same => ?_
    obtain ⟨held, reached⟩ := List.mem_filter.mp m
    obtain ⟨held', ahead⟩ := List.mem_filter.mp mx
    obtain rfl := List.inj_on_of_nodup_map keys held' held same
    exact absurd reached (by simpa using ahead)
  · rename_i backward
    have kept : ((s.setWord none).setSchedule (s.csu.schedule.filter fun e => !e.isBeyond s.micros)).InOrder :=
      backward_ordered ok backward
    exact (Touches.foldl (fun u e => post_touches _ u) _ _).inOrder (by decide) kept

theorem meetWord_inOrder {s : State} (ok : s.InOrder) : s.meetWord.InOrder := by
  unfold State.meetWord
  split
  · exact ok
  · split
    · exact takeWord_inOrder (s := s.drawn) ok
    · exact ok

/-! ## Arrivals and recalls (R100 to R106, R111) -/

theorem setSchedule_inOrder {l : List Entry} {s : State} (ok : s.InOrder) (fewer : l.Sublist s.csu.schedule) :
    (s.setSchedule l).InOrder :=
  CsuState.Ordered.sublist ok fewer

theorem entryFor_none {key : CueKey} {s : State} (none : s.entryFor key = none) : ∀ x ∈ s.csu.schedule, x.key ≠ key :=
  fun x m => by simpa using List.find?_eq_none.mp none x m

theorem removeKey_fresh (key : CueKey) (s : State) : ∀ x ∈ (s.removeKey key).csu.schedule, x.key ≠ key := fun x m => by
  simpa using (List.mem_filter.mp m).2

theorem removeKey_inOrder (key : CueKey) {s : State} (ok : s.InOrder) : (s.removeKey key).InOrder :=
  setSchedule_inOrder ok List.filter_sublist

theorem place_inOrder {e : Entry} {s : State} (ok : s.InOrder) (near : (e.due - s.micros).toNat ≤ 2 ^ 30)
    (period : e.PeriodOk) (fresh : ∀ x ∈ s.csu.schedule, x.key ≠ e.key) : (s.place e).InOrder := by
  unfold State.place
  split
  · exact insert_inOrder ok near period fresh
  · have evicted := setSchedule_inOrder ok (List.dropLast_sublist _)
    refine insert_inOrder ((post_touches _ _).inOrder (by decide) evicted) ?_ period ?_
    · rw [post_micros]
      exact near
    · rw [post_csu]
      exact fun x m => fresh x ((List.dropLast_sublist _).subset m)
  · exact (post_touches _ _).inOrder (by decide) ok

theorem revise_inOrder {old e : Entry} {s : State} (ok : s.InOrder) (near : (e.due - s.micros).toNat ≤ 2 ^ 30)
    (period : e.PeriodOk) : (s.revise old e).InOrder := by
  unfold State.revise
  split
  · exact ok
  · exact (postIf_touches _ _ _).inOrder (by decide)
      (insert_inOrder (e := { e with late := false }) (removeKey_inOrder e.key ok) near period (removeKey_fresh e.key s))

/-- What an arrival past its due time supersedes (R103). -/
def State.superseded (e : Entry) (s : State) : State :=
  match s.entryFor e.key with
  | some old => (s.removeKey e.key).postIf (old.notify || e.notify) (e.notice .revised 0)
  | none => s

theorem arrivePast_eq (e : Entry) (s : State) :
    s.arrivePast e =
      let done := (s.superseded e).lateOccurrence e (distance s.micros e.due)
      match done.2 with
      | some again => done.1.place again
      | none => done.1 := rfl

theorem superseded_inOrder (e : Entry) {s : State} (ok : s.InOrder) :
    (s.superseded e).InOrder ∧ (s.superseded e).micros = s.micros
      ∧ ∀ x ∈ (s.superseded e).csu.schedule, x.key ≠ e.key := by
  unfold State.superseded
  split
  · have frame := postIf_touches (‹Entry›.notify || e.notify) (e.notice .revised 0) (s.removeKey e.key)
    refine ⟨frame.inOrder (by decide) (removeKey_inOrder e.key ok), frame.micros (by decide), ?_⟩
    rw [frame.csu (by decide)]
    exact removeKey_fresh e.key s
  · exact ⟨ok, rfl, entryFor_none ‹_›⟩

theorem arrivePast_inOrder {e : Entry} {s : State} (ok : s.InOrder) (period : e.PeriodOk) : (s.arrivePast e).InOrder := by
  obtain ⟨ok, now, fresh⟩ := superseded_inOrder e ok
  have frame := lateOccurrence_touches e (distance s.micros e.due) (s.superseded e)
  have done := frame.inOrder (by decide) ok
  rw [arrivePast_eq]
  dsimp only
  split
  · rename_i again h
    obtain ⟨key, period', near⟩ := lateOccurrence_fits h period
    refine place_inOrder done ?_ period' ?_
    · rwa [frame.micros (by decide), now]
    · rwa [frame.csu (by decide), key]
  · exact done

/-- An arrival ahead lies within the horizon (R102). -/
theorem near_of_ahead {due : Micros} {s : State} (ahead : s.dueTime due = .ahead) : (due - s.micros).toNat ≤ 2 ^ 30 := by
  unfold State.dueTime at ahead
  split at ahead
  · cases ahead
  · split at ahead
    · cases ahead
    · rename_i within
      exact Nat.not_lt.mp within

theorem decideArrival_inOrder {e : Entry} {s : State} (ok : s.InOrder) (period : e.PeriodOk) :
    (s.decideArrival e).InOrder := by
  unfold State.decideArrival
  split
  · exact (post_touches _ _).inOrder (by decide) ok
  · exact arrivePast_inOrder ok period
  · have near := near_of_ahead ‹_›
    split
    · exact revise_inOrder ok near period
    · exact place_inOrder ok near period (entryFor_none ‹_›)

theorem arrive_inOrder {e : Entry} {s : State} (ok : s.InOrder) (period : e.PeriodOk) : (s.arrive e).InOrder :=
  decideArrival_inOrder (meetWord_inOrder ok) period

theorem arriveLocal_inOrder {e : Entry} {s : State} (ok : s.InOrder) (period : e.PeriodOk) : (s.arriveLocal e).1.InOrder := by
  have met := meetWord_inOrder ok
  unfold State.arriveLocal State.decideLocal
  split
  · exact met
  · exact met
  · have near := near_of_ahead ‹_›
    split
    · exact revise_inOrder met near period
    · split
      · exact met
      · exact place_inOrder met near period (entryFor_none ‹_›)

theorem recallEntries_inOrder (r : Recall) {s : State} (ok : s.InOrder) : (s.recallEntries r).InOrder :=
  (Touches.foldl (fun u e => postIf_touches _ _ u) _ _).inOrder (by decide)
    (setSchedule_inOrder (meetWord_inOrder ok) List.filter_sublist)

/-- A mark's cues have no repeat (R139). -/
theorem react_inOrder (m : SeenMark) {s : State} (ok : s.InOrder) : (s.react m).InOrder := by
  unfold State.react
  induction List.finRange 8 generalizing s with
  | nil => exact ok
  | cons r rest ih =>
    refine ih ?_
    unfold State.tryReaction
    split
    · exact arrive_inOrder ok nofun
    · exact ok

theorem takeCue_inOrder (origin : StationId) {c : CueContent} {s : State} (ok : s.InOrder)
    (period : ∀ r, c.rpt = some r → 1 ≤ r.period ∧ r.period < 2 ^ 24) : (s.takeCue origin c).InOrder := by
  unfold State.takeCue
  split
  · exact arrive_inOrder ok period
  · exact ok

/-- A post's repeat has a period that its 24 bits hold (R69). -/
theorem cueOf_period {a : CueArgs} {now : Micros} {c : CueContent} (read : cueOf a now = some c) :
    ∀ r, c.rpt = some r → 1 ≤ r.period ∧ r.period < 2 ^ 24 := by
  intro r held
  simp only [cueOf, Option.bind_eq_bind, Option.bind_eq_some_iff, Option.some.injEq] at read
  obtain ⟨_, -, _, -, _, -, rpt, repeats, rfl⟩ := read
  obtain rfl : rpt = some r := held
  unfold repeatOf at repeats
  split at repeats
  · split at repeats
    · cases repeats
    · rename_i period
      cases repeats
      have short := a.period.isLt
      have least : a.period.toNat ≠ 0 := fun zero => period (BitVec.eq_of_toNat_eq zero)
      exact ⟨Nat.one_le_iff_ne_zero.mpr least, short⟩
  · cases repeats

theorem postLocal_inOrder (a : CueArgs) {s : State} (ok : s.InOrder) : (s.postLocal a).1.InOrder := by
  unfold State.postLocal
  split
  · exact ok
  · split
    · exact ok
    · exact arriveLocal_inOrder ok (cueOf_period ‹_›)

theorem recallLocal_inOrder (a : RecallArgs) {s : State} (ok : s.InOrder) : (s.recallLocal a).1.InOrder := by
  unfold State.recallLocal
  split
  · exact ok
  · split
    · exact ok
    · exact recallEntries_inOrder _ ok

/-! ## The passing of time (R34, R109) -/

/-- The nearest entry comes first. -/
theorem head_first {c : CsuState} {now : Micros} (ok : c.Ordered now) (none : c.word = none) {e : Entry}
    (held : e ∈ c.schedule) : ∃ first, c.schedule.head? = some first ∧ (first.due - now).toNat ≤ (e.due - now).toNat := by
  obtain ⟨-, sorted, -⟩ := ok
  cases schedule : c.schedule with
  | nil => simp [schedule] at held
  | cons first rest =>
    refine ⟨first, rfl, ?_⟩
    rw [schedule] at sorted held
    obtain rfl | later := List.mem_cons.mp held
    · exact le_rfl
    · have stands := (before_iff _ _ _).mp ((List.pairwise_cons.mp sorted).1 e later)
      rw [ahead_of_none none, ahead_of_none none] at stands
      omega

/-- Bus time that comes no further than the armed due time keeps the schedule in order. -/
theorem ordered_later {c : CsuState} {now later : Micros} (ok : c.Ordered now) (none : c.word = none)
    (armed : ∀ first, c.schedule.head? = some first → (later - now).toNat ≤ (first.due - now).toNat) : c.Ordered later := by
  have nearer : ∀ e ∈ c.schedule, (e.due - later).toNat = (e.due - now).toNat - (later - now).toNat
      ∧ (later - now).toNat ≤ (e.due - now).toNat := fun e m => by
    obtain ⟨first, head, nearest⟩ := head_first ok none m
    have reach := (armed first head).trans nearest
    refine ⟨?_, reach⟩
    rw [show e.due - later = (e.due - now) - (later - now) from (sub_sub_sub_cancel_right _ _ _).symm]
    exact BitVec.toNat_sub_of_le reach
  have each := ok.2.2
  refine ok.shift (w := c.word) (later - now).toNat (fun e m => ?_) fun e m => ?_
  · obtain ⟨now', within⟩ := nearer e m
    rw [ahead_of_none none, ahead_of_none none, now']
    omega
  · have bound := (each e m).1
    rw [none, dueInBounds] at bound ⊢
    exact (nearer e m).1 ▸ (Nat.sub_le _ _).trans bound

theorem armedDue_timer {s : State} {first : Entry} (head : s.csu.schedule.head? = some first) :
    (Instr.scheduleExpiry, first.due) ∈ s.timers := by
  have armed : s.armedDue = some first.due := by rw [State.armedDue, head]; rfl
  simp [State.timers, timer, armed]

theorem runTo_micros {s : State} (fit : s.btu.RatesFit) (t : Micros) : (s.runTo t).micros = t := by
  obtain ⟨-, -, there, -⟩ := runTo_first fit t
  rw [State.micros, runTo_btu, there]

/-- Bus time run on to a stored time before which no armed time expires (R34). -/
theorem runTo_inOrder {t : Micros} {s : State} (fit : s.btu.RatesFit) (ok : s.InOrder) (none : s.csu.word = none)
    (first : ∀ x ∈ s.timers, (t - s.micros).toNat ≤ (x.2 - s.micros).toNat) : (s.runTo t).InOrder := by
  have csu := (runTo_touches t s).csu (by decide)
  unfold State.InOrder
  rw [csu, runTo_micros fit]
  exact ordered_later ok none fun e head => first _ (armedDue_timer head)

/-- One reference cycle brings bus time on by one µs at most (R32, R36). -/
theorem tick_micros (b : BtuState) : (microsOf b.tick.time - microsOf b.time).toNat ≤ 1 := by
  have moved : ∃ g ≤ 2, b.tick.time = b.time + BitVec.ofNat 36 g := by
    unfold BtuState.tick
    dsimp only
    split_ifs
    · exact ⟨0, by decide, (BitVec.add_zero _).symm⟩
    · exact ⟨1, by decide, rfl⟩
    · exact ⟨1, by decide, rfl⟩
    · exact ⟨2, le_rfl, rfl⟩
    · exact ⟨0, by decide, (BitVec.add_zero _).symm⟩
  obtain ⟨g, few, time⟩ := moved
  have fine := b.time.isLt
  rw [time]
  simp only [microsOf, BitVec.toNat_sub, BitVec.toNat_add, BitVec.toNat_ofNat]
  omega

/-- A reference cycle in which no due time is reached (R34, R109). -/
theorem tick_inOrder {s : State} (ok : s.InOrder) (none : s.csu.word = none) (nothing : s.dueNow = []) : s.tick.InOrder := by
  have csu := (tick_touches s).csu (by decide)
  have btu : s.tick.btu = s.btu.tick := passCycles_btu 1 s
  unfold State.InOrder
  rw [csu]
  refine ordered_later ok none fun first head => ?_
  have step : (s.tick.micros - s.micros).toNat ≤ 1 := by
    rw [State.micros, btu]
    exact tick_micros s.btu
  have apart : first.due ≠ s.micros := fun now => by
    have due := mem_dueNow.mpr (now ▸ armedDue_timer head)
    rw [nothing] at due
    cases due
  have ahead : (first.due - s.micros).toNat ≠ 0 := fun zero => apart (sub_eq_zero.mp (BitVec.eq_of_toNat_eq zero))
  omega

/-- An expiry of the first entry, at its due time (R109). -/
theorem expireFirst_inOrder {s : State} (ok : s.InOrder) (now : s.armedDue = some s.micros) : s.expireFirst.InOrder := by
  unfold State.expireFirst
  split
  · exact ok
  · rename_i e rest schedule
    have due : e.due = s.micros := by
      rw [State.armedDue, schedule] at now
      exact Option.some.inj now
    have left : (s.setSchedule rest).InOrder := setSchedule_inOrder ok (schedule ▸ List.sublist_cons_self e rest)
    obtain ⟨keys, -, each⟩ := ok
    rw [schedule] at keys each
    have frame := (fire_touches false e (s.setSchedule rest)).trans
      ((postMissed_touches e (occurrencesMissed e.rpt 0 true) _).mono (by decide))
    have told := frame.inOrder (by decide) left
    dsimp only
    split
    · rename_i again h
      have lateness : distance s.micros e.due = 0 := by simp [distance, due]
      rw [← lateness] at h
      obtain ⟨key, period, near⟩ := reentry_fits (e := { e with late := false }) h (each e (List.mem_cons_self ..)).2
      refine insert_inOrder told ?_ period ?_
      · rw [frame.micros (by decide)]
        exact near
      · rw [frame.csu (by decide), key]
        exact fun x m same => (List.nodup_cons.mp keys).1 (List.mem_map.mpr ⟨x, m, same⟩)
    · exact told

/-! ## Steps of bus time (R37, R39) -/

/-- A step moves every distance by its µs change, and what it reaches or carries beyond the horizon waits for its handling (R39, R114, R115). -/
theorem stepTold_inOrder {amount : Int} {s : State} (ok : s.InOrder) (none : s.csu.word = none) (moves : amount ≠ 0)
    (least : -2 ^ 35 ≤ amount) (most : amount < 2 ^ 35) : (s.stepTold amount).InOrder := by
  have exact' := fun due near => distanceAfterStepIsExact s.btu.time due amount near least most
  have fine := s.btu.time.isLt
  have each := ok.2.2
  rw [none] at each
  change CsuState.Ordered { s.csu with word := some (wordOf amount) } (microsOf (s.btu.time + BitVec.ofInt 36 amount))
  by_cases forward : 0 < amount
  · have word : wordOf amount = .forward := if_pos forward
    have later : 0 ≤ Claims.microsChange s.btu.time amount := by
      unfold Claims.microsChange
      omega
    rw [word]
    refine CsuState.Ordered.shift ok (Claims.microsChange s.btu.time amount) (fun e m => ?_) fun e m => ?_
    · rw [ahead_of_forward rfl, ahead_of_none none]
      exact ((exact' e.due (each e m).1).1 forward).1
    · have bound : (e.due - s.micros).toNat ≤ 2 ^ 30 := (each e m).1
      have after := ((exact' e.due bound).1 forward).1
      rw [dueInBounds, after]
      change ((e.due - s.micros).toNat : Int) - _ ≤ _
      omega
  · have backward : amount < 0 := by omega
    have word : wordOf amount = .backward := if_neg forward
    have earlier : -2 ^ 31 ≤ Claims.microsChange s.btu.time amount := by
      unfold Claims.microsChange
      omega
    rw [word]
    refine CsuState.Ordered.shift ok (Claims.microsChange s.btu.time amount) (fun e m => ?_) fun e m => ?_
    · rw [ahead_of_backward rfl, ahead_of_none none]
      exact (exact' e.due (each e m).1).2 backward
    · have bound : (e.due - s.micros).toNat ≤ 2 ^ 30 := (each e m).1
      have after := (exact' e.due bound).2 backward
      rw [dueInBounds]
      change _ = ((e.due - s.micros).toNat : Int) - _ at after
      omega

theorem stepTime_inOrder {amount : Int} {s : State} (ok : s.InOrder) (none : s.csu.word = none)
    (least : -2 ^ 35 ≤ amount) (most : amount < 2 ^ 35) : (s.stepTime amount).InOrder := by
  by_cases still : amount = 0
  · rwa [State.stepTime, if_pos still]
  · rw [stepTime_eq still]
    have told := stepTold_inOrder ok none still least most
    obtain kept | ⟨u, early, late⟩ := reexamine_around_csu (R := fun u v => u.InOrder → v.InOrder) (fun _ => id)
      (fun h k ok => k (h ok)) (Config.reexamineOrder s.draws) s.micros (microsChange s.btu.time amount)
      (s.stepTold amount) (fun u => (reexamineSq_touches _ _ u).inOrder (by decide))
      (fun u => (reexamineFcu_touches _ _ u).inOrder (by decide))
    · exact kept told
    · exact late (takeWord_inOrder (early told))

end Sys2Proof.Machine
end

section
/-! SUPPORT. The peer table (O32): what a heard report, a BEAT sample and a round make of its entries; and that every step keeps the table, and the schedule in order. -/

namespace Sys2Proof.Machine

/-! ## The peer table -/

/-- An offset that is a signed 36-bit difference (R33). -/
def offsetFits (offset : Option Int) : Prop := ∀ o, offset = some o → -2 ^ 35 ≤ o ∧ o < 2 ^ 35

/-- An entry of another valid station, with an offset that is a signed 36-bit difference (R47, R48, R50). -/
def Peer.Ok (own : StationId) (p : Peer) : Prop :=
  1 ≤ p.station.toNat ∧ p.station.toNat ≤ 126 ∧ p.station ≠ own ∧ offsetFits p.offset

/-- The peer table of a station of this state and id. -/
def TableOk (station : StationState) (own : StationId) (peers : Vector (Option Peer) 32) : Prop :=
  (∀ (i : Fin 32) (p : Peer), peers[i] = some p → station ≠ .offline ∧ p.Ok own)
    ∧ ∀ (i j : Fin 32) (p q : Peer), peers[i] = some p → peers[j] = some q → p.station = q.station → i = j

theorem peersOk_iff (s : State) : s.PeersOk ↔ TableOk s.stc.station s.stc.config.id s.agu.peers := Iff.rfl

theorem peersOk_of_eq {s t : State} (station : t.stc.station = s.stc.station) (config : t.stc.config = s.stc.config)
    (peers : t.agu.peers = s.agu.peers) (ok : s.PeersOk) : t.PeersOk := by
  rw [peersOk_iff] at ok ⊢
  rwa [station, config, peers]

theorem Steady.peersOk {s t : State} (h : Steady s t) (ok : s.PeersOk) : t.PeersOk := by
  have peers := congrArg AguState.peers h.agu
  exact peersOk_of_eq h.stc.1 h.stc.2 peers ok

theorem Touches.peers {bs : List Part} {s t : State} (h : Touches bs s t) (apart : .agu ∉ bs) :
    t.agu.peers = s.agu.peers := by
  have peers := congrArg AguState.peers (h.agu apart)
  exact peers

/-- The invariant reads STC and the peer table. -/
theorem Touches.peersOk {bs : List Part} {s t : State} (h : Touches bs s t) (apart : .stc ∉ bs ∧ .agu ∉ bs)
    (ok : s.PeersOk) : t.PeersOk := by
  obtain ⟨station, -, config⟩ := h.stc apart.1
  exact peersOk_of_eq station config (h.peers apart.2) ok

theorem tableOk_empty {peers : Vector (Option Peer) 32} (free : ∀ i : Fin 32, peers[i] = none) (station : StationState)
    (own : StationId) : TableOk station own peers :=
  ⟨fun i _ held => absurd ((free i).symm.trans held) nofun, fun i _ _ _ held => absurd ((free i).symm.trans held) nofun⟩

theorem TableOk.offline_empty {own : StationId} {peers : Vector (Option Peer) 32} (ok : TableOk .offline own peers)
    (i : Fin 32) : peers[i] = none := by
  cases held : peers[i] with
  | none => rfl
  | some p => exact absurd rfl (ok.1 i p held).1

theorem getElem_set_fin {α : Type} {n : Nat} (values : Vector α n) (i j : Fin n) (x : α) :
    (values.set i x)[j] = if i = j then x else values[j] := by
  rw [Fin.getElem_fin, Vector.getElem_set]
  simp only [Fin.val_inj, Fin.getElem_fin]

section Table

variable {station : StationState} {own : StationId} {peers : Vector (Option Peer) 32} (ok : TableOk station own peers)
include ok

theorem TableOk.free (i : Fin 32) : TableOk station own (peers.set i none) := by
  have held : ∀ (j : Fin 32) (p : Peer), (peers.set i none)[j] = some p → peers[j] = some p := fun j p h => by
    rw [getElem_set_fin] at h
    split at h
    · cases h
    · exact h
  exact ⟨fun j p h => ok.1 j p (held j p h), fun j k p q h h' => ok.2 j k p q (held j p h) (held k q h')⟩

/-- An entry written whose station has no entry at another index. -/
theorem TableOk.write {i : Fin 32} {p : Peer} (online : station ≠ .offline) (valid : p.Ok own)
    (one : ∀ j q, peers[j] = some q → q.station = p.station → i = j) : TableOk station own (peers.set i (some p)) := by
  have held : ∀ (j : Fin 32) (q : Peer), (peers.set i (some p))[j] = some q →
      i = j ∧ p = q ∨ i ≠ j ∧ peers[j] = some q := fun j q h => by
    rw [getElem_set_fin] at h
    split at h
    · exact .inl ⟨‹_›, Option.some.inj h⟩
    · exact .inr ⟨‹_›, h⟩
  refine ⟨fun j q h => ?_, fun j k q r h h' same => ?_⟩
  · obtain ⟨-, rfl⟩ | ⟨-, there⟩ := held j q h
    · exact ⟨online, valid⟩
    · exact ok.1 j q there
  · obtain ⟨rfl, rfl⟩ | ⟨-, first⟩ := held j q h <;> obtain ⟨rfl, rfl⟩ | ⟨-, second⟩ := held k r h'
    · rfl
    · exact one k r second same.symm
    · exact (one j q first same).symm
    · exact ok.2 j k q r first second same

/-- An entry replaced by one of the same station. -/
theorem TableOk.replace {i : Fin 32} {p q : Peer} (held : peers[i] = some p) (same : q.station = p.station)
    (offset : offsetFits q.offset) : TableOk station own (peers.set i (some q)) := by
  obtain ⟨online, least, most, other, -⟩ := ok.1 i p held
  refine ok.write online ⟨?_, ?_, ?_, offset⟩ fun j r there id => ok.2 i j p r held there (same.symm.trans id.symm)
  · rwa [same]
  · rwa [same]
  · rwa [same]

/-- The entries written each on its own, their stations kept. -/
theorem TableOk.map {f : Peer → Peer} (station' : ∀ p, (f p).station = p.station) (offset : ∀ p, (f p).offset = p.offset) :
    TableOk station own (mapVector (Option.map f) peers) := by
  have held : ∀ (i : Fin 32) (p : Peer), (mapVector (Option.map f) peers)[i] = some p →
      ∃ q, peers[i] = some q ∧ f q = p := fun i p h => by
    rw [Fin.getElem_fin, getElem_mapVector] at h
    exact Option.map_eq_some_iff.mp h
  refine ⟨fun i p h => ?_, fun i j p q h h' same => ?_⟩
  · obtain ⟨r, there, rfl⟩ := held i p h
    simpa only [Peer.Ok, station', offset] using ok.1 i r there
  · obtain ⟨r, first, rfl⟩ := held i p h
    obtain ⟨r', second, rfl⟩ := held j q h'
    rw [station', station'] at same
    exact ok.2 i j r r' first second same

end Table

theorem setPeer_none_peersOk (i : Fin 32) {s : State} (ok : s.PeersOk) : (s.setPeer i none).PeersOk :=
  TableOk.free ok i

theorem setPeer_peersOk {i : Fin 32} {p q : Peer} {s : State} (ok : s.PeersOk) (held : s.agu.peers[i] = some p)
    (same : q.station = p.station) (offset : offsetFits q.offset) : (s.setPeer i (some q)).PeersOk :=
  TableOk.replace ok held same offset

/-- The offset of an entry is a signed 36-bit difference. -/
theorem State.PeersOk.offset {s : State} (ok : s.PeersOk) {i : Fin 32} {p : Peer} (held : s.agu.peers[i] = some p) :
    offsetFits p.offset := (ok.1 i p held).2.2.2.2

/-! ## Heard reports and BEAT samples (R48 to R50) -/

theorem createPeer_peersOk {id : StationId} {i : Fin 32} {s : State} (ok : s.PeersOk) (online : s.stc.station ≠ .offline)
    (least : 1 ≤ id.toNat) (most : id.toNat ≤ 126) (other : id ≠ s.stc.config.id)
    (new : ∀ (j : Fin 32) q, s.agu.peers[j] = some q → q.station ≠ id) : (s.createPeer i id).PeersOk :=
  (post_touches _ _).peersOk (by decide)
    (TableOk.write ok online ⟨least, most, other, nofun⟩ fun j q held same => absurd same (new j q held))

/-- A station whose id no entry has is found at no index. -/
theorem station_ne_of_peerIndex_none {s : State} {id : StationId} (none : s.peerIndex id = .none) :
    ∀ (j : Fin 32) q, s.agu.peers[j] = some q → q.station ≠ id := by
  intro j q held same
  have not := List.find?_eq_none.mp none j (List.mem_finRange j)
  rw [isPeerOf_of_some held] at not
  exact not (decide_eq_true same)

theorem heard_peersOk {id : StationId} {s : State} (ok : s.PeersOk) (online : s.stc.station ≠ .offline)
    (least : 1 ≤ id.toNat) (most : id.toNat ≤ 126) (other : id ≠ s.stc.config.id) : (s.heard id).PeersOk := by
  unfold State.heard
  split
  · split
    · rename_i held
      have offset := ok.offset held
      exact (postIf_touches _ _ _).peersOk (by decide) (setPeer_peersOk ok held rfl offset)
    · exact ok
  · have new := station_ne_of_peerIndex_none ‹_›
    split
    · exact createPeer_peersOk ok online least most other new
    · unfold State.heardFull
      split
      · rename_i i p _
        have told := post_touches (.peerState p.station .freed) s
        obtain ⟨station, -, config⟩ := told.stc (by decide)
        refine createPeer_peersOk (told.peersOk (by decide) ok) (station ▸ online) least most (config ▸ other) ?_
        rw [told.peers (by decide)]
        exact new
      · split
        · exact ok
        · obtain ⟨station, -, config⟩ := (post_touches (.peer .peersFull id) s).stc (by decide)
          exact peersOk_of_eq (s := s) station config rfl ok

theorem signedDifference_fits (a b : BusTime) : offsetFits (some (signedDifference a b)) := by
  intro o held
  cases held
  exact ⟨BitVec.le_toInt _, BitVec.toInt_lt⟩

theorem beatSample_peersOk {id : StationId} {stamp capture : BusTime} {interval : Nat} {sync : SyncState} {sequence : Byte}
    {s : State} (ok : s.PeersOk) : (s.beatSample id stamp capture interval sync sequence).PeersOk := by
  unfold State.beatSample
  split
  · rename_i i _
    cases held : s.agu.peers[i] with
    | none => exact setPeer_none_peersOk i ok
    | some p => exact setPeer_peersOk ok held rfl (signedDifference_fits stamp capture)
  · exact ok

/-! ## Rounds and acquisition (R55, R56, R64) -/

theorem agePeer_peersOk (i : Fin 32) {s : State} (ok : s.PeersOk) : (s.agePeer i).PeersOk := by
  unfold State.agePeer
  split
  · exact ok
  · rename_i p held
    dsimp only
    have offset := ok.offset held
    have aged : ∀ rounds presence, (s.setPeer i (some { p with rounds := rounds, presence := presence })).PeersOk :=
      fun _ _ => setPeer_peersOk ok held rfl offset
    split
    · exact (post_touches _ _).peersOk (by decide)
        (setPeer_none_peersOk i ((postIf_touches _ _ _).peersOk (by decide) (aged _ _)))
    · exact (postIf_touches _ _ _).peersOk (by decide) (aged _ _)

theorem agePeers_peersOk {s : State} (ok : s.PeersOk) : s.agePeers.PeersOk := by
  unfold State.agePeers
  induction allIndexes generalizing s with
  | nil => exact ok
  | cons i rest ih => exact ih (agePeer_peersOk i ok)

theorem cleared_peersOk {s : State} (ok : s.PeersOk) : (s.setAgu s.agu.cleared).PeersOk :=
  TableOk.map ok (fun _ => rfl) fun _ => rfl

/-- A correction, the sync state and a BEAT leave the peer table. -/
theorem correct_peersOk (began : SyncState) (correction : Int) {s : State} (ok : s.PeersOk) :
    (s.correct began correction).PeersOk := by
  unfold State.correct
  split
  · exact (setBtu_touches _ _).peersOk (by decide) ((stepTime_touches correction s).peersOk (by decide) ok)
  · exact peersOk_of_eq (s := s) rfl rfl rfl ok

theorem updateSync_peersOk (began : SyncState) (fresh : Nat) (correction : Int) {s : State} (ok : s.PeersOk) :
    (s.updateSync began fresh correction).PeersOk := by
  unfold State.updateSync
  dsimp only
  have updated : ∀ sync good, (s.setAgu { s.agu with sync := sync, good := good }).PeersOk := fun _ _ =>
    peersOk_of_eq (s := s) rfl rfl rfl ok
  split
  · exact updated _ _
  · exact (tellClu_touches _ _).peersOk (by decide) ((post_touches _ _).peersOk (by decide) (updated _ _))

theorem buildBeat_peersOk (boundary : Micros) (change : Int) (fresh : Nat) {s : State} (ok : s.PeersOk) :
    (s.buildBeat boundary change fresh).PeersOk := by
  unfold State.buildBeat
  dsimp only
  split
  · exact ok
  · exact (placeBeat_touches _ _).peersOk (by decide) (peersOk_of_eq (s := s) rfl rfl rfl ok)

theorem syncRound_peersOk {s : State} (ok : s.PeersOk) : s.syncRound.PeersOk := by
  have counted : ∀ (u : State) n, u.PeersOk → (u.setAgu { u.agu with fresh := n }).PeersOk := fun u _ =>
    peersOk_of_eq (s := u) rfl rfl rfl
  have bounded : ∀ (u : State) b, u.PeersOk →
      ((u.setAgu { u.agu with boundary := b }).setIku { u.iku with noticed := false }).PeersOk := fun u _ =>
    peersOk_of_eq (s := u) rfl rfl rfl
  unfold State.syncRound
  split
  · unfold State.roundAt
    dsimp only
    exact bounded _ _ (buildBeat_peersOk _ _ _ (cleared_peersOk
      (updateSync_peersOk _ _ _ (correct_peersOk _ _ (counted _ _ (agePeers_peersOk ok))))))
  · exact ok

theorem acquire_peersOk {s : State} (ok : s.PeersOk) : s.acquire.PeersOk := by
  have stepped := (stepTime_touches (midpoint (s.offsets Peer.acquisitionOffset)) s).peersOk (by decide) ok
  unfold State.acquire
  dsimp only
  generalize s.stepTime _ = u at stepped ⊢
  exact (setIku_touches _ _).peersOk (by decide) ((tellClu_touches _ _).peersOk (by decide)
    (peersOk_of_eq (s := u.setAgu u.agu.cleared) rfl rfl rfl (cleared_peersOk stepped)))

/-- The station comes out of LISTENING with the peers heard meanwhile (R146). -/
theorem endWindow_peersOk {s : State} (ok : s.PeersOk) : s.endWindow.PeersOk := by
  refine (post_touches _ _).peersOk (by decide) ?_
  obtain ⟨each, one⟩ := acquire_peersOk ok
  exact ⟨fun i p held => ⟨nofun, (each i p held).2⟩, one⟩

/-! ## Frames -/

theorem dispatch_peersOk (a : Accepted) (content : Content) {s : State} (ok : s.PeersOk) :
    (s.dispatch a content).PeersOk := by
  unfold State.dispatch
  split
  · split
    · exact ok
    · split
      · exact beatSample_peersOk ok
      · exact ok
  · exact (recallEntries_touches _ _).peersOk (by decide) ok
  · split
    · exact ok
    · exact (react_touches _ _).peersOk (by decide) ok
  · exact (takeCue_touches _ _ _).peersOk (by decide) ok

/-- What the gate keeps where a malformed frame and the dispatch of a well-formed one keep it. -/
theorem gate_keeps {P : State → Prop} {a : Accepted} {s : State} (malformed : P s → P (s.malformed a.frame.station))
    (dispatched : ∀ content, parseFrame a.frame = some content → P s → P (s.dispatch a content)) (ok : P s) :
    P (s.gate a) := by
  have valid : P (s.validate a) := by
    unfold State.validate
    split
    · exact malformed ok
    · exact dispatched _ ‹_› ok
  unfold State.gate
  split
  · exact valid
  · split
    · exact valid
    · exact ok
  · exact ok

/-- The station of a heard report is another valid one, and this station is not OFFLINE (R48). -/
theorem isHeard_valid (a : Accepted) (s : State) (hears : s.isHeard a = true) :
    s.stc.station ≠ .offline ∧ 1 ≤ a.frame.station.toNat ∧ a.frame.station.toNat ≤ 126
      ∧ a.frame.station ≠ s.stc.config.id := by
  unfold State.isHeard at hears
  cases station : s.stc.station <;> simp_all

theorem intake_peersOk (a : Accepted) {s : State} (ok : s.PeersOk) : (s.intake a).PeersOk := by
  have clashed : (if s.isClash a then s.idClash else s).PeersOk := by
    split
    · exact (idClash_touches s).peersOk (by decide) ok
    · exact ok
  refine gate_keeps (P := State.PeersOk) ((malformed_touches _ _).peersOk (by decide)) (fun _ _ => dispatch_peersOk a _) ?_
  generalize (if s.isClash a then s.idClash else s) = u at clashed
  split
  · rename_i hears
    obtain ⟨online, least, most, other⟩ := isHeard_valid a u hears
    exact heard_peersOk clashed online least most other
  · exact clashed

/-! ## Every step keeps the peer table -/

theorem expire_peersOk {s : State} {stored : State → Option Micros} {event : State → State}
    (owner : ∀ u : State, u.PeersOk → (event u).PeersOk) (ok : s.PeersOk) : (s.expire stored event).PeersOk :=
  expire_keeps (P := State.PeersOk) ((takeWord_touches s).peersOk (by decide))
    (fun t u => (runTo_touches t u).peersOk (by decide)) (fun _ u _ _ => owner u) ok

theorem unlessSpent_peersOk {s : State} {c : Instr} {event : State → State} (owner : s.PeersOk → (event s).PeersOk)
    (ok : s.PeersOk) : (s.unlessSpent c event).PeersOk :=
  unlessSpent_keeps (P := State.PeersOk) ((takeWord_touches s).peersOk (by decide)) (fun _ _ ok => ok) owner ok

theorem takeCommand_peersOk {s : State} {handle : State → State × Reply} (owner : s.PeersOk → (handle s).1.PeersOk)
    (ok : s.PeersOk) : (s.takeCommand handle).PeersOk :=
  takeCommand_keeps (P := State.PeersOk) (fun _ _ ok => ok) owner ok

/-- The settings are written while OFFLINE, when no peer is held (R66, R144). -/
theorem setStation_peersOk (a : StationArgs) {s : State} (ok : s.PeersOk) :
    (State.configure (configOf a) State.writeStation s).1.PeersOk := by
  unfold State.configure
  split
  · exact ok
  · rename_i offline
    rw [ne_eq, not_not] at offline
    split
    · exact ok
    · rw [peersOk_iff, offline] at ok
      exact tableOk_empty ok.offline_empty _ _

/-- A JOIN that passes finds no peer held (R66, R145). -/
theorem join_peersOk {s : State} (ok : s.PeersOk) : s.join.1.PeersOk := by
  unfold State.join
  split
  · exact ok
  · rename_i offline
    rw [ne_eq, not_not] at offline
    rw [peersOk_iff, offline] at ok
    have free := ok.offline_empty
    split_ifs
    all_goals exact tableOk_empty free _ _

theorem exec_peersOk (c : Instr) {s t : State} (ok : s.PeersOk) (ran : exec c s = .next t) : t.PeersOk := by
  by_cases quiet : Instr.isSteady c = true
  · exact (exec_steady c quiet ran).peersOk ok
  have free : ∀ i : Fin 32, AguState.restarted.peers[i] = none := fun i => Vector.getElem_replicate _
  cases c with
  | setStation a => exact next_keeps ran (takeCommand_peersOk (setStation_peersOk a) ok)
  | join => exact next_keeps ran (takeCommand_peersOk join_peersOk ok)
  | restart =>
    refine next_keeps ran (takeCommand_peersOk (fun _ => ?_) ok)
    exact (settlePosts_touches _).peersOk (by decide)
      ((post_touches .restarted s.restartBlocks).peersOk (by decide) (tableOk_empty free _ _))
  | pinReset => exact next_keeps ran (tableOk_empty free _ _)
  | postCueLocal a => exact next_keeps ran (takeCommand_peersOk ((postLocal_touches a s).peersOk (by decide)) ok)
  | postRecallLocal a => exact next_keeps ran (takeCommand_peersOk ((recallLocal_touches a s).peersOk (by decide)) ok)
  | markEdge input edge =>
    refine next_keeps ran ?_
    split
    · exact (takeEdge_touches input edge s).peersOk (by decide) ok
    · exact ok
  | acceptance f ack =>
    obtain steady | ⟨u, a, steady, rfl⟩ := acceptance_cases ran
    · exact steady.peersOk ok
    · exact intake_peersOk a (steady.peersOk ok)
  | recoveryTimeExpiry => exact next_keeps ran (expire_peersOk (fun u => (recoverBy_touches true u).peersOk (by decide)) ok)
  | syncRound => exact next_keeps ran (expire_peersOk (fun _ => syncRound_peersOk) ok)
  | listenWindowEnd => exact next_keeps ran (expire_peersOk (fun _ => endWindow_peersOk) ok)
  | scheduleExpiry => exact next_keeps ran (expire_peersOk (fun u => (expireFirst_touches u).peersOk (by decide)) ok)
  | staleTimeExpiry p => exact next_keeps ran (expire_peersOk (fun u => (expireStale_touches p u).peersOk (by decide)) ok)
  | pulseEnd line =>
    exact next_keeps ran (unlessSpent_peersOk (expire_peersOk fun u => (endPulse_touches line u).peersOk (by decide)) ok)
  | spacingEnd input =>
    exact next_keeps ran (unlessSpent_peersOk (expire_peersOk fun u => (setMarkInput_touches _ _ u).peersOk (by decide)) ok)
  | _ => exact absurd rfl quiet

theorem step_peersOk {s t : State} : s.PeersOk → step s = .next t → t.PeersOk :=
  step_keeps (P := State.PeersOk) (fun c _ _ => exec_peersOk c) (fun _ _ => id) (fun _ => id)
    (fun s => (takeWord_touches s).peersOk (by decide)) (fun s => (settleSpans_touches s).peersOk (by decide))
    (fun s => (tick_touches s).peersOk (by decide))

/-! ## Corrections are signed 36-bit differences (R57) -/

theorem trimmed_subset (values : List Int) : ∀ o ∈ trimmed values, o ∈ values := fun _ m =>
  (List.perm_insertionSort _ _).subset (List.mem_of_mem_drop (List.mem_of_mem_take m))

/-- The trimmed midpoint of signed 36-bit values is one. -/
theorem midpoint_fits {values : List Int} (each : ∀ o ∈ values, -2 ^ 35 ≤ o ∧ o < 2 ^ 35) :
    -2 ^ 35 ≤ midpoint values ∧ midpoint values < 2 ^ 35 := by
  unfold midpoint
  dsimp only
  split
  · rename_i least greatest first last
    obtain ⟨low, high⟩ := each least (trimmed_subset _ _ (List.mem_of_head? first))
    obtain ⟨low', high'⟩ := each greatest (trimmed_subset _ _ (List.mem_of_getLast? last))
    have halves := Int.mul_tdiv_add_tmod (least + greatest) 2
    have less := Int.lt_tmod_of_pos (least + greatest) (b := 2) (by decide)
    have more := Int.tmod_lt_of_pos (least + greatest) (b := 2) (by decide)
    omega
  · exact ⟨by decide, by decide⟩

/-- The offsets of a round or an acquisition are those of entries. -/
theorem offsets_fit {of : Peer → Option Int} (brings : ∀ p o, of p = some o → p.offset = some o) {s : State}
    (ok : s.PeersOk) : ∀ o ∈ s.offsets of, -2 ^ 35 ≤ o ∧ o < 2 ^ 35 := by
  intro o m
  obtain ⟨entry, there, brought⟩ := List.mem_filterMap.mp m
  obtain ⟨p, rfl, offset⟩ := Option.bind_eq_some_iff.mp brought
  obtain ⟨i, inside, held⟩ := List.getElem_of_mem there
  rw [Vector.getElem_toList] at held
  rw [Vector.length_toList] at inside
  exact ok.offset (i := ⟨i, inside⟩) held o (brings p o offset)

theorem roundOffset_offset (p : Peer) (o : Int) (h : p.roundOffset = some o) : p.offset = some o := by
  unfold Peer.roundOffset at h
  split at h
  · exact h
  · cases h

theorem acquisitionOffset_offset (p : Peer) (o : Int) (h : p.acquisitionOffset = some o) : p.offset = some o := by
  unfold Peer.acquisitionOffset at h
  split at h
  · exact h
  · cases h

/-! ## The schedule in rounds, acquisitions and frames -/

/-- A correction steps bus time or leaves it (R58). -/
theorem correct_inOrder {began : SyncState} {correction : Int} {s : State} (ok : s.InOrder) (none : s.csu.word = none)
    (fits : -2 ^ 35 ≤ correction ∧ correction < 2 ^ 35) : (s.correct began correction).InOrder := by
  unfold State.correct
  split
  · exact inOrder_of_eq rfl rfl (stepTime_inOrder ok none fits.1 fits.2)
  · exact inOrder_of_eq (s := s) rfl rfl ok

theorem roundAt_inOrder (boundary : Micros) {s : State} (ok : s.InOrder) (none : s.csu.word = none) (peers : s.PeersOk) :
    (s.roundAt boundary).InOrder := by
  have fits := midpoint_fits (values := 0 :: s.agePeers.offsets Peer.roundOffset)
    (List.forall_mem_cons.mpr ⟨⟨by decide, by decide⟩, offsets_fit roundOffset_offset (agePeers_peersOk peers)⟩)
  have frame := agePeers_touches s
  have aged := frame.inOrder (by decide) ok
  have word : s.agePeers.csu.word = .none := by rw [frame.csu (by decide), none]
  unfold State.roundAt
  dsimp only
  generalize s.agePeers = u at fits aged word ⊢
  exact (setIku_touches _ _).inOrder (by decide) ((setAgu_touches _ _).inOrder (by decide)
    ((buildBeat_touches _ _ _ _).inOrder (by decide) ((setAgu_touches _ _).inOrder (by decide)
      ((updateSync_touches _ _ _ _).inOrder (by decide)
        (correct_inOrder ((setAgu_touches _ _).inOrder (by decide) aged) word fits)))))

theorem syncRound_inOrder {s : State} (ok : s.InOrder) (none : s.csu.word = none) (peers : s.PeersOk) :
    s.syncRound.InOrder := by
  unfold State.syncRound
  split
  · exact roundAt_inOrder _ ok none peers
  · exact ok

theorem endWindow_inOrder {s : State} (ok : s.InOrder) (none : s.csu.word = none) (peers : s.PeersOk) :
    s.endWindow.InOrder := by
  obtain ⟨least, most⟩ := midpoint_fits (offsets_fit acquisitionOffset_offset peers)
  have stepped := stepTime_inOrder ok none least most
  have acquired : s.acquire.InOrder := by
    unfold State.acquire
    dsimp only
    exact (setIku_touches _ _).inOrder (by decide) ((tellClu_touches _ _).inOrder (by decide)
      ((setAgu_touches _ _).inOrder (by decide) stepped))
  exact (post_touches _ _).inOrder (by decide) ((setStc_touches _ _).inOrder (by decide) acquired)

/-- A well-formed CUE's repeat has a period in its range (R18, R90). -/
theorem cueContent_period {f : Frame} {c : CueContent} (parsed : parseFrame f = some (.cueContent c)) :
    ∀ r, c.rpt = some r → 1 ≤ r.period ∧ r.period < 2 ^ 24 := by
  intro r held
  obtain ⟨-, -, -, ⟨-, -, repeats⟩, -⟩ := parseFrame_some parsed
  rw [held] at repeats
  obtain ⟨least, most, -⟩ := repeats
  exact ⟨least, most⟩

theorem dispatch_inOrder {a : Accepted} {content : Content} {s : State} (parsed : parseFrame a.frame = some content)
    (ok : s.InOrder) : (s.dispatch a content).InOrder := by
  unfold State.dispatch
  split
  · split
    · exact ok
    · split
      · exact (beatSample_touches _ _ _ _ _ _ _).inOrder (by decide) ok
      · exact ok
  · exact recallEntries_inOrder _ ok
  · split
    · exact ok
    · exact react_inOrder _ ok
  · exact takeCue_inOrder _ ok (cueContent_period parsed)

theorem intake_inOrder (a : Accepted) {s : State} (ok : s.InOrder) : (s.intake a).InOrder := by
  have clashed : (if s.isClash a then s.idClash else s).InOrder := by
    split
    · exact (idClash_touches s).inOrder (by decide) ok
    · exact ok
  refine gate_keeps (P := State.InOrder) ((malformed_touches _ _).inOrder (by decide))
    (fun _ parsed => dispatch_inOrder parsed) ?_
  generalize (if s.isClash a then s.idClash else s) = u at clashed
  split
  · exact (heard_touches _ _).inOrder (by decide) clashed
  · exact clashed

theorem markEdge_inOrder (input : Fin 4) (edge : Edge) {s : State} (ok : s.InOrder) : (s.takeEdge input edge).InOrder := by
  unfold State.takeEdge State.takeSeenEdge
  dsimp only
  have seen := (edgeSeen_steady s).inOrder ok
  generalize s.edgeSeen.2 = u at seen ⊢
  have noticed : ∀ c x d b, (((u.spend c (.spacingEnd input)).setMarkInput input x).postIf d b).InOrder := fun _ _ _ _ =>
    (postIf_touches _ _ _).inOrder (by decide) ((setMarkInput_touches _ _ _).inOrder (by decide)
      ((spend_touches _ _ _).inOrder (by decide) seen))
  split
  · exact (announce_touches _ _).inOrder (by decide) (react_inOrder _ (noticed _ _ _ _))
  · exact react_inOrder _ (noticed _ _ _ _)

/-! ## Every step keeps the schedule in order -/

/-- An expiry finds the word of a step taken, and bus time at the stored time. -/
theorem expire_inOrder {s : State} {stored : State → Option Micros} {event : State → State} (rates : s.RatesOk)
    (peers : s.PeersOk) (ok : s.InOrder)
    (owner : ∀ t u, stored s.takeWord = some t → u = s.takeWord.runTo t → u.csu.word = none → u.PeersOk → u.InOrder →
      (event u).InOrder) : (s.expire stored event).InOrder := by
  obtain same | ⟨t, held, -, first, taken⟩ := expire_cases s stored event
  · rwa [same]
  · have ready := takeWord_touches s
    have frame := runTo_touches t s.takeWord
    rw [taken]
    refine owner t _ held rfl ?_ (frame.peersOk (by decide) (ready.peersOk (by decide) peers)) ?_
    · rw [frame.csu (by decide)]
      exact takeWord_word s
    · exact runTo_inOrder (ready.ratesOk (by decide) rates).ratesFit (takeWord_inOrder ok) (takeWord_word s) first

/-- An expiry whose owner leaves the schedule and bus time. -/
theorem expire_inOrder_of_touches {bs : List Part} {s : State} {stored : State → Option Micros} {event : State → State}
    (frame : ∀ u, Touches bs u (event u)) (apart : .btu ∉ bs ∧ .csu ∉ bs) (rates : s.RatesOk) (peers : s.PeersOk)
    (ok : s.InOrder) : (s.expire stored event).InOrder :=
  expire_inOrder rates peers ok fun _ u _ _ _ _ ok => (frame u).inOrder apart ok

theorem scheduleExpiry_inOrder {s : State} (rates : s.RatesOk) (peers : s.PeersOk) (ok : s.InOrder) :
    (s.expire State.armedDue State.expireFirst).InOrder := by
  refine expire_inOrder rates peers ok fun t u held there _ _ ok => expireFirst_inOrder ok ?_
  rw [there, runTo_micros ((takeWord_touches s).ratesOk (by decide) rates).ratesFit, State.armedDue,
    (runTo_touches t _).csu (by decide)]
  exact held

theorem unlessSpent_inOrder {s : State} {c : Instr} {event : State → State} (owner : s.InOrder → (event s).InOrder)
    (ok : s.InOrder) : (s.unlessSpent c event).InOrder :=
  unlessSpent_keeps (P := State.InOrder) takeWord_inOrder (fun _ _ ok => ok) owner ok

theorem takeCommand_inOrder {s : State} {handle : State → State × Reply} (owner : s.InOrder → (handle s).1.InOrder)
    (ok : s.InOrder) : (s.takeCommand handle).InOrder :=
  takeCommand_keeps (P := State.InOrder) (fun _ _ ok => ok) owner ok

theorem exec_inOrder (c : Instr) {s t : State} (rates : s.RatesOk) (peers : s.PeersOk) (ok : s.InOrder)
    (ran : exec c s = .next t) : t.InOrder := by
  by_cases quiet : Instr.isSteady c = true
  · exact (exec_steady c quiet ran).inOrder ok
  cases c with
  | setStation a =>
    have frame := configure_touches (values := configOf a) (write := State.writeStation) fun _ => setStc_touches s _
    exact next_keeps ran (takeCommand_inOrder (frame.inOrder (by decide)) ok)
  | join => exact next_keeps ran (takeCommand_inOrder ((join_touches s).inOrder (by decide)) ok)
  | restart =>
    refine next_keeps ran (takeCommand_inOrder (fun _ => ?_) ok)
    exact (settlePosts_touches _).inOrder (by decide)
      ((post_touches .restarted s.restartBlocks).inOrder (by decide) (ordered_nil _ _))
  | pinReset => exact next_keeps ran (ordered_nil _ _)
  | postCueLocal a => exact next_keeps ran (takeCommand_inOrder (postLocal_inOrder a) ok)
  | postRecallLocal a => exact next_keeps ran (takeCommand_inOrder (recallLocal_inOrder a) ok)
  | markEdge input edge =>
    refine next_keeps ran ?_
    split
    · exact markEdge_inOrder input edge ok
    · exact ok
  | acceptance f ack =>
    obtain steady | ⟨u, a, steady, rfl⟩ := acceptance_cases ran
    · exact steady.inOrder ok
    · exact intake_inOrder a (steady.inOrder ok)
  | recoveryTimeExpiry => exact next_keeps ran (expire_inOrder_of_touches (recoverBy_touches true) (by decide) rates peers ok)
  | syncRound =>
    exact next_keeps ran (expire_inOrder rates peers ok fun _ _ _ _ none peers ok => syncRound_inOrder ok none peers)
  | listenWindowEnd =>
    exact next_keeps ran (expire_inOrder rates peers ok fun _ _ _ _ none peers ok => endWindow_inOrder ok none peers)
  | scheduleExpiry => exact next_keeps ran (scheduleExpiry_inOrder rates peers ok)
  | staleTimeExpiry p => exact next_keeps ran (expire_inOrder_of_touches (expireStale_touches p) (by decide) rates peers ok)
  | pulseEnd line =>
    exact next_keeps ran (unlessSpent_inOrder (expire_inOrder_of_touches (endPulse_touches line) (by decide) rates peers) ok)
  | spacingEnd input =>
    exact next_keeps ran
      (unlessSpent_inOrder (expire_inOrder_of_touches (fun u => setMarkInput_touches _ _ u) (by decide) rates peers) ok)
  | _ => exact absurd rfl quiet

/-- With no expiry taken nothing is due. -/
theorem dueNow_of_nextDue_none {s : State} (nothing : s.nextDue = none) : s.dueNow = [] := by
  by_contra some
  obtain ⟨due, next⟩ := nextDue_some some
  rw [nothing] at next
  cases next

theorem step_inOrder {s t : State} (rates : s.RatesOk) (peers : s.PeersOk) (ok : s.InOrder) (ran : step s = .next t) :
    t.InOrder := by
  unfold step at ran
  split at ran
  · rename_i rest _
    exact exec_inOrder _ (s := s.setPending rest) rates peers ok ran
  · unfold State.idleStep at ran
    split at ran
    · cases ran
      exact takeWord_inOrder ok
    · rename_i word
      split at ran
      · cases ran
        exact (settleSpans_touches s).inOrder (by decide) ok
      · split at ran
        · rename_i due next
          obtain same | drawn := (nextDue_cases next).2
          · exact exec_inOrder _ rates peers ok (same ▸ ran)
          · rw [drawn] at ran
            exact exec_inOrder _ (s := s.drawn) rates peers ok ran
        · cases ran
          exact tick_inOrder ok (by simpa using word) (dueNow_of_nextDue_none ‹_›)

/-- Settles O32: a state whose schedule stands in order, with one key to an entry, keeps it so in every step, and the peer table its own. -/
theorem stepKeepsScheduleOrder : Obligations.StepKeepsScheduleOrder := by
  intro s t rates schedule peers ordered ran
  have after := step_inOrder rates peers ((inOrder_iff s).mpr ⟨schedule.2, ordered⟩) ran
  exact ⟨((inOrder_iff t).mp after).2, step_peersOk peers ran⟩

end Sys2Proof.Machine
end

section
/-! SUPPORT. Edges taken by the MKU (O24, O25): the reading they have of bus time, what is counted, the reactions they match, and the record that announces them. -/

namespace Sys2Proof.Machine

/-! ## Which edges are taken (R131, R132) -/

theorem select_takes_iff (select : EdgeSelect) (edge : Edge) :
    select.takes edge = true ↔ Claims.selectTakes select edge := by
  cases select <;> cases edge <;> simp [EdgeSelect.takes, Claims.selectTakes]

theorem isSpacing_iff (now : Micros) (i : MarkInput) :
    i.isSpacing now = true ↔ ∃ stop, i.spacingEnd = some stop ∧ Claims.ahead stop now := by
  unfold MarkInput.isSpacing
  cases spacing : i.spacingEnd with
  | none => simp
  | some stop => simp [← isAhead_iff, reached]

theorem takesEdge_iff (input : Fin 4) (edge : Edge) (s : State) :
    s.takesEdge input edge = true ↔ s.stc.station = .joined ∧ Claims.selectTakes s.mku.inputs[input].select edge
      ∧ ∀ stop, s.mku.inputs[input].spacingEnd = some stop → ¬Claims.ahead stop s.micros := by
  unfold State.takesEdge
  rw [Bool.and_eq_true, Bool.and_eq_true, decide_eq_true_iff, select_takes_iff, Bool.not_eq_true',
    ← Bool.not_eq_true, isSpacing_iff, and_assoc]
  simp

theorem exec_markEdge_taken {input : Fin 4} {edge : Edge} {s : State} (takes : s.takesEdge input edge = true) :
    exec (.markEdge input edge) s = .next (s.takeEdge input edge) := congrArg Host.Outcome.next (if_pos takes)

theorem exec_markEdge_ignored {input : Fin 4} {edge : Edge} {s : State} (takes : ¬s.takesEdge input edge = true) :
    exec (.markEdge input edge) s = .next s := congrArg Host.Outcome.next (if_neg takes)

theorem markEdgeIgnored : Claims.MarkEdgeIgnored := by
  intro input edge s ignored
  refine exec_markEdge_ignored fun takes => ?_
  obtain ⟨joined, selects, reached⟩ := (takesEdge_iff input edge s).mp takes
  obtain other | unselected | ⟨stop, held, ahead⟩ := ignored
  · exact other joined
  · exact unselected selects
  · exact reached stop held ahead

/-! ## The reading of bus time (R42, R43) -/

theorem edgeSeen_claimed (s : State) : Claims.edgeSeen s s.edgeSeen.1 s.edgeSeen.2 := by
  cases stepped : s.btu.latchFrom with
  | none =>
    rw [edgeSeen_of_free stepped]
    exact .inl ⟨stepped, rfl, rfl⟩
  | some old =>
    obtain ⟨reading, start⟩ := edgeSeen_of_step stepped
    exact .inr ⟨old, stepped, reading.symm, start⟩

/-- The sight of an edge leaves all but a free value, and which reading the edges of this cycle have. -/
theorem edgeSeen_leaves (s : State) :
    s.edgeSeen.2.btu = { s.btu with latch := s.edgeSeen.2.btu.latch, latchFrom := none }
      ∧ (s.btu.latchFrom = none → s.edgeSeen.2.btu = s.btu) := by
  cases stepped : s.btu.latchFrom with
  | none =>
    rw [edgeSeen_of_free stepped, ← stepped]
    exact ⟨rfl, fun _ => rfl⟩
  | some old =>
    rw [(edgeSeen_of_step stepped).2]
    exact ⟨rfl, nofun⟩

theorem edgeSeen_micros (s : State) : s.edgeSeen.2.micros = s.micros := congrArg microsOf (edgeSeen_steady s).clock.1

/-- What reads the reading of an edge is the BTU's, and a free value where the cycle before had a step. -/
theorem edgeSeen_reading {s t : State} (free : s.btu.latchFrom = none) (btu : t.btu = s.btu) :
    t.edgeSeen = (s.btu.latch, t) := by
  rw [edgeSeen_of_free (btu ▸ free), btu]

theorem edgeSeen_free (s : State) : s.edgeSeen.2.btu.latchFrom = none ∧ s.edgeSeen.2.btu.latch = s.edgeSeen.1 := by
  cases stepped : s.btu.latchFrom with
  | none => simp [edgeSeen_of_free stepped, stepped]
  | some old =>
    rw [(edgeSeen_of_step stepped).2]
    exact ⟨rfl, rfl⟩

/-- Every edge taken after one of its cycle has its reading. -/
theorem capturesOfOneCycleEqual : Claims.CapturesOfOneCycleEqual := by
  refine fun s => ⟨edgeSeen_again s, fun first second e g t takes ran => ?_⟩
  obtain rfl := Host.Outcome.next.inj ((exec_markEdge_taken takes).symm.trans ran)
  obtain ⟨free, latch⟩ := edgeSeen_free s
  have btu := (takeSeenEdge_touches first e (markCapture s.edgeSeen.1) s.edgeSeen.2).btu (by decide)
  have again := edgeSeen_reading (t := s.takeEdge first e) free btu
  rw [latch] at again
  exact ⟨by rw [again], by rw [State.takeEdge, again]; rfl⟩

/-! ## What is counted (R133, R134) -/

theorem edgeCounted_touches (input : Fin 4) (edge : Edge) (s : State) :
    Touches [.mku, .spent, .notices, .posted] s (Claims.edgeCounted input edge s) := by
  have ended : Touches [.mku, .spent, .notices, .posted] s
      (if s.mku.inputs[input].spacingEnd.isSome then s.setSpent (.spacingEnd input :: s.spent) else s) := by
    split
    · exact (setSpent_touches _ _).mono (by decide)
    · exact .refl _ _
  have counted := fun b => ended.trans ((setMku_touches _ b).mono (by decide))
  unfold Claims.edgeCounted
  dsimp only
  split
  · exact (counted _).trans ((post_touches _ _).mono (by decide))
  · exact counted _

/-- The input counted: the MKU's own part of it. -/
theorem edgeCounted_mku (input : Fin 4) (edge : Edge) (s : State) :
    (Claims.edgeCounted input edge s).mku =
      { s.mku with inputs := s.mku.inputs.set input (s.mku.inputs[input].counted s.micros) } := by
  unfold Claims.edgeCounted
  dsimp only
  split
  · exact post_mku _ _
  · rfl

/-- The MKU's counting of an edge that finds no spacing end ahead, in the statements' words. -/
theorem takeSeenEdge_eq {input : Fin 4} {edge : Edge} {capture : BusTime} {s : State}
    (reached : ∀ stop, s.mku.inputs[input].spacingEnd = some stop → ¬Claims.ahead stop s.micros) :
    s.takeSeenEdge input edge capture =
      let reacted := (Claims.edgeCounted input edge s).react
        { source := s.stc.config.id, input := input, edge := edge, capture := capture }
      if s.mku.inputs[input].announce then
        reacted.announce
          { input := input, edge := edge, sequence := s.mku.inputs[input].sequence + 1, capture := capture }
      else reacted := by
  have ends : s.mku.inputs[input].endsNow s.micros = s.mku.inputs[input].spacingEnd.isSome := by
    unfold MarkInput.endsNow
    cases spacing : s.mku.inputs[input].spacingEnd with
    | none => rfl
    | some stop => exact (reached_iff stop s.micros).mpr (reached stop spacing)
  have spent : (s.spend (s.mku.inputs[input].endsNow s.micros) (.spacingEnd input)).mku = s.mku :=
    (spend_touches _ _ _).mku (by decide)
  unfold State.takeSeenEdge Claims.edgeCounted State.setMarkInput
  dsimp only
  rw [spent, ends]
  rfl

/-! ## Reactions (R138) -/

theorem edgeMatch_takes_iff (m : EdgeMatch) (edge : Edge) :
    m.takes edge = true ↔ m = .either ∨ m = .rising ∧ edge = .rising ∨ m = .falling ∧ edge = .falling := by
  cases m <;> cases edge <;> simp [EdgeMatch.takes]

theorem matchesMark_iff (x : Reaction) (m : SeenMark) :
    x.matchesMark m = true ↔ Claims.reactionMatches x m.source m.input m.edge := by
  unfold Reaction.matchesMark Claims.reactionMatches
  rw [Bool.and_eq_true, Bool.and_eq_true, Bool.and_eq_true, decide_eq_true_iff, decide_eq_true_iff, edgeMatch_takes_iff,
    and_assoc, and_assoc]

/-- A mark that no entry matches makes no cue. -/
theorem react_of_no_match {m : SeenMark} {s : State}
    (none : ∀ r : Fin 8, ¬Claims.reactionMatches s.mku.reactions[r] m.source m.input m.edge) : s.react m = s := by
  have still : ∀ r, s.tryReaction m r = s := fun r => if_neg fun matched => none r ((matchesMark_iff _ _).mp matched)
  unfold State.react
  induction List.finRange 8 with
  | nil => rfl
  | cons r rest ih => rw [List.foldl_cons, still r, ih]

/-! ## The MARK record (R71, R136) -/

theorem isFree_iff (q : SqState) (slot : Fin 16) : q.isFree slot = true ↔ ∀ r ∈ q.records, r.tag.slot ≠ slot := by
  simp [SqState.isFree]

theorem freeSlot_none {q : SqState} (full : ∀ j : Fin 16, ∃ r ∈ q.records, r.tag.slot = j) : q.freeSlot = none := by
  refine List.find?_eq_none.mpr fun j _ free => ?_
  obtain ⟨r, held, there⟩ := full j
  exact (isFree_iff q j).mp free r held there

theorem freeSlot_some {q : SqState} {slot : Fin 16} (free : ∀ r ∈ q.records, r.tag.slot ≠ slot)
    (first : ∀ j : Fin 16, j < slot → ∃ r ∈ q.records, r.tag.slot = j) : q.freeSlot = some slot :=
  find_finRange_some ((isFree_iff q slot).mpr free) fun j before => by
    obtain ⟨r, held, there⟩ := first j before
    exact Bool.eq_false_iff.mpr fun none => (isFree_iff q j).mp none r held there

/-- A record put in a free slot is the one its tag names. -/
theorem named_insertRecord {r : Record} {records : List Record} (free : ∀ x ∈ records, x.tag.slot ≠ r.tag.slot) :
    (insertRecord r records).find? (fun x => decide (x.tag = r.tag)) = some r := by
  have there : r ∈ insertRecord r records := mem_insertRecord.mpr (.inl rfl)
  cases found : (insertRecord r records).find? (fun x => decide (x.tag = r.tag)) with
  | none => exact absurd (decide_eq_true rfl) (List.find?_eq_none.mp found r there)
  | some x =>
    have tag : x.tag = r.tag := by simpa using List.find?_some found
    obtain rfl | other := mem_insertRecord.mp (List.mem_of_find?_eq_some found)
    · rfl
    · exact absurd (congrArg Tag.slot tag) (free x other)

theorem announce_lost {m : MarkContent} {s : State} (full : ∀ j : Fin 16, ∃ r ∈ s.sq.records, r.tag.slot = j) :
    s.announce m = s.post (.mark .markLost m.input m.edge m.sequence) := by
  rw [State.announce, freeSlot_none full]

/-- The record that announces a mark. -/
def State.markRecord (m : MarkContent) (slot : Fin 16) (s : State) : Record :=
  { tag := { slot := slot, generation := s.sq.generations[slot] }
    body := .markBody m
    stale := some (microsOf m.capture + BitVec.ofNat 32 (s.stc.config.markMs * 1000))
    state := .waiting, withdrawPending := false, errors := 0, order := s.sq.nextOrder }

/-- The send queue with a record put in its slot. -/
def State.withRecord (r : Record) (s : State) : State :=
  s.setSq { s.sq with records := insertRecord r s.sq.records, nextOrder := s.sq.nextOrder + 1 }

/-- A mark announced in the lowest free slot; its record leaves at once where its stale time is reached. -/
theorem announce_eq {m : MarkContent} {slot : Fin 16} {s : State} (free : ∀ r ∈ s.sq.records, r.tag.slot ≠ slot)
    (first : ∀ j : Fin 16, j < slot → ∃ r ∈ s.sq.records, r.tag.slot = j) :
    s.announce m =
      if reached (microsOf m.capture + BitVec.ofNat 32 (s.stc.config.markMs * 1000)) s.micros then
        Claims.recordLeft (s.markRecord m slot) .stale false false (s.withRecord (s.markRecord m slot))
      else s.withRecord (s.markRecord m slot) := by
  have named : (s.withRecord (s.markRecord m slot)).sq.named (s.markRecord m slot).tag = some (s.markRecord m slot) :=
    named_insertRecord free
  unfold State.announce
  dsimp only
  rw [freeSlot_some free first]
  change (if _ then match (s.withRecord (s.markRecord m slot)).sq.named (s.markRecord m slot).tag with
    | some r => (s.withRecord (s.markRecord m slot)).leave r .stale false false
    | none => s.withRecord (s.markRecord m slot) else s.withRecord (s.markRecord m slot)) = _
  rw [named]
  rfl

/-! ## The edge taken -/

/-- The state in which a taken edge is announced: counted, and its reactions made. -/
def State.edgeReacted (input : Fin 4) (edge : Edge) (s : State) : State :=
  (Claims.edgeCounted input edge s.edgeSeen.2).react
    { source := s.stc.config.id, input := input, edge := edge, capture := s.edgeSeen.1 - 3 }

/-- The mark of a taken edge (R136). -/
def State.edgeMark (input : Fin 4) (edge : Edge) (s : State) : MarkContent :=
  { input := input, edge := edge, sequence := s.mku.inputs[input].sequence + 1, capture := s.edgeSeen.1 - 3 }

theorem edgeReacted_leaves (input : Fin 4) (edge : Edge) (s : State) :
    (s.edgeReacted input edge).sq = s.sq ∧ (s.edgeReacted input edge).stc = s.stc
      ∧ (s.edgeReacted input edge).micros = s.micros := by
  have seen := edgeSeen_touches s
  have frame : Touches [.csu, .clu, .mku, .notices, .posted, .spent, .draws] s.edgeSeen.2 (s.edgeReacted input edge) :=
    ((edgeCounted_touches input edge _).mono (by decide)).trans ((react_touches _ _).mono (by decide))
  exact ⟨(frame.sq (by decide)).trans (seen.sq (by decide)), (frame.stc_eq (by decide)).trans (seen.stc_eq (by decide)),
    (frame.micros (by decide)).trans (edgeSeen_micros s)⟩

section Taken

variable {input : Fin 4} {edge : Edge} {s : State} (joined : s.stc.station = .joined)
  (selects : Claims.selectTakes s.mku.inputs[input].select edge)
  (reached : ∀ stop, s.mku.inputs[input].spacingEnd = some stop → ¬Claims.ahead stop s.micros)
include joined selects reached

theorem exec_markEdge_eq :
    exec (.markEdge input edge) s = .next
      (if s.mku.inputs[input].announce then (s.edgeReacted input edge).announce (s.edgeMark input edge)
      else s.edgeReacted input edge) := by
  have seen := edgeSeen_touches s
  have mku : s.edgeSeen.2.mku = s.mku := seen.mku (by decide)
  have taken := takeSeenEdge_eq (input := input) (edge := edge) (capture := s.edgeSeen.1 - 3) (s := s.edgeSeen.2)
    (by rwa [mku, edgeSeen_micros])
  rw [mku, seen.stc_eq (by decide)] at taken
  rw [exec_markEdge_taken ((takesEdge_iff input edge s).mpr ⟨joined, selects, reached⟩)]
  exact congrArg Host.Outcome.next taken

/-- A taken edge announced in the lowest free slot. -/
theorem exec_markEdge_announced {slot : Fin 16} (announces : s.mku.inputs[input].announce = true)
    (free : ∀ r ∈ s.sq.records, r.tag.slot ≠ slot)
    (first : ∀ j : Fin 16, j < slot → ∃ r ∈ s.sq.records, r.tag.slot = j) :
    let r := s.markRecord (s.edgeMark input edge) slot
    let created := (s.edgeReacted input edge).setSq
      { s.sq with records := insertRecord r s.sq.records, nextOrder := s.sq.nextOrder + 1 }
    exec (.markEdge input edge) s = .next
      (if Sys2Proof.Machine.reached (microsOf (s.edgeSeen.1 - 3) + BitVec.ofNat 32 (s.stc.config.markMs * 1000)) s.micros then
        Claims.recordLeft r .stale false false created
      else created) := by
  obtain ⟨sq, stc, now⟩ := edgeReacted_leaves input edge s
  have announced := announce_eq (m := s.edgeMark input edge) (s := s.edgeReacted input edge)
    (by rwa [sq]) (by rwa [sq] : ∀ j : Fin 16, j < slot → _)
  rw [State.withRecord, State.markRecord, sq, stc, now] at announced
  rw [exec_markEdge_eq joined selects reached, if_pos announces, announced]
  rfl

end Taken

/-- Settles O24: the edge as the BTU saw it, its count, reactions and record. -/
theorem markEdgeTakenCountsAndAnnounces : Obligations.MarkEdgeTakenCountsAndAnnounces := by
  intro input edge s joined selects spacing
  have ran := exec_markEdge_eq joined selects spacing
  refine ⟨s.edgeSeen.1, s.edgeSeen.2, edgeSeen_claimed s, fun none => ?_, fun quiet => ?_, fun announces full => ?_, ?_⟩
  · refine react_of_no_match fun r => ?_
    rw [edgeCounted_mku, (edgeSeen_touches s).mku (by decide)]
    exact none r
  · rw [ran, quiet]
    rfl
  · rw [ran, if_pos announces, announce_lost (by rwa [(edgeReacted_leaves input edge s).1])]
    rfl
  · intro slot announces free first
    have announced := exec_markEdge_announced joined selects spacing announces free first
    refine ⟨fun ahead => ?_, fun past => ?_⟩
    · exact announced.trans (congrArg Host.Outcome.next (if_neg fun there => (reached_iff _ _).mp there ahead))
    · exact announced.trans (congrArg Host.Outcome.next (if_pos ((reached_iff _ _).mpr past)))

theorem markEdgeTakenFrame : Claims.MarkEdgeTakenFrame := by
  intro input edge s joined selects spacing
  have seen := edgeSeen_touches s
  have mku : s.edgeSeen.2.mku = s.mku := seen.mku (by decide)
  have micros := edgeSeen_micros s
  have taken := takeSeenEdge_touches input edge (markCapture s.edgeSeen.1) s.edgeSeen.2
  have frame := takeEdge_touches input edge s
  have btu : (s.takeEdge input edge).btu = s.edgeSeen.2.btu := taken.btu (by decide)
  obtain ⟨reading, free⟩ := edgeSeen_leaves s
  refine ⟨_, exec_markEdge_taken ((takesEdge_iff input edge s).mpr ⟨joined, selects, spacing⟩), ?_,
    frame.stc_eq (by decide), frame.liu_eq (by decide), frame.fcu (by decide), frame.agu_eq (by decide),
    frame.iku (by decide), by rwa [btu], fun none => btu.trans (free none), frame.pending (by decide)⟩
  rw [edgeCounted_mku, State.takeEdge, takeSeenEdge_eq (by rwa [mku, micros])]
  have counted := edgeCounted_mku input edge s.edgeSeen.2
  rw [mku, micros] at counted
  dsimp only
  split
  · rw [(announce_touches _ _).mku (by decide), (react_touches _ _).mku (by decide), counted]
  · rw [(react_touches _ _).mku (by decide), counted]

/-- Settles O25: an edge that is not taken, what a taken one leaves, and the one reading of a cycle. -/
theorem markEdgeIgnoredOrTaken : Obligations.MarkEdgeIgnoredOrTaken :=
  ⟨markEdgeIgnored, markEdgeTakenFrame, capturesOfOneCycleEqual⟩

end Sys2Proof.Machine
end

section
/-! SUPPORT. The ends of pulses and spacings (O42), which a line's polarity outlives, and bus time as READ_TIME shows it (O22). -/

namespace Sys2Proof.Machine

/-! ## The polarity of the lines (R120) -/

/-- Which lines assert low. -/
def State.polarity (s : State) : Fin 8 → Bool := fun i => s.clu.lines[i].lowTrue

theorem Touches.polarity {bs : List Part} {s t : State} (h : Touches bs s t) (apart : .clu ∉ bs) :
    t.polarity = s.polarity := by
  unfold State.polarity
  rw [h.clu apart]

theorem apply_lowTrue (now : Micros) (a : Action) (w : Option (BitVec 16)) (l : Line) :
    (l.apply now a w).1.lowTrue = l.lowTrue := by
  unfold Line.apply
  cases a with
  | toggle | pulse => cases l.pulse <;> rfl
  | set | clear | note => rfl

/-- An action moves a line's level and pulse, and not its polarity (R122). -/
theorem act_lowTrue (told : SyncState) (now : Micros) (a : Action) (w : Option (BitVec 16)) (l : Line) :
    (l.act told now a w).1.lowTrue = l.lowTrue := by
  have settled : (l.settled now).lowTrue = l.lowTrue := by
    unfold Line.settled
    split <;> rfl
  unfold Line.act
  split
  · rfl
  · exact (apply_lowTrue _ _ _ _).trans settled

theorem actOnLine_polarity (line : Fin 8) (a : Action) (w : Option (BitVec 16)) (s : State) :
    (s.actOnLine line a w).1.polarity = s.polarity := by
  refine ((spend_touches _ _ _).polarity (by decide)).trans (funext fun i => ?_)
  change (s.clu.lines.set line _)[i].lowTrue = _
  rw [getElem_set_fin]
  split
  · rename_i same
    rw [act_lowTrue, same]
    rfl
  · rfl

theorem handOver_polarity (e : Entry) (s : State) : (s.handOver e).1.polarity = s.polarity := by
  unfold State.handOver
  split
  · rfl
  · rfl
  · exact actOnLine_polarity _ _ _ s

theorem takeReached_polarity (s : State) (e : Entry) : (s.takeReached e).polarity = s.polarity := by
  have fired : (s.fire true e).1.polarity = s.polarity := by
    unfold State.fire
    dsimp only
    split
    · exact ((post_touches _ _).polarity (by decide)).trans (handOver_polarity e s)
    · exact handOver_polarity e s
  have done : (s.lateOccurrence e (distance s.micros e.due)).1.polarity = s.polarity := by
    unfold State.lateOccurrence
    split
    · exact ((postMissed_touches _ _ _).polarity (by decide)).trans fired
    · exact (postMissed_touches _ _ _).polarity (by decide)
  unfold State.takeReached
  dsimp only
  split
  · exact ((insert_touches _ _).polarity (by decide)).trans done
  · exact done

theorem takeWord_polarity (s : State) : s.takeWord.polarity = s.polarity := by
  have reached : ∀ (l : List Entry) (u : State), (l.foldl State.takeReached u).polarity = u.polarity := by
    intro l
    induction l with
    | nil => exact fun _ => rfl
    | cons e rest ih => exact fun u => (ih _).trans (takeReached_polarity u e)
  unfold State.takeWord
  split
  · rfl
  · exact reached _ _
  · exact (Touches.foldl (fun u (e : Entry) => post_touches (e.notice .outOfRange 0) u) _ _).polarity (by decide)

/-! ## Ends at their stored times (R34, R124, R134) -/

/-- The expiry that comes next once a word of a step that waits is taken. -/
theorem expire_of_expiresNext {s : State} {t : Micros} {stored : State → Option Micros} {event : State → State}
    (held : stored s.takeWord = some t) (next : Claims.expiresNext t s.takeWord) :
    s.expire stored event = event (s.takeWord.runTo t) := by
  obtain ⟨-, ahead, first⟩ := next
  have passed : s.takeWord.notPassed t = true := decide_eq_true ahead
  have comes : s.takeWord.comesFirst t = true := List.all_eq_true.mpr fun x m => decide_eq_true (first x m)
  unfold State.expire
  dsimp only
  rw [held]
  exact if_pos (by rw [passed, comes]; rfl)

theorem endPulse_of_some {line : Fin 8} {t : Micros} {s : State} (held : s.clu.lines[line].pulse = some t) :
    s.endPulse line = s.setClu
      { s.clu with lines := s.clu.lines.set line { s.clu.lines[line] with level := false, pulse := none } } := by
  unfold State.endPulse
  rw [held]
  rfl

/-- The pin of a line that is deasserted. -/
theorem cuePin_endPulse {line : Fin 8} {t : Micros} {s : State} (held : s.clu.lines[line].pulse = some t) :
    (s.endPulse line).cuePin line = s.polarity line := by
  rw [endPulse_of_some held]
  change (s.clu.lines.set line _)[line].pinHigh = _
  rw [getElem_set_fin, if_pos rfl]
  exact Bool.false_bne _

/-- Settles O42: both ends are expiries that an action or an edge of their cycle can have spent. -/
theorem pulseAndSpacingEnd : Obligations.PulseAndSpacingEnd := by
  intro s
  refine ⟨fun line t held next fresh => ?_, fun line absent fresh => ?_, fun line spent => ?_,
    fun input t held next fresh => ?_, fun input absent fresh => ?_, fun input spent => ?_, takeWord_of_none⟩
  · obtain ⟨lines, -⟩ := runTo_lines t s.takeWord
    have still : (s.takeWord.runTo t).clu.lines[line].pulse = some t := by rw [lines, held]
    have ran : exec (.pulseEnd line) s = .next ((s.takeWord.runTo t).endPulse line) := congrArg Host.Outcome.next
      ((unlessSpent_of_not_mem _ fresh).trans (expire_of_expiresNext held next))
    refine ⟨ran.trans (congrArg Host.Outcome.next (endPulse_of_some still)), fun u result => ?_⟩
    obtain rfl := Host.Outcome.next.inj (ran.symm.trans result)
    have polarity : (s.takeWord.runTo t).polarity = s.polarity := by
      rw [← takeWord_polarity s]
      unfold State.polarity
      rw [lines]
    rw [cuePin_endPulse still, polarity]
    rfl
  · exact congrArg Host.Outcome.next ((unlessSpent_of_not_mem _ fresh).trans (expire_none _ absent))
  · exact congrArg Host.Outcome.next (unlessSpent_of_mem _ spent)
  · exact congrArg Host.Outcome.next ((unlessSpent_of_not_mem _ fresh).trans (expire_of_expiresNext held next))
  · exact congrArg Host.Outcome.next ((unlessSpent_of_not_mem _ fresh).trans (expire_none _ absent))
  · exact congrArg Host.Outcome.next (unlessSpent_of_mem _ spent)

/-! ## READ_TIME (R44, R159) -/

theorem micros_toNat (s : State) : s.micros.toNat = s.btu.time.toNat / 16 := by
  have fine := s.btu.time.isLt
  rw [State.micros, microsOf, BitVec.toNat_ofNat]
  omega

theorem bytesBe_one (v : Nat) : bytesBe 1 v = [BitVec.ofNat 8 v] := by
  rw [bytesBe, bytesBe, pow_zero, Nat.div_one]

/-- A field of two bytes in two's complement. -/
theorem signedBytes_two (v : Int) : signedBytes 2 v = bytesBe 2 (BitVec.ofInt 16 v).toNat := by
  rw [signedBytes, BitVec.toNat_ofInt]
  rfl

theorem shownSync_bytes (s : State) :
    bytesBe 1 s.shownSync.code =
      [if s.stc.station = .joined then
        match s.agu.sync with | .nosync => 0 | .alone => 1 | .seeking => 2 | .locked => 3 | .adrift => 4
      else 0] := by
  rw [bytesBe_one, State.shownSync]
  split
  · cases s.agu.sync <;> rfl
  · rfl

/-- Settles O22: the reply's fields, one by one. -/
theorem readTimeShowsBusTime : Obligations.ReadTimeShowsBusTime := by
  intro s isOpen
  have fraction : (fractionOf s.btu.time).toNat = s.btu.time.toNat % 16 := BitVec.toNat_ofNat _ _
  refine congrArg Host.Outcome.next ((takeCommand_unchanged isOpen rfl).trans ?_)
  dsimp only
  rw [State.timeBody, micros_toNat, bytesBe_one (fractionOf s.btu.time).toNat, fraction, signedBytes_two, signedBytes_two,
    shownSync_bytes]
  rfl

end Sys2Proof.Machine
end

section
/-! SUPPORT. The end of the listen window (O48): who posts while time passes and in a step of bus time, and what acquisition leaves. -/

namespace Sys2Proof.Machine

/-! ## Who posts while time passes (R26, R27) -/

theorem setFcu_onlyPosts (f : FcuState) (s : State) : OnlyPosts [.fcu] s (s.setFcu f) := .of_notices rfl

theorem changeFault_onlyPosts (f : FaultState) (s : State) : OnlyPosts [.fcu] s (s.changeFault f) := by
  unfold State.changeFault
  split
  · exact .refl _ _
  · exact OnlyPosts.trans (t := (s.setFcu { s.fcu with state := f }).setLiu { s.liu with holdOff := false })
      (.of_notices rfl) (post_onlyPosts (List.mem_singleton.mpr rfl))

theorem countSpans_onlyPosts (n : Nat) (reached : Bool) (s : State) : OnlyPosts [.fcu] s (s.countSpans n reached) := by
  have counted := setFcu_onlyPosts { s.fcu with spans := min 64 (s.fcu.spans + n) } s
  unfold State.countSpans State.tryRecover
  dsimp only
  split
  · split
    · exact counted.trans ((setFcu_onlyPosts _ _).trans (changeFault_onlyPosts .active _))
    · exact counted
  · exact counted

theorem settleSpans_onlyPosts (s : State) : OnlyPosts [.fcu] s s.settleSpans := by
  unfold State.settleSpans
  split
  · exact (setFcu_onlyPosts _ s).trans (countSpans_onlyPosts _ _ _)
  · exact .refl _ _

theorem countIdle_onlyPosts (bits : Nat) (s : State) : OnlyPosts [.fcu] s (s.countIdle bits) := by
  unfold State.countIdle
  split
  · exact (setFcu_onlyPosts _ s).trans (countSpans_onlyPosts _ _ _)
  · exact .refl _ _

theorem passCycles_onlyPosts (n : Nat) (s : State) : OnlyPosts [.fcu] s (s.passCycles n) :=
  OnlyPosts.trans (t := (s.cyclesPassed n).setBtu _) (.of_notices rfl) (countIdle_onlyPosts _ _)

/-- While time passes only the FCU posts. -/
theorem runTo_onlyPosts (w : Micros) (s : State) : OnlyPosts [.fcu] s (s.runTo w) := by
  have first := fun n => (settleSpans_onlyPosts s).trans (passCycles_onlyPosts n s.settleSpans)
  unfold State.runTo
  split
  · exact .refl _ _
  · dsimp only
    refine OnlyPosts.trans ?_ (.of_notices rfl)
    split
    · exact (first _).trans (passCycles_onlyPosts _ _)
    · exact first _

/-- In a step of bus time only the CSU, the SQ and the FCU post. -/
theorem stepTime_onlyPosts (amount : Int) (s : State) : OnlyPosts [.csu, .sq, .fcu] s (s.stepTime amount) := by
  by_cases still : amount = 0
  · rw [State.stepTime, if_pos still]
    exact .refl _ _
  · have told : OnlyPosts [.csu, .sq, .fcu] s (s.stepTold amount) := .of_notices rfl
    rw [stepTime_eq still]
    obtain kept | ⟨u, before, after⟩ := reexamine_around_csu (R := OnlyPosts [.csu, .sq, .fcu]) (OnlyPosts.refl _)
      OnlyPosts.trans (Config.reexamineOrder s.draws) s.micros (microsChange s.btu.time amount) (s.stepTold amount)
      (fun u => (reexamineSq_onlyPosts _ _ u).mono (by decide)) (fun u => (recoverBy_posts _ u).2.mono (by decide))
    · exact told.trans kept
    · exact told.trans (before.trans (((takeWord_onlyPosts u).mono (by decide)).trans after))

theorem isStation_poster (b : NoticeBody) (kind : Claims.isStation b = true) : b.poster = .stc := by
  cases b with
  | joined | restarted => rfl
  | _ => cases kind

/-- Of kinds that a notice is not of, its posting adds none. -/
theorem post_posts_none {kinds : NoticeBody → Bool} {body : NoticeBody} (other : kinds body = false) (s : State) :
    Claims.posts kinds s (s.post body) [] := by
  intro room
  obtain ⟨front, back, split, -, eq⟩ := post_of_room body ((post_length body s).2 room)
  rw [eq, split]
  simp [other]

/-! ## Acquisition (R64, R146) -/

/-- The sync state that an acquisition of so many offsets begins with. -/
def acquiredSync (fresh : Nat) : SyncState := if fresh = 0 then .alone else .seeking

/-- A station that has made the step of its acquisition, with so many offsets, as it joins. -/
def State.joinedWith (fresh : Nat) (v : State) : State :=
  let told := (v.setAgu
    { v.agu.cleared with
      sync := acquiredSync fresh, good := 0, fresh := fresh
      boundary := some (nextMultiple v.beatMicros v.micros) }).tellClu (acquiredSync fresh)
  (told.setIku { told.iku with noticed := false }).setStc { v.stc with station := .joined, windowEnd := none }

theorem endWindow_eq (s : State) :
    s.endWindow =
      (((s.stepTime (midpoint (s.offsets Peer.acquisitionOffset))).joinedWith
        (s.offsets Peer.acquisitionOffset).length)).post (.joined (acquiredSync (s.offsets Peer.acquisitionOffset).length)) :=
  rfl

theorem offsets_of_agu {s t : State} (same : t.agu = s.agu) (of : Peer → Option Int) : t.offsets of = s.offsets of := by
  rw [State.offsets, same]
  rfl

section JoinedWith

variable (fresh : Nat) (v : State)

@[simp] theorem joinedWith_stc :
    (v.joinedWith fresh).stc = { v.stc with station := .joined, windowEnd := none } := rfl
@[simp] theorem joinedWith_liu : (v.joinedWith fresh).liu = v.liu := rfl
@[simp] theorem joinedWith_fcu : (v.joinedWith fresh).fcu = v.fcu := rfl
@[simp] theorem joinedWith_btu : (v.joinedWith fresh).btu = v.btu := rfl
@[simp] theorem joinedWith_sq : (v.joinedWith fresh).sq = v.sq := rfl
@[simp] theorem joinedWith_iku : (v.joinedWith fresh).iku = { v.iku with noticed := false } := rfl
@[simp] theorem joinedWith_csu : (v.joinedWith fresh).csu = v.csu := rfl
@[simp] theorem joinedWith_clu : (v.joinedWith fresh).clu = (v.tellClu (acquiredSync fresh)).clu := rfl
@[simp] theorem joinedWith_mku : (v.joinedWith fresh).mku = v.mku := rfl
@[simp] theorem joinedWith_lpu : (v.joinedWith fresh).lpu = v.lpu := rfl
@[simp] theorem joinedWith_pending : (v.joinedWith fresh).pending = v.pending := rfl
@[simp] theorem joinedWith_spent : (v.joinedWith fresh).spent = v.spent := rfl
@[simp] theorem joinedWith_draws : (v.joinedWith fresh).draws = v.draws := rfl
@[simp] theorem joinedWith_micros : (v.joinedWith fresh).micros = v.micros := rfl

@[simp] theorem joinedWith_agu :
    (v.joinedWith fresh).agu = { v.agu.cleared with
      sync := acquiredSync fresh, good := 0, fresh := fresh
      boundary := some (nextMultiple v.beatMicros v.micros) } := rfl

theorem cleared_peers (a : AguState) (i : Fin 32) :
    a.cleared.peers[i] = a.peers[i].map fun p => { p with fresh := false } :=
  getElem_mapVector _ a.peers i i.isLt

end JoinedWith

/-- An LPU whose port stands has kept all but its notices. -/
theorem lpu_eq_of_port {l m : LpuState} (transaction : l.transaction = m.transaction) (reply : l.reply = m.reply)
    (truncated : l.truncated = m.truncated) : l = { m with notices := l.notices, lost := l.lost } := by
  cases l
  cases m
  simp_all

/-- Settles O48: bus time runs on to the window's end, steps, and the station joins. -/
theorem listenWindowEndJoins : Obligations.ListenWindowEndJoins := by
  intro w s listening held next offsets sync v
  obtain ⟨none, ahead, first⟩ := next
  have passed := runTo_touches w s
  have stepped : Touches _ (s.runTo w) v := stepTime_touches (midpoint offsets) (s.runTo w)
  have moved := stepTime_btu (midpoint offsets) (s.runTo w)
  change v.btu.time = _ ∧ v.btu.trim = _ ∧ v.btu.slew = _ ∧ _ ∧ v.mku.reactions = _ at moved
  obtain ⟨time, trim, slew, -, reactions⟩ := moved
  obtain ⟨trim', slew', -⟩ := runTo_keeps w s.btu
  have agu : (s.runTo w).agu = s.agu := passed.agu_eq (by decide)
  have ran : exec .listenWindowEnd s = .next ((v.joinedWith offsets.length).post (.joined (acquiredSync offsets.length))) := by
    refine congrArg Host.Outcome.next ((expire_taken none held ahead first).trans ?_)
    rw [endWindow_eq, offsets_of_agu agu]
  have only : OnlyPosts [.csu, .sq, .fcu] s v := ((runTo_onlyPosts w s).mono (by decide)).trans (stepTime_onlyPosts _ _)
  have begins : acquiredSync offsets.length = sync := rfl
  clear_value v sync offsets
  have frame : Touches
      [.window, .liu, .timing, .stamp, .holdOff, .fcu, .btu, .pendingBeat, .sq, .csu, .clu, .mku, .notices, .posted, .spent, .draws]
      s v := (passed.mono (by decide)).trans stepped
  have agreement := frame.agu_eq_but (by decide)
  have iku := frame.iku (by decide)
  obtain ⟨-, draining, config⟩ := frame.stc (by decide)
  obtain ⟨transaction, reply, truncated⟩ := frame.port (by decide)
  obtain ⟨transaction', reply', truncated'⟩ :=
    (post_touches (.joined (acquiredSync offsets.length)) (v.joinedWith offsets.length)).port (by decide)
  have others := post_posts_none (kinds := fun body => !Claims.isStation body) (body := .joined (acquiredSync offsets.length))
    rfl (v.joinedWith offsets.length)
  have before : OnlyPosts [.csu, .sq, .fcu] s (v.joinedWith offsets.length) := only.trans (.of_notices rfl)
  have joins := post_posts isStation_poster (.joined (acquiredSync offsets.length)) (v.joinedWith offsets.length)
  refine ⟨_, ran, by simp, by simp, by simpa using draining, by simpa using time, by simp [trim, trim'], by simp [slew, slew'],
    by simpa using begins, by simp, by simp, ?_, fun i => ?_, ?_, by simp [begins], ?_, by simp, by simp, by simp, by simp,
    by simp, by simp, by simp, by simp [iku], ⟨by simpa using config, by simp [iku], ?_, by simpa using frame.pending (by decide)⟩,
    ?_, others,
    lpu_eq_of_port (transaction'.trans transaction) (reply'.trans reply) (truncated'.trans truncated)⟩
  · rw [post_agu, joinedWith_agu, post_micros, joinedWith_micros, State.beatMicros, config]
  · rw [post_agu, joinedWith_agu, agreement]
    exact cleared_peers _ i
  · rw [post_agu, joinedWith_agu, AguState.cleared, begins, agreement]
  · rw [post_clu, joinedWith_clu, begins]
    rfl
  · rw [post_mku, joinedWith_mku, reactions, passed.mku (by decide)]
  · rw [post_micros, ← begins]
    exact onlyPosts_posts isStation_poster before (post_length _ _).1 joins (by decide)

end Sys2Proof.Machine
end

section
/-! SUPPORT. The stale time of a WAITING record or BEAT reached (O44). -/

namespace Sys2Proof.Machine

/-- Where each record stands in a slot of its own, the WAITING ones of a slot are the one there. -/
theorem filter_waiting {records : List Record} (own : (records.map fun r => r.tag.slot).Nodup) {r : Record}
    (m : r ∈ records) (waiting : r.state = .waiting) :
    (records.filter fun x => decide (x.tag.slot = r.tag.slot ∧ x.state = .waiting)) = [r] := by
  refine List.perm_singleton.mp
    ((List.perm_ext_iff_of_nodup ((List.Nodup.of_map _ own).filter _) (List.nodup_singleton r)).mpr fun x => ?_)
  rw [List.mem_filter, List.mem_singleton, decide_eq_true_iff]
  refine ⟨fun ⟨there, slot, _⟩ => record_eq_of_slot own m there slot, ?_⟩
  rintro rfl
  exact ⟨m, rfl, waiting⟩

theorem staleRecordLeaves : Claims.StaleRecordLeaves := by
  intro r t s own m waiting stale next
  obtain ⟨none, ahead, first⟩ := next
  have held : s.waitingStale (.slot r.tag.slot) = some t := by
    unfold State.waitingStale
    dsimp only
    rw [find_waiting own m waiting]
    exact stale
  have alone : (s.runTo t).expireStale (.slot r.tag.slot) = (s.runTo t).leave r .stale false false := by
    unfold State.expireStale State.leaveAll
    dsimp only
    rw [(runTo_touches t s).sq (by decide), filter_waiting own m waiting]
    rfl
  exact congrArg Host.Outcome.next ((expire_taken none held ahead first).trans alone)

theorem staleBeatLeavesSlot : Claims.StaleBeatLeavesSlot := by
  intro b s held waits alone next
  obtain ⟨none, ahead, first⟩ := next
  have passed := runTo_touches b.beat.stale s
  have sq := passed.sq (by decide)
  have stored : s.waitingStale .beat = some b.beat.stale := by
    unfold State.waitingStale
    dsimp only
    rw [held]
    exact if_neg (by simp [waits])
  have left : (s.runTo b.beat.stale).expireStale .beat = (s.runTo b.beat.stale).beatLeft := by
    unfold State.expireStale
    dsimp only
    rw [sq, held]
    exact if_neg (by simp [waits])
  refine congrArg Host.Outcome.next ((expire_taken none stored ahead first).trans ?_)
  rw [left, beatLeft_eq, beatLeft_of_none ((passed.pendingBeat (by decide)).trans alone), sq]

/-- Settles O44: the record alone in its slot, and the BEAT with none pending behind it. -/
theorem staleTimeExpiryRemovesWaiting : Obligations.StaleTimeExpiryRemovesWaiting :=
  ⟨staleRecordLeaves, staleBeatLeavesSlot⟩

end Sys2Proof.Machine
end

section
/-! SUPPORT. READ_PEER, READ_ENTRY and READ_RECORD (O23): the indexes named, and the replies' fields. -/

namespace Sys2Proof.Machine

/-! ## Indexes and replies -/

theorem indexOf_none {bound : Nat} {b : Byte} (beyond : bound ≤ b.toNat) : indexOf bound b = none :=
  dif_neg (Nat.not_lt.mpr beyond)

theorem indexOf_some {bound : Nat} {b : Byte} (inside : b.toNat < bound) : indexOf bound b = some ⟨b.toNat, inside⟩ :=
  dif_pos inside

/-- A command that only reads, taken by an open port. -/
theorem read_replied {s : State} (isOpen : s.PortOpen) {answer : State → Reply} {reply : Reply} (read : answer s = reply) :
    s.takeCommand (fun s => (s, answer s)) = s.replied reply.status.code reply.body :=
  takeCommand_unchanged isOpen (by rw [read])

/-! ## Fields of the replies (R159) -/

/-- A field of five bytes in two's complement. -/
theorem signedBytes_five (v : Int) : signedBytes 5 v = bytesBe 5 (BitVec.ofInt 40 v).toNat := by
  rw [signedBytes, BitVec.toNat_ofInt]
  rfl

/-- An absent word reads 0 (assumption 24). -/
theorem word_field {w : Nat} (word : Option (BitVec w)) : (word.map BitVec.toNat).getD 0 = (word.getD 0).toNat := by
  cases word with
  | none => rfl
  | some _ => rfl

theorem sync_field (sync : Option SyncState) :
    BitVec.ofNat 8 ((sync.map SyncState.code).getD 0) =
      match sync with
      | none => 0
      | some .nosync => 0
      | some .alone => 1
      | some .seeking => 2
      | some .locked => 3
      | some .adrift => 4 := by
  cases sync with
  | none => rfl
  | some y => cases y <;> rfl

theorem presence_flag (p : PeerPresence) : flagAt 0 (decide (p = .silent)) = if p = .silent then 1 else 0 := by
  cases p <;> rfl

theorem source_field (source : CueSource) :
    source.code = match source with | .bus => 0 | .localPort => 1 | .reaction => 2 := by
  cases source <;> rfl

theorem hit_field (hit : Option (Fin 16)) :
    (hit.map fun i => BitVec.ofNat 8 i.val).getD 0xFF = match hit with | some i => BitVec.ofNat 8 i.val | none => 0xFF := by
  cases hit <;> rfl

theorem target_field (target : Target) :
    targetByte target = match target with | some i => BitVec.ofNat 8 i.val | none => 0xFF := by
  cases target <;> rfl

theorem action_field (action : Action) :
    BitVec.ofNat 8 action.code =
      match action with | .set => 0 | .clear => 1 | .toggle => 2 | .pulse => 3 | .note => 4 := by
  cases action <;> rfl

theorem repeat_fields (rpt : Option Repeat) :
    bytesBe 3 ((rpt.map Repeat.period).getD 0) ++ bytesBe 1 ((rpt.map Repeat.count).getD 0) =
      match rpt with
      | some r => bytesBe 3 r.period ++ [BitVec.ofNat 8 r.count]
      | none => [0, 0, 0, 0] := by
  rw [bytesBe_one]
  cases rpt <;> rfl

theorem class_field (body : RecordBody) :
    BitVec.ofNat 8 body.classCode = match body with | .recallBody _ => 1 | .markBody _ => 2 | .cueBody _ => 3 := by
  cases body <;> rfl

theorem state_field (r : Record) :
    r.stateByte = BitVec.ofNat 8
      ((match r.state with | .waiting => 0 | .held _ => 17 | .inFlight => 2)
        + (if r.withdrawPending then 4 else 0) + (if r.stale.isSome then 8 else 0)) := by
  unfold Record.stateByte
  cases r.state <;> rfl

theorem held_field (r : Record) :
    r.heldByte = match r.state with | .held g => BitVec.ofNat 8 (g.slot.val * 16 + g.generation.toNat) | _ => 0 := by
  unfold Record.heldByte
  cases r.state <;> rfl

theorem number_field (body : RecordBody) :
    bytesBe 2 body.cueNumber = match body with | .cueBody c => bytesBe 2 c.number.toNat | _ => [0, 0] := by
  cases body with
  | recallBody | markBody => exact (by decide : bytesBe 2 0 = [0, 0])
  | cueBody => rfl

/-- The urgency that READ_RECORD shows (R74, R85). -/
theorem urgency_field (r : Record) (s : State) :
    bytesBe 1 (s.urgencyNow r) =
      [match r.body, r.stale with
      | .cueBody _, some stale =>
        if 1 ≤ (stale - s.micros).toNat ∧ (stale - s.micros).toNat < 2 ^ 31 then
          BitVec.ofNat 8 (min 15 ((stale - s.micros).toNat / s.stc.config.urgencyStep))
        else 0
      | _, _ => 0] := by
  rw [bytesBe_one]
  unfold State.urgencyNow
  cases r.body with
  | recallBody | markBody => rfl
  | cueBody c =>
    cases r.stale with
    | none => rfl
    | some stale =>
      by_cases ahead : Claims.ahead stale s.micros
      · have later : reached stale s.micros = false := by simpa [← Bool.not_eq_true, reached_iff] using ahead
        simp only [urgencyOf, later]
        exact congrArg (fun b => [b]) (if_pos ahead).symm
      · have behind : reached stale s.micros = true := (reached_iff _ _).mpr ahead
        simp only [urgencyOf, behind]
        exact congrArg (fun b => [b]) (if_neg ahead).symm

/-! ## The three reads (R65, R85, R118) -/

theorem readPeerShowsEntry : Claims.ReadPeerShowsEntry := by
  intro index s isOpen
  refine ⟨fun beyond => ?_, fun i named => ?_⟩
  · refine congrArg Host.Outcome.next (read_replied (reply := .only .refusedRange) isOpen ?_)
    rw [State.peerReply, indexOf_none beyond]
  · have found : indexOf 32 index = some i := (indexOf_some (named ▸ i.isLt)).trans (congrArg some (Fin.ext named))
    refine ⟨fun free => ?_, fun p held => ?_⟩
    · refine congrArg Host.Outcome.next (read_replied (reply := .only .empty) isOpen ?_)
      simp only [State.peerReply, found, free]
    · refine congrArg Host.Outcome.next
        ((read_replied (reply := { status := .ok, body := p.replyBody }) isOpen ?_).trans ?_)
      · simp only [State.peerReply, found, held]
      · rw [Peer.replyBody, signedBytes_five, bytesBe_one, sync_field, presence_flag] <;> rfl

theorem readEntryShowsEntry : Claims.ReadEntryShowsEntry := by
  intro position s isOpen
  refine ⟨fun beyond => ?_, fun inside none => ?_, fun e inside held => ?_⟩
  · refine congrArg Host.Outcome.next (read_replied (reply := .only .refusedRange) isOpen ?_)
    rw [State.entryReply, indexOf_none beyond]
  · refine congrArg Host.Outcome.next (read_replied (reply := .only .empty) isOpen ?_)
    simp only [State.entryReply, indexOf_some inside, none]
  · refine congrArg Host.Outcome.next
      ((read_replied (reply := { status := .ok, body := e.replyBody }) isOpen ?_).trans ?_)
    · simp only [State.entryReply, indexOf_some inside, held]
    · rw [Entry.replyBody, word_field, word_field, source_field, hit_field, target_field, action_field,
        List.append_assoc _ (bytesBe 3 _), repeat_fields] <;> rfl

theorem readRecordShowsRecord : Claims.ReadRecordShowsRecord := by
  intro tag s isOpen own
  refine ⟨fun unknown => ?_, fun r m named => ?_⟩
  · refine congrArg Host.Outcome.next (read_replied (reply := .only .unknownTag) isOpen ?_)
    have none : s.sq.named tag = .none := List.find?_eq_none.mpr fun r m => by simpa using unknown r m
    rw [State.recordReply, none]
  · subst named
    refine congrArg Host.Outcome.next
      ((read_replied (reply := { status := .ok, body := r.replyBody (s.urgencyNow r) }) isOpen ?_).trans ?_)
    · rw [State.recordReply, named_of_mem own m]
    · rw [Record.replyBody, word_field, class_field, state_field, held_field, number_field, urgency_field, bytesBe_one] <;> rfl

/-- Settles O23: each read names its entry, or none, and its reply spells the entry's fields. -/
theorem readsOfTablesShowEntries : Obligations.ReadsOfTablesShowEntries :=
  ⟨readPeerShowsEntry, readEntryShowsEntry, readRecordShowsRecord⟩

end Sys2Proof.Machine
end

section
/-! SUPPORT. The arithmetic of a round (O46): the table aged, the offsets collected, their midpoint, the sync state, slew and trim, and the next boundary. -/

namespace Sys2Proof.Machine

/-! ## The midpoint (R57) -/

theorem two_mul_trimCount_lt {n : Nat} (some : 0 < n) : 2 * trimCount n < n := by
  unfold trimCount
  split_ifs <;> omega

/-- Values in rising order, sorted, are themselves in rising order. -/
theorem insertionSort_eq {values rising : List Int} (same : values.Perm rising) (sorted : rising.Pairwise (· ≤ ·)) :
    values.insertionSort (· ≤ ·) = rising :=
  ((List.perm_insertionSort (· ≤ ·) values).trans same).eq_of_pairwise (fun _ _ _ _ => Int.le_antisymm)
    (List.pairwise_insertionSort (· ≤ ·) values) sorted

theorem trimmedMidpoint : Claims.TrimmedMidpoint := by
  intro values rising least greatest same sorted n k low high
  have length : rising.length = n := same.length_eq.symm
  have inside : k < n := length ▸ (List.getElem?_eq_some_iff.mp low).1
  have few : 2 * k < n := two_mul_trimCount_lt (by omega)
  have left : trimmed values = (rising.drop k).take (n - 2 * k) := by rw [trimmed, insertionSort_eq same sorted]; rfl
  have first : (trimmed values).head? = some least := by
    rw [left, List.head?_take, if_neg (by omega), List.head?_drop, low]
  have last : (trimmed values).getLast? = some greatest := by
    rw [left, List.getLast?_eq_getElem?, List.length_take, List.length_drop, List.getElem?_take_of_lt (by omega), List.getElem?_drop, ← high]
    congr 1
    omega
  unfold midpoint
  dsimp only
  rw [first, last]

/-! ## The sync state (R52, R53) -/

theorem goodRound_iff (c : StationConfig) (fresh : Nat) (correction : Int) :
    goodRound c fresh correction = true ↔ correction.natAbs ≤ c.lockBound ∧ c.quorum ≤ fresh := decide_eq_true_iff

theorem overThreshold_iff (c : StationConfig) (correction : Int) :
    overThreshold c correction = true ↔ 16 * c.threshold < correction.natAbs := decide_eq_true_iff

theorem syncStateTable : Claims.SyncStateTable := by
  intro c good fresh correction isGood
  refine ⟨fun before => if_pos rfl, fun some => ?_⟩
  have row : ∀ before, syncAfterRound c before good fresh correction = _ := fun before => if_neg (by omega)
  have passes : isGood → goodRound c fresh correction = true := (goodRound_iff _ _ _).mpr
  have fails : ¬isGood → ¬goodRound c fresh correction = true := mt (goodRound_iff _ _ _).mp
  refine ⟨row _, fun g three => ?_, fun g few => ?_, fun b => ?_, fun g => ?_, fun b => ?_, fun beyond => ?_, fun within =>
    ⟨fun g three => ?_, fun g few => ?_, fun b => ?_⟩⟩
  · exact (row _).trans ((if_pos (passes g)).trans (if_pos three))
  · exact (row _).trans ((if_pos (passes g)).trans (if_neg (by omega)))
  · exact (row _).trans (if_neg (fails b))
  · exact (row _).trans (if_pos (passes g))
  · exact (row _).trans (if_neg (fails b))
  · exact (row _).trans (if_pos ((overThreshold_iff _ _).mpr beyond))
  all_goals have under := (row .adrift).trans (if_neg (mt (overThreshold_iff c correction).mp (by omega)))
  · exact under.trans ((if_pos (passes g)).trans (if_pos three))
  · exact under.trans ((if_pos (passes g)).trans (if_neg (by omega)))
  · exact under.trans (if_neg (fails b))

/-! ## Slew and trim (R58) -/

theorem slewAndTrimArithmetic : Claims.SlewAndTrimArithmetic := by
  refine ⟨fun _ _ _ => rfl, fun trim residue slew _ _ _ _ => ?_⟩
  refine ⟨(residue + slew).tdiv 128, (residue + slew).tmod 128, ?_, ?_, ?_, ?_, ?_, rfl⟩
  · exact (Int.tdiv_mul_add_tmod _ _).symm
  · exact Int.lt_tmod_of_pos _ (by decide)
  · exact Int.tmod_lt_of_pos _ (by decide)
  · exact Int.tmod_nonneg _
  · intro behind
    have mirrored := Int.tmod_nonneg 128 (Int.neg_nonneg_of_nonpos behind)
    rw [Int.neg_tmod] at mirrored
    omega

/-! ## The next boundary (R60) -/

theorem nextBoundaryIsNextMultiple : Claims.NextBoundaryIsNextMultiple := by
  intro interval reference positive _ next
  by_cases fits : (reference.toNat / interval + 1) * interval < 2 ^ 32
  · have value : next.toNat = (reference.toNat / interval + 1) * interval := by
      simp only [next, nextMultiple]
      rw [if_pos fits, BitVec.toNat_ofNat, Nat.mod_eq_of_lt fits]
    have above : reference.toNat < (reference.toNat / interval + 1) * interval := (Nat.div_lt_iff_lt_mul positive).mp (Nat.lt_succ_self _)
    rw [value]
    refine .inr ⟨above, Nat.dvd_mul_left _ _, fun m divides later => ?_⟩
    obtain ⟨q, rfl⟩ := divides
    rw [Nat.mul_comm interval q]
    exact Nat.mul_le_mul_right _ ((Nat.div_lt_iff_lt_mul positive).mpr (by rwa [Nat.mul_comm] at later))
  · refine .inl ⟨?_, by omega⟩
    simp only [next, nextMultiple]
    rw [if_neg fits]
    rfl

/-! ## The offsets (R57, R64) -/

/-- A register file, register by register. -/
theorem toList_eq_map {α : Type} {n : Nat} (v : Vector α n) : v.toList = (List.finRange n).map fun i => v[i] := by
  refine List.ext_getElem (by simp) fun i _ _ => ?_
  simp

theorem offsets_eq (of : Peer → Option Int) (s : State) :
    s.offsets of = (List.finRange 32).filterMap fun i => s.agu.peers[i].bind of := by
  rw [State.offsets, toList_eq_map, List.filterMap_map]
  rfl

theorem roundOffset_eq : Peer.roundOffset = fun p : Peer =>
    if p.presence = .present ∧ p.fresh = true ∧ p.mismatch = false then p.offset else none := by
  funext p
  simp only [Peer.roundOffset, Bool.not_eq_true]

theorem acquisitionOffset_eq : Peer.acquisitionOffset = fun p : Peer =>
    if p.fresh = true ∧ p.mismatch = false then p.offset else none := by
  funext p
  simp only [Peer.acquisitionOffset, Bool.not_eq_true]

theorem offsetsCollected : Claims.OffsetsCollected := by
  intro s
  rw [offsets_eq, offsets_eq, roundOffset_eq, acquisitionOffset_eq]
  exact ⟨rfl, rfl⟩

/-! ## The table aged (R47, R56) -/

/-- The rounds since an entry's station was heard, after one more. -/
def Peer.roundsAfter (p : Peer) : Nat := min 255 (p.rounds + 1)

/-- An entry one round older, SILENT from 3 rounds on. -/
def Peer.older (p : Peer) : Peer :=
  { p with
    rounds := p.roundsAfter
    presence := if p.presence = .present ∧ 3 ≤ p.roundsAfter then .silent else p.presence }

/-- An entry after a round, or none where it is freed. -/
def Peer.aged (p : Peer) : Option Peer := if 16 ≤ p.roundsAfter then none else some p.older

/-- The notice of an entry that falls SILENT. -/
def Peer.silentNotices (p : Peer) : List NoticeBody :=
  if p.presence = .present ∧ 3 ≤ p.roundsAfter then [.peerState p.station .silent] else []

/-- The notices that the ageing of an entry posts. -/
def Peer.agingNotices (p : Peer) : List NoticeBody :=
  p.silentNotices ++ if 16 ≤ p.roundsAfter then [.peerState p.station .freed] else []

/-- The notices that the ageing of an index posts. -/
def agingAt (entry : Option Peer) : List NoticeBody := (entry.map Peer.agingNotices).getD []

/-- A table of which some indexes are aged. -/
def agedOver (indexes : List (Fin 32)) (peers : Vector (Option Peer) 32) : Vector (Option Peer) 32 :=
  Vector.ofFn fun i => if i ∈ indexes then peers[i].bind Peer.aged else peers[i]

@[simp] theorem postAll_agu (bodies : List NoticeBody) (s : State) : (s.postAll bodies).agu = s.agu := by
  induction bodies generalizing s with
  | nil => rfl
  | cons body rest ih => rw [postAll_cons, ih, post_agu]

theorem setAgu_postAll (a : AguState) (bodies : List NoticeBody) (s : State) :
    (s.setAgu a).postAll bodies = (s.postAll bodies).setAgu a := by
  induction bodies generalizing s with
  | nil => rfl
  | cons body rest ih => rw [postAll_cons, setAgu_post, ih, postAll_cons]

theorem setPeer_setAgu (i : Fin 32) (x y : Option Peer) (s u : State) :
    (u.setAgu { s.agu with peers := s.agu.peers.set i x }).setPeer i y =
      u.setAgu { s.agu with peers := s.agu.peers.set i y } := by
  unfold State.setPeer
  rw [setAgu_agu, Vector.set_set]
  rfl

/-- One index aged: its notices posted, and its entry written. -/
theorem agePeer_eq (s : State) (i : Fin 32) :
    s.agePeer i = (s.postAll (agingAt s.agu.peers[i])).setAgu
      { s.agu with peers := s.agu.peers.set i (s.agu.peers[i].bind Peer.aged) } := by
  cases held : s.agu.peers[i] with
  | none =>
    have same : s.agu.peers.set i none = s.agu.peers := by
      rw [← held]
      exact Vector.set_getElem_self i.isLt
    rw [State.agePeer, held, Option.bind_none, same]
    rfl
  | some p =>
    have told : (s.setPeer i (some p.older)).postIf (decide (p.presence = .present ∧ 3 ≤ p.roundsAfter))
        (.peerState p.station .silent) =
          (s.postAll p.silentNotices).setAgu { s.agu with peers := s.agu.peers.set i (some p.older) } := by
      simp only [Peer.silentNotices, State.postIf, decide_eq_true_eq]
      split
      · exact setAgu_post s _ _
      · rfl
    have written : s.agePeer i =
        if 16 ≤ p.roundsAfter then
          (((s.postAll p.silentNotices).setAgu { s.agu with peers := s.agu.peers.set i (some p.older) }).setPeer i
            none).post (.peerState p.station .freed)
        else (s.postAll p.silentNotices).setAgu { s.agu with peers := s.agu.peers.set i (some p.older) } := by
      rw [← told, State.agePeer, held]
      simp only [Peer.older, Peer.roundsAfter, decide_eq_true_eq]
      rfl
    change _ = (s.postAll p.agingNotices).setAgu { s.agu with peers := s.agu.peers.set i p.aged }
    rw [written, Peer.agingNotices, postAll_append, Peer.aged]
    by_cases goes : 16 ≤ p.roundsAfter
    · simp only [if_pos goes, setPeer_setAgu]
      exact setAgu_post _ _ _
    · simp only [if_neg goes]
      rfl

/-- An index aged leaves the entries of the others. -/
theorem agedOver_cons {i : Fin 32} {rest : List (Fin 32)} (apart : i ∉ rest) (peers : Vector (Option Peer) 32) :
    agedOver rest (peers.set i (peers[i].bind Peer.aged)) = agedOver (i :: rest) peers := by
  unfold agedOver
  congr 1
  funext j
  rw [getElem_set_fin]
  by_cases here : i = j
  · subst here
    simp [apart]
  · simp [here, Ne.symm here]

theorem foldl_agePeer {indexes : List (Fin 32)} (own : indexes.Nodup) (s : State) :
    indexes.foldl State.agePeer s =
      (s.postAll (indexes.flatMap fun i => agingAt s.agu.peers[i])).setAgu
        { s.agu with peers := agedOver indexes s.agu.peers } := by
  induction indexes generalizing s with
  | nil =>
    have same : agedOver [] s.agu.peers = s.agu.peers := by simp [agedOver]
    rw [same]
    rfl
  | cons i rest ih =>
    obtain ⟨apart, own⟩ := List.nodup_cons.mp own
    have others : (rest.flatMap fun j => agingAt (s.agePeer i).agu.peers[j]) =
        rest.flatMap fun j => agingAt s.agu.peers[j] := by
      refine List.flatMap_congr fun j m => ?_
      rw [agePeer_eq, setAgu_agu, getElem_set_fin, if_neg (fun same : i = j => apart (same ▸ m))]
    rw [List.foldl_cons, ih own, others, agePeer_eq, setAgu_postAll, ← postAll_append]
    simp only [setAgu_agu, agedOver_cons apart]
    rfl

/-- The table aged, in index order. -/
theorem agePeers_eq (s : State) :
    s.agePeers = (s.postAll (Claims.agingNotices s)).setAgu
      { s.agu with peers := Vector.ofFn fun i : Fin 32 => s.agu.peers[i].bind Peer.aged } := by
  have notices : (allIndexes.flatMap fun i => agingAt s.agu.peers[i]) = Claims.agingNotices s := by
    refine List.flatMap_congr fun i _ => ?_
    cases s.agu.peers[i] <;> rfl
  have table : agedOver allIndexes s.agu.peers = Vector.ofFn fun i : Fin 32 => s.agu.peers[i].bind Peer.aged := by
    simp [agedOver, allIndexes]
  rw [State.agePeers, foldl_agePeer (indexes := allIndexes) (List.nodup_finRange 32), notices, table]

theorem tableAged : Claims.TableAged := agePeers_eq

/-- Settles O46: the six tables and sums of a round, one by one. -/
theorem roundArithmetic : Obligations.RoundArithmetic :=
  ⟨tableAged, offsetsCollected, trimmedMidpoint, syncStateTable, slewAndTrimArithmetic, nextBoundaryIsNextMultiple⟩

end Sys2Proof.Machine
end

section
/-! SUPPORT. A step of bus time reads no fresh count (O47): the count of the round that steps may be written before the step or behind it. -/

namespace Sys2Proof.Machine

/-- The count of the fresh peers of a round written (R58). -/
def State.withFresh (n : Nat) (s : State) : State := s.setAgu { s.agu with fresh := n }

section WithFresh

variable (n : Nat) (s : State)

theorem withFresh_post (body : NoticeBody) : (s.withFresh n).post body = (s.post body).withFresh n := by
  rw [State.withFresh, setAgu_post, State.withFresh, post_agu]

/-- The CSU acts alike, and posts alike, whatever the count. -/
theorem withFresh_takeWord : (s.withFresh n).takeWord = s.takeWord.withFresh n := by
  have here := takeWord_touches s
  have there := takeWord_touches (s.withFresh n)
  obtain ⟨alike, bodies, -, ⟨lpu, posted, -⟩, ⟨lpu', posted', -⟩⟩ :=
    takeWord_together (s := s) (t := s.withFresh n) ⟨rfl, rfl, rfl, rfl, rfl⟩
  obtain ⟨sameLpu, samePosted⟩ := postAll_congr (s := s) (t := s.withFresh n) rfl rfl rfl bodies
  have agu : (s.withFresh n).takeWord.agu = (s.takeWord.withFresh n).agu := by
    rw [there.agu_eq (by decide), State.withFresh, State.withFresh, setAgu_agu, setAgu_agu, here.agu_eq (by decide)]
  exact State.ext_of alike.stc ((there.liu_eq (by decide)).trans (here.liu_eq (by decide)).symm)
    ((there.fcu (by decide)).trans (here.fcu (by decide)).symm) alike.btu agu
    ((there.sq (by decide)).trans (here.sq (by decide)).symm) ((there.iku (by decide)).trans (here.iku (by decide)).symm)
    alike.csu alike.clu ((there.mku (by decide)).trans (here.mku (by decide)).symm)
    (lpu'.trans (sameLpu.trans lpu.symm)) ((there.pending (by decide)).trans (here.pending (by decide)).symm)
    alike.spent (posted'.trans (samePosted.trans posted.symm)) ((there.draws (by decide)).trans (here.draws (by decide)).symm)

theorem withFresh_leaveAll (which : Record → Bool) (how : Completion) :
    (s.withFresh n).leaveAll which how = (s.leaveAll which how).withFresh n := by
  have one : ∀ (r : Record) (u : State),
      (u.withFresh n).leave r how false false = (u.leave r how false false).withFresh n :=
    fun r u => by
      rw [State.leave, setSq_post, withFresh_post, State.leave, setSq_post]
      rfl
  have left : ∀ (gone : List Record) (u : State),
      gone.foldl (fun s r => s.leave r how false false) (u.withFresh n) =
        (gone.foldl (fun s r => s.leave r how false false) u).withFresh n := by
    intro gone
    induction gone with
    | nil => exact fun _ => rfl
    | cons r rest ih =>
      intro u
      rw [List.foldl_cons, List.foldl_cons, one, ih]
  exact left _ _

theorem withFresh_beatLeft : (s.withFresh n).beatLeft = s.beatLeft.withFresh n := by
  rw [beatLeft_eq, beatLeft_eq]
  cases pending : s.agu.pendingBeat with
  | none =>
    rw [beatLeft_of_none (s := s.withFresh n) pending, beatLeft_of_none pending]
    rfl
  | some next =>
    by_cases ahead : Claims.ahead next.stale s.micros
    · rw [beatLeft_of_ahead (s := s.withFresh n) pending ahead, beatLeft_of_ahead pending ahead]
      rfl
    · rw [beatLeft_of_reached (s := s.withFresh n) pending ahead, beatLeft_of_reached pending ahead]
      rfl

theorem withFresh_reexamineSq (old : Micros) (change : Int) :
    (s.withFresh n).reexamineSq old change = (s.reexamineSq old change).withFresh n := by
  unfold State.reexamineSq
  dsimp only
  rw [withFresh_leaveAll]
  generalize s.leaveAll _ .stale = u
  have beat : (u.withFresh n).sq.beat = u.sq.beat := rfl
  rw [beat]
  split
  · split
    · exact withFresh_beatLeft n u
    · rfl
  · rfl

theorem withFresh_reexamineFcu (old : Micros) (change : Int) :
    (s.withFresh n).reexamineFcu old change = (s.reexamineFcu old change).withFresh n := by
  have recovers : ∀ now, (s.withFresh n).recoverBy now = (s.recoverBy now).withFresh n := by
    intro now
    rw [recoverBy_eq, recoverBy_eq]
    have fcu : (s.withFresh n).fcu = s.fcu := rfl
    rw [fcu]
    split
    · exact withFresh_post n ((s.setFcu Claims.fcuAtRest).setLiu { s.liu with holdOff := false }) _
    · rfl
  exact recovers _

theorem withFresh_stepTime (amount : Int) : (s.withFresh n).stepTime amount = (s.stepTime amount).withFresh n := by
  by_cases still : amount = 0
  · rw [State.stepTime, if_pos still, State.stepTime, if_pos still]
  · have taken : ∀ (order : Nat) (old : Micros) (change : Int) (u : State),
        (u.withFresh n).reexamine order old change = (u.reexamine order old change).withFresh n := by
      intro order old change u
      unfold State.reexamine
      split <;> simp only [withFresh_takeWord, withFresh_reexamineSq, withFresh_reexamineFcu]
    rw [stepTime_eq still, stepTime_eq still, ← taken]
    rfl

end WithFresh

end Sys2Proof.Machine
end

section
/-! SUPPORT. A sync round taken apart (O47): what a step leaves, the correction written, and how the round ends. -/

namespace Sys2Proof.Machine

/-! ## The correction applied (R58) -/

theorem stepsBy_iff (config : StationConfig) (began : SyncState) (correction : Int) :
    stepsBy config began correction = true ↔ began = .seeking ∧ 16 * config.threshold < correction.natAbs := by
  rw [stepsBy, Bool.and_eq_true, decide_eq_true_iff, overThreshold_iff]

/-- A round as its step leaves it, where it steps. -/
def State.roundStep (began : SyncState) (correction : Int) (s : State) : State :=
  if stepsBy s.stc.config began correction then s.stepTime correction else s

/-- The count of a round and its correction written. -/
def State.corrected (fresh : Nat) (slew trim residue : Int) (v : State) : State :=
  (v.setBtu { v.btu with slew := slew, trim := trim }).setAgu { v.agu with fresh := fresh, residue := residue }

/-- The correction that a round of an aged table leaves: after a step the slew is 0 and trim and residue stand, and otherwise they go by R58. -/
def CorrectionOf (s : State) (began : SyncState) (correction slew trim residue : Int) : Prop :=
  (stepsBy s.stc.config began correction = true → slew = 0 ∧ trim = s.btu.trim ∧ residue = s.agu.residue)
    ∧ (¬stepsBy s.stc.config began correction = true →
      slew = slewFor s.beatMicros correction ∧ (trim, residue) = trimAfter s.btu.trim s.agu.residue slew)

theorem correct_eq (began : SyncState) (fresh : Nat) (correction : Int) (s : State) :
    ∃ slew trim residue, CorrectionOf s began correction slew trim residue
      ∧ (s.withFresh fresh).correct began correction =
        (s.roundStep began correction).corrected fresh slew trim residue := by
  by_cases steps : stepsBy s.stc.config began correction = true
  · obtain ⟨-, trim, -⟩ := stepTime_btu correction s
    have agu := (stepTime_touches correction s).agu_eq_but (by decide)
    refine ⟨0, s.btu.trim, s.agu.residue, ⟨fun _ => ⟨rfl, rfl, rfl⟩, fun not => absurd steps not⟩, ?_⟩
    have moved : (s.withFresh fresh).correct began correction =
        ((s.stepTime correction).withFresh fresh).setBtu { (s.stepTime correction).btu with slew := 0 } := by
      rw [State.correct]
      exact (if_pos steps).trans (by rw [withFresh_stepTime]; rfl)
    have residue : (s.stepTime correction).agu.residue = s.agu.residue := by rw [agu]
    rw [moved, State.roundStep, if_pos steps, State.corrected, ← trim, ← residue]
    rfl
  · refine ⟨_, _, _, ⟨fun is => absurd is steps, fun _ => ⟨rfl, rfl⟩⟩, ?_⟩
    rw [State.roundStep, if_neg steps, State.correct]
    exact if_neg steps

/-! ## The end of a round (R53, R54, R59, R60, R62, R91) -/

/-- The steps of a round behind its correction: the sync state, the flags cleared, the BEAT, the next boundary, and the IKU told. -/
def State.finishRound (boundary next : Micros) (change : Int) (began : SyncState) (fresh : Nat) (correction : Int)
    (w : State) : State :=
  let updated := w.updateSync began fresh correction
  let built := (updated.setAgu updated.agu.cleared).buildBeat boundary change fresh
  (built.setAgu { built.agu with boundary := some next }).setIku { built.iku with noticed := false }

/-- A round in its parts: the table aged, the step, the correction, and the end. -/
theorem roundAt_eq (boundary : Micros) (s : State) :
    let fresh := (s.agePeers.offsets Peer.roundOffset).length
    let correction := midpoint (0 :: s.agePeers.offsets Peer.roundOffset)
    let change := if stepsBy s.stc.config s.agu.sync correction then microsChange s.btu.time correction else 0
    ∃ slew trim residue, CorrectionOf s.agePeers s.agu.sync correction slew trim residue
      ∧ s.roundAt boundary =
        ((s.agePeers.roundStep s.agu.sync correction).corrected fresh slew trim residue).finishRound boundary
          (nextBoundary s.beatMicros boundary change) change s.agu.sync fresh correction := by
  intro fresh correction change
  obtain ⟨slew, trim, residue, rates, corrected⟩ := correct_eq s.agu.sync fresh correction s.agePeers
  refine ⟨slew, trim, residue, rates, ?_⟩
  rw [← corrected]
  rfl

section UpdateSync

variable (began : SyncState) (fresh : Nat) (correction : Int) (w : State)

/-- The sync state and the good rounds that a round leaves. -/
def State.syncAfter : SyncState × Nat := syncAfterRound w.stc.config began w.agu.good fresh correction

/-- They are written. -/
def State.synced : State :=
  w.setAgu
    { w.agu with sync := (w.syncAfter began fresh correction).1, good := (w.syncAfter began fresh correction).2 }

variable {began fresh correction w}

theorem updateSync_same (same : (w.syncAfter began fresh correction).1 = began) :
    w.updateSync began fresh correction = w.synced began fresh correction := if_pos same

theorem updateSync_changed (changed : (w.syncAfter began fresh correction).1 ≠ began) :
    w.updateSync began fresh correction =
      ((w.synced began fresh correction).post (.syncState began (w.syncAfter began fresh correction).1)).tellClu
        (w.syncAfter began fresh correction).1 := if_neg changed

variable (began fresh correction w)

theorem updateSync_agu : (w.updateSync began fresh correction).agu = (w.synced began fresh correction).agu := by
  by_cases same : (w.syncAfter began fresh correction).1 = began
  · rw [updateSync_same same]
  · rw [updateSync_changed same]
    exact post_agu _ _

theorem updateSync_clu : (w.updateSync began fresh correction).clu =
    (if (w.syncAfter began fresh correction).1 = began then w else w.tellClu (w.syncAfter began fresh correction).1).clu := by
  by_cases same : (w.syncAfter began fresh correction).1 = began
  · rw [updateSync_same same, if_pos same]
    rfl
  · rw [updateSync_changed same, if_neg same]
    exact congrArg (CluState.tell _) (post_clu _ _)

theorem isAgreement_poster (b : NoticeBody) (kind : Claims.isAgreement b = true) : b.poster = .agu := by
  cases b with
  | peerState | syncState => rfl
  | peer which =>
    cases which with
    | peersFull => rfl
    | _ => cases kind
  | _ => cases kind

/-- SYNC_STATE is posted on a change, and nothing else (R54). -/
theorem updateSync_posts :
    Claims.posts Claims.isAgreement w (w.updateSync began fresh correction)
        (Claims.noticesAt w.micros
          (if (w.syncAfter began fresh correction).1 = began then []
          else [.syncState began (w.syncAfter began fresh correction).1]))
      ∧ Claims.posts (fun body => !Claims.isAgreement body) w (w.updateSync began fresh correction) []
      ∧ w.lpu.notices.length ≤ (w.updateSync began fresh correction).lpu.notices.length := by
  by_cases same : (w.syncAfter began fresh correction).1 = began
  · rw [updateSync_same same, if_pos same]
    exact ⟨fun _ => (List.append_nil _).symm, fun _ => (List.append_nil _).symm, le_rfl⟩
  · rw [updateSync_changed same, if_neg same]
    have joins := post_posts isAgreement_poster (.syncState began (w.syncAfter began fresh correction).1)
      (w.synced began fresh correction)
    have others := post_posts_none (kinds := fun body => !Claims.isAgreement body)
      (body := .syncState began (w.syncAfter began fresh correction).1) rfl (w.synced began fresh correction)
    exact ⟨joins, others,
      (post_length _ (w.synced began fresh correction)).1⟩

end UpdateSync

/-! ## The BEAT of a round (R59, R62, R72) -/

/-- The BEAT that a round builds. -/
def State.nextBeat (boundary : Micros) (fresh : Nat) (u : State) : Beat :=
  { interval := u.stc.config.beatMs, sync := u.agu.sync, fresh := fresh, sequence := u.agu.sequence + 1
    stale := laterBy boundary (u.stc.config.beatMs * 500) }

theorem placeBeat_enters {b : Beat} {s : State} (waits : ∀ x, s.sq.beat = some x → x.inFlight = false) :
    s.placeBeat b = s.setSq
      { s.sq with
        beat := some { beat := b, inFlight := false, superseded := false, errors := 0, order := s.sq.nextOrder }
        nextOrder := s.sq.nextOrder + 1 } := by
  unfold State.placeBeat
  cases held : s.sq.beat with
  | none => rfl
  | some x => exact if_neg (by simp [waits x held])

theorem placeBeat_supersedes {b : Beat} {x : BeatRecord} {s : State} (held : s.sq.beat = some x)
    (flies : x.inFlight = true) :
    s.placeBeat b =
      (s.setSq { s.sq with beat := some { x with superseded := true } }).setAgu { s.agu with pendingBeat := some b } := by
  unfold State.placeBeat
  dsimp only
  rw [held]
  exact if_pos flies

section BuildBeat

variable {boundary : Micros} {change : Int} {fresh : Nat} {u : State}

/-- A forward step of half a beat interval or more leaves none to build. -/
theorem buildBeat_none (far : ((u.stc.config.beatMs * 500 : Nat) : Int) ≤ change) :
    u.buildBeat boundary change fresh = u := if_pos (by omega)

theorem buildBeat_placed (near : change < (u.stc.config.beatMs * 500 : Nat)) :
    u.buildBeat boundary change fresh =
      (u.setAgu { u.agu with sequence := u.agu.sequence + 1 }).placeBeat (u.nextBeat boundary fresh) :=
  if_neg (by omega)

end BuildBeat

theorem buildBeat_agu (boundary : Micros) (change : Int) (fresh : Nat) (u : State) :
    (u.buildBeat boundary change fresh).agu =
      { u.agu with
        sequence := (u.buildBeat boundary change fresh).agu.sequence
        pendingBeat := (u.buildBeat boundary change fresh).agu.pendingBeat } := by
  obtain far | near := le_or_gt ((u.stc.config.beatMs * 500 : Nat) : Int) change
  · rw [buildBeat_none far]
  · rw [buildBeat_placed near, (placeBeat_touches _ _).agu_eq_but (by decide)]
    rfl

/-! ## What the end of a round leaves -/

section FinishRound

variable (boundary next : Micros) (change : Int) (began : SyncState) (fresh : Nat) (correction : Int) (w : State)

theorem finishRound_touches :
    Touches [.agu, .pendingBeat, .sq, .iku, .clu, .notices, .posted] w
      (w.finishRound boundary next change began fresh correction) :=
  (((((updateSync_touches began fresh correction w).mono (by decide)).trans ((setAgu_touches _ _).mono (by decide))).trans
    ((buildBeat_touches boundary change fresh _).mono (by decide))).trans ((setAgu_touches _ _).mono (by decide))).trans
    ((setIku_touches _ _).mono (by decide))

/-- The state in which a round builds its BEAT. -/
def State.flagsCleared : State := (w.updateSync began fresh correction).setAgu (w.synced began fresh correction).agu.cleared

theorem finishRound_eq :
    w.finishRound boundary next change began fresh correction =
      let built := (w.flagsCleared began fresh correction).buildBeat boundary change fresh
      (built.setAgu { built.agu with boundary := some next }).setIku { built.iku with noticed := false } := by
  rw [State.finishRound, updateSync_agu]
  rfl

theorem finishRound_agu :
    let t := w.finishRound boundary next change began fresh correction
    t.agu =
      { (w.synced began fresh correction).agu.cleared with
        sequence := t.agu.sequence, pendingBeat := t.agu.pendingBeat, boundary := some next } := by
  rw [finishRound_eq]
  dsimp only [setIku_agu, setAgu_agu]
  rw [buildBeat_agu]
  rfl

theorem finishRound_iku : (w.finishRound boundary next change began fresh correction).iku = { w.iku with noticed := false } := by
  have kept := ((updateSync_touches began fresh correction w).iku (by decide))
  rw [finishRound_eq]
  dsimp only [setIku_iku]
  rw [(buildBeat_touches boundary change fresh _).iku (by decide), State.flagsCleared, setAgu_iku, kept]

theorem finishRound_clu :
    (w.finishRound boundary next change began fresh correction).clu =
      (if (w.syncAfter began fresh correction).1 = began then w
        else w.tellClu (w.syncAfter began fresh correction).1).clu := by
  rw [finishRound_eq]
  dsimp only [setIku_clu, setAgu_clu]
  rw [(buildBeat_touches boundary change fresh _).clu (by decide)]
  exact updateSync_clu began fresh correction w

theorem finishRound_notices :
    (w.finishRound boundary next change began fresh correction).lpu.notices =
      (w.updateSync began fresh correction).lpu.notices := by
  rw [finishRound_eq]
  exact ((buildBeat_touches boundary change fresh _).notices (by decide)).1

end FinishRound

end Sys2Proof.Machine
end

section
/-! SUPPORT. SYNC_ROUND at its boundary (O47): the round from bus time run on, through its step, to its end. -/

namespace Sys2Proof.Machine

/-! ## The correction written -/

section Corrected

variable (fresh : Nat) (slew trim residue : Int) (v : State)

@[simp] theorem corrected_stc : (v.corrected fresh slew trim residue).stc = v.stc := rfl
@[simp] theorem corrected_btu : (v.corrected fresh slew trim residue).btu = { v.btu with slew := slew, trim := trim } := rfl
@[simp] theorem corrected_agu :
    (v.corrected fresh slew trim residue).agu = { v.agu with fresh := fresh, residue := residue } := rfl
@[simp] theorem corrected_sq : (v.corrected fresh slew trim residue).sq = v.sq := rfl
@[simp] theorem corrected_iku : (v.corrected fresh slew trim residue).iku = v.iku := rfl
@[simp] theorem corrected_clu : (v.corrected fresh slew trim residue).clu = v.clu := rfl
@[simp] theorem corrected_lpu : (v.corrected fresh slew trim residue).lpu = v.lpu := rfl

theorem corrected_touches : Touches [.btu, .agu, .pendingBeat] v (v.corrected fresh slew trim residue) :=
  ((setBtu_touches _ _).mono (by decide)).trans ((setAgu_touches _ _).mono (by decide))

end Corrected

/-! ## The stages of a round -/

section Stages

variable (b : Micros) (s : State)

/-- Bus time run on to the boundary, and the table aged. -/
def State.atBoundary : State := (s.runTo b).agePeers

/-- The offsets that enter the round. -/
def State.roundOffsets : List Int := (s.atBoundary b).offsets Peer.roundOffset

/-- The correction of the round. -/
def State.roundCorrection : Int := midpoint (0 :: s.roundOffsets b)

/-- The round as its step leaves it, where it steps. -/
def State.afterStep : State := (s.atBoundary b).roundStep s.agu.sync (s.roundCorrection b)

/-- The µs change of the round's step, 0 without one. -/
def State.roundChange : Int :=
  if stepsBy s.stc.config s.agu.sync (s.roundCorrection b) then
    microsChange (s.btu.runTo b).time (s.roundCorrection b)
  else 0

/-- The sync state and the good rounds that the round leaves. -/
def State.roundSync : SyncState × Nat :=
  syncAfterRound s.stc.config s.agu.sync s.agu.good (s.roundOffsets b).length (s.roundCorrection b)

/-- The round complete, with the slew, trim and residue that its correction leaves. -/
def State.roundEnd (slew trim residue : Int) : State :=
  ((s.afterStep b).corrected (s.roundOffsets b).length slew trim residue).finishRound b
    (nextBoundary s.beatMicros b (s.roundChange b)) (s.roundChange b) s.agu.sync (s.roundOffsets b).length
    (s.roundCorrection b)

/-! ## Up to the boundary -/

theorem atBoundary_touches :
    Touches [.timing, .stamp, .holdOff, .fcu, .btu, .agu, .clu, .notices, .spent, .posted] s (s.atBoundary b) :=
  ((runTo_touches b s).mono (by decide)).trans ((agePeers_touches _).mono (by decide))

theorem atBoundary_btu : (s.atBoundary b).btu = s.btu.runTo b :=
  ((agePeers_touches (s.runTo b)).btu (by decide)).trans (runTo_btu b s)

theorem atBoundary_agu : (s.atBoundary b).agu = { s.agu with peers := (s.atBoundary b).agu.peers } := by
  have agu : (s.runTo b).agu = s.agu := (runTo_touches b s).agu_eq (by decide)
  rw [State.atBoundary, agePeers_eq, agu]
  rfl

theorem agingNotices_agreement : ∀ body ∈ Claims.agingNotices s, Claims.isAgreement body = true := by
  intro body m
  obtain ⟨i, -, at_i⟩ := List.mem_flatMap.mp m
  split at at_i
  · cases at_i
  · obtain falls | goes := List.mem_append.mp at_i
    · split at falls
      · rw [List.mem_singleton.mp falls]
        rfl
      · cases falls
    · split at goes
      · rw [List.mem_singleton.mp goes]
        rfl
      · cases goes

/-- Up to the boundary the AGU posts the notices of the ageing. -/
theorem atBoundary_posts (rates : s.RatesOk) :
    Claims.posts Claims.isAgreement s (s.atBoundary b) (Claims.noticesAt b (Claims.agingNotices s)) := by
  have agu : (s.runTo b).agu = s.agu := (runTo_touches b s).agu_eq (by decide)
  have notices : Claims.agingNotices (s.runTo b) = Claims.agingNotices s := by
    unfold Claims.agingNotices
    rw [agu]
  have same : (s.atBoundary b).lpu = ((s.runTo b).postAll (Claims.agingNotices s)).lpu := by
    rw [State.atBoundary, agePeers_eq, setAgu_lpu, notices]
  obtain ⟨posts, more⟩ := postAll_posts isAgreement_poster (agingNotices_agreement s) (s.runTo b)
  rw [runTo_micros rates.ratesFit] at posts
  refine onlyPosts_posts isAgreement_poster (runTo_onlyPosts b s) (by rw [same]; exact more) ?_
  unfold Claims.posts at posts ⊢
  rwa [same]

/-! ## The step -/

theorem afterStep_of_steps (steps : stepsBy s.stc.config s.agu.sync (s.roundCorrection b) = true) :
    s.afterStep b = (s.atBoundary b).stepTime (s.roundCorrection b) := by
  obtain ⟨-, -, config⟩ := (atBoundary_touches b s).stc (by decide)
  rw [State.afterStep, State.roundStep, config, if_pos steps]

theorem afterStep_of_not_steps (stays : ¬stepsBy s.stc.config s.agu.sync (s.roundCorrection b) = true) :
    s.afterStep b = s.atBoundary b := by
  obtain ⟨-, -, config⟩ := (atBoundary_touches b s).stc (by decide)
  rw [State.afterStep, State.roundStep, config, if_neg stays]

theorem afterStep_touches :
    Touches
      [.window, .stamp, .holdOff, .fcu, .btu, .pendingBeat, .sq, .csu, .clu, .mku, .notices, .posted, .spent, .draws]
      (s.atBoundary b) (s.afterStep b) := by
  unfold State.afterStep State.roundStep
  split
  · exact stepTime_touches_stamp _ _
  · exact .refl _ _

theorem afterStep_onlyPosts : OnlyPosts [.csu, .sq, .fcu] (s.atBoundary b) (s.afterStep b) := by
  unfold State.afterStep State.roundStep
  split
  · exact stepTime_onlyPosts _ _
  · exact .refl _ _

theorem afterStep_agu :
    (s.afterStep b).agu =
      { s.agu with peers := (s.atBoundary b).agu.peers, pendingBeat := (s.afterStep b).agu.pendingBeat } := by
  rw [(afterStep_touches b s).agu_eq_but (by decide), atBoundary_agu]

theorem afterStep_reactions : (s.afterStep b).mku.reactions = s.mku.reactions := by
  have mku := (atBoundary_touches b s).mku (by decide)
  unfold State.afterStep State.roundStep
  split
  · obtain ⟨-, -, -, -, reactions⟩ := stepTime_btu (s.roundCorrection b) (s.atBoundary b)
    rw [reactions, mku]
  · rw [mku]

/-! ## The end -/

variable (slew trim residue : Int)

theorem roundEnd_touches :
    Touches [.btu, .agu, .pendingBeat, .sq, .iku, .clu, .notices, .posted] (s.afterStep b)
      (s.roundEnd b slew trim residue) :=
  ((corrected_touches _ _ _ _ _).mono (by decide)).trans ((finishRound_touches _ _ _ _ _ _ _).mono (by decide))

theorem roundEnd_btu :
    (s.roundEnd b slew trim residue).btu = { (s.afterStep b).btu with slew := slew, trim := trim } := by
  rw [State.roundEnd, (finishRound_touches _ _ _ _ _ _ _).btu (by decide), corrected_btu]

/-- What the round's correction leaves of the state before it. -/
theorem corrected_syncAfter :
    State.syncAfter s.agu.sync (s.roundOffsets b).length (s.roundCorrection b)
      ((s.afterStep b).corrected (s.roundOffsets b).length slew trim residue) = s.roundSync b := by
  obtain ⟨-, -, config⟩ := (atBoundary_touches b s).stc (by decide)
  obtain ⟨-, -, config'⟩ := (afterStep_touches b s).stc (by decide)
  have good : (s.afterStep b).agu.good = s.agu.good := by rw [afterStep_agu]
  rw [State.syncAfter, corrected_stc, corrected_agu, config', config, good, State.roundSync]

theorem roundEnd_agu :
    let t := s.roundEnd b slew trim residue
    t.agu =
      { s.agu with
        peers := (s.atBoundary b).agu.cleared.peers, fullNotice := false
        sync := (s.roundSync b).1, good := (s.roundSync b).2, fresh := (s.roundOffsets b).length, residue := residue
        boundary := some (nextBoundary s.beatMicros b (s.roundChange b))
        sequence := t.agu.sequence, pendingBeat := t.agu.pendingBeat } := by
  intro t
  have ended : t.agu =
      { (State.synced s.agu.sync (s.roundOffsets b).length (s.roundCorrection b)
          ((s.afterStep b).corrected (s.roundOffsets b).length slew trim residue)).agu.cleared with
        sequence := t.agu.sequence, pendingBeat := t.agu.pendingBeat
        boundary := some (nextBoundary s.beatMicros b (s.roundChange b)) } := finishRound_agu _ _ _ _ _ _ _
  clear_value t
  rw [State.synced, corrected_syncAfter, setAgu_agu, corrected_agu, afterStep_agu] at ended
  dsimp only [AguState.cleared] at ended ⊢
  exact ended

theorem roundEnd_iku : (s.roundEnd b slew trim residue).iku = { s.iku with noticed := false } := by
  rw [State.roundEnd, finishRound_iku, corrected_iku, (afterStep_touches b s).iku (by decide),
    (atBoundary_touches b s).iku (by decide)]

theorem roundEnd_clu :
    (s.roundEnd b slew trim residue).clu =
      (if (s.roundSync b).1 = s.agu.sync then s.afterStep b else (s.afterStep b).tellClu (s.roundSync b).1).clu := by
  rw [State.roundEnd, finishRound_clu, corrected_syncAfter]
  split <;> rfl

theorem roundEnd_micros : (s.roundEnd b slew trim residue).micros = (s.afterStep b).micros := by
  rw [State.micros, roundEnd_btu, State.micros]

/-- At the end of a round the AGU posts SYNC_STATE on a change, and no other block posts. -/
theorem roundEnd_posts :
    let t := s.roundEnd b slew trim residue
    Claims.posts Claims.isAgreement (s.afterStep b) t
        (Claims.noticesAt t.micros
          (if (s.roundSync b).1 = s.agu.sync then [] else [.syncState s.agu.sync (s.roundSync b).1]))
      ∧ Claims.posts (fun body => !Claims.isAgreement body) (s.afterStep b) t []
      ∧ (s.afterStep b).lpu.notices.length ≤ t.lpu.notices.length := by
  intro t
  have told := updateSync_posts s.agu.sync (s.roundOffsets b).length (s.roundCorrection b)
    ((s.afterStep b).corrected (s.roundOffsets b).length slew trim residue)
  have same : t.lpu.notices = _ := finishRound_notices _ _ _ _ _ _ _
  have now : t.micros = (s.afterStep b).micros := roundEnd_micros b s slew trim residue
  rw [corrected_syncAfter] at told
  unfold Claims.posts at told ⊢
  rw [same, now]
  exact told

end Stages

/-! ## SYNC_ROUND (R55) -/

theorem syncRound_eq {b : Micros} {s : State} (joined : s.stc.station = .joined) (held : s.agu.boundary = some b)
    (next : Claims.expiresNext b s) :
    ∃ slew trim residue, CorrectionOf (s.atBoundary b) s.agu.sync (s.roundCorrection b) slew trim residue
      ∧ exec .syncRound s = .next (s.roundEnd b slew trim residue) := by
  obtain ⟨none, ahead, first⟩ := next
  have passed := runTo_touches b s
  have agu : (s.runTo b).agu = s.agu := passed.agu_eq (by decide)
  obtain ⟨station, -, config⟩ := passed.stc (by decide)
  obtain ⟨slew, trim, residue, rates, round⟩ := roundAt_eq b (s.runTo b)
  have stored : s.roundTime = some b := by rw [State.roundTime, if_pos joined, held]
  have taken : (s.runTo b).syncRound = (s.runTo b).roundAt b := by
    unfold State.syncRound
    rw [station, joined, agu, held]
  rw [agu] at rates
  refine ⟨slew, trim, residue, rates, congrArg Host.Outcome.next ((expire_taken none stored ahead first).trans ?_)⟩
  rw [taken, round, agu, config, State.beatMicros, config, runTo_btu]
  rfl

end Sys2Proof.Machine
end

section
/-! SUPPORT. The correction that SYNC_ROUND applies, and its BEAT (O47). -/

namespace Sys2Proof.Machine

/-! ## The rate and the boundary that a round leaves (R58, R60) -/

section Rates

variable {b : Micros} {s : State} {slew trim residue : Int}

theorem roundEnd_rates (b : Micros) (s : State) (slew trim residue : Int) :
    let t := s.roundEnd b slew trim residue
    t.btu.time = (s.afterStep b).btu.time ∧ t.btu.slew = slew ∧ t.btu.trim = trim ∧ t.agu.residue = residue
      ∧ t.agu.boundary = some (nextBoundary s.beatMicros b (s.roundChange b)) := by
  intro t
  have btu : t.btu = _ := roundEnd_btu b s slew trim residue
  have agu := roundEnd_agu b s slew trim residue
  refine ⟨by rw [btu], by rw [btu], by rw [btu], by rw [agu], by rw [agu]⟩

theorem roundEnd_of_steps (steps : stepsBy s.stc.config s.agu.sync (s.roundCorrection b) = true)
    (correction : CorrectionOf (s.atBoundary b) s.agu.sync (s.roundCorrection b) slew trim residue) :
    let t := s.roundEnd b slew trim residue
    t.btu.time = (s.runTo b).btu.time + BitVec.ofInt 36 (s.roundCorrection b) ∧ t.btu.slew = 0
      ∧ t.btu.trim = s.btu.trim ∧ t.agu.residue = s.agu.residue
      ∧ t.agu.boundary = some (nextMultiple s.beatMicros
        (b + BitVec.ofInt 32 (max 0 (microsChange (s.runTo b).btu.time (s.roundCorrection b))))) := by
  intro t
  obtain ⟨-, -, config⟩ := (atBoundary_touches b s).stc (by decide)
  obtain ⟨kept, -⟩ := runTo_keeps b s.btu
  obtain ⟨time, -⟩ := stepTime_btu (s.roundCorrection b) (s.atBoundary b)
  obtain ⟨time', slew', trim', residue', boundary⟩ := roundEnd_rates b s slew trim residue
  obtain ⟨stopped, trimmed, left⟩ := correction.1 (by rw [config]; exact steps)
  rw [afterStep_of_steps b s steps, time, atBoundary_btu] at time'
  rw [State.roundChange, if_pos steps, nextBoundary, movedBy] at boundary
  refine ⟨time'.trans (by rw [runTo_btu]), slew'.trans stopped, trim'.trans ?_, residue'.trans ?_,
    boundary.trans (by rw [runTo_btu])⟩
  · rw [trimmed, atBoundary_btu, kept]
  · rw [left, atBoundary_agu]

theorem roundEnd_of_not_steps (stays : ¬stepsBy s.stc.config s.agu.sync (s.roundCorrection b) = true)
    (correction : CorrectionOf (s.atBoundary b) s.agu.sync (s.roundCorrection b) slew trim residue) :
    let t := s.roundEnd b slew trim residue
    t.btu.time = (s.runTo b).btu.time ∧ t.btu.slew = slewFor s.beatMicros (s.roundCorrection b)
      ∧ (t.btu.trim, t.agu.residue) = trimAfter s.btu.trim s.agu.residue t.btu.slew
      ∧ t.agu.boundary = some (nextMultiple s.beatMicros b) := by
  intro t
  obtain ⟨-, -, config⟩ := (atBoundary_touches b s).stc (by decide)
  obtain ⟨kept, -⟩ := runTo_keeps b s.btu
  obtain ⟨time', slew', trim', residue', boundary⟩ := roundEnd_rates b s slew trim residue
  have still : BitVec.ofInt 32 0 = 0#32 := rfl
  obtain ⟨slewed, trimmed⟩ := correction.2 (by rw [config]; exact stays)
  rw [afterStep_of_not_steps b s stays, atBoundary_btu] at time'
  rw [State.roundChange, if_neg stays, nextBoundary, movedBy, max_self, still, BitVec.add_zero] at boundary
  rw [State.beatMicros, config] at slewed
  rw [atBoundary_btu, kept, atBoundary_agu] at trimmed
  refine ⟨time'.trans (by rw [runTo_btu]), slew'.trans slewed, ?_, boundary⟩
  rw [trim', residue', slew', trimmed]

end Rates

theorem afterStep_eq (b : Micros) (s : State) :
    s.afterStep b =
      if s.agu.sync = .seeking ∧ 16 * s.stc.config.threshold < (s.roundCorrection b).natAbs then
        (s.atBoundary b).stepTime (s.roundCorrection b)
      else s.atBoundary b := by
  simp only [← stepsBy_iff]
  split
  · next steps => exact afterStep_of_steps b s steps
  · next stays => exact afterStep_of_not_steps b s stays

theorem syncRoundAppliesCorrection : Claims.SyncRoundAppliesCorrection := by
  intro b s joined held next rates r offsets c steps v after
  obtain ⟨slew, trim, residue, correction, ran⟩ := syncRound_eq joined held next
  have stage : v = s.afterStep b := (afterStep_eq b s).symm
  have entered : offsets.length = (s.roundOffsets b).length := rfl
  have synced : after = s.roundSync b := rfl
  have aged : r = s.atBoundary b := rfl
  have decided : steps ↔ stepsBy s.stc.config s.agu.sync (s.roundCorrection b) = true := (stepsBy_iff _ _ _).symm
  have onStep := fun is : steps => roundEnd_of_steps (decided.mp is) correction
  have onSlew := fun is : ¬steps => roundEnd_of_not_steps (mt decided.mpr is) correction
  have toBoundary := atBoundary_touches b s
  have toStep := afterStep_touches b s
  have toEnd := roundEnd_touches b s slew trim residue
  have agu := roundEnd_agu b s slew trim residue
  have iku := roundEnd_iku b s slew trim residue
  have clu := roundEnd_clu b s slew trim residue
  obtain ⟨told, others, more⟩ := roundEnd_posts b s slew trim residue
  have before := posts_of_onlyPosts isAgreement_poster (atBoundary_posts b s rates) (afterStep_onlyPosts b s)
  have whole : Touches
      [.window, .timing, .stamp, .holdOff, .fcu, .btu, .agu, .pendingBeat, .sq, .iku, .csu, .clu, .mku, .notices, .posted,
        .spent, .draws] s (s.roundEnd b slew trim residue) :=
    ((toBoundary.mono (by decide)).trans (toStep.mono (by decide))).trans (toEnd.mono (by decide))
  obtain ⟨transaction, reply, truncated⟩ := whole.port (by decide)
  obtain ⟨station, -, config⟩ := whole.stc (by decide)
  have mku : (s.roundEnd b slew trim residue).mku = (s.afterStep b).mku := toEnd.mku (by decide)
  have peers : (s.roundEnd b slew trim residue).agu.peers = (s.atBoundary b).agu.cleared.peers := by rw [agu]
  refine ⟨s.roundEnd b slew trim residue, ran, ?_, ?_, ?_, fun i => ?_, posts_trans more before told, ?_,
    lpu_eq_of_port transaction reply truncated, ?_, ?_, ?_, ?_, ?_, ?_, ?_, ?_, onStep, onSlew, ?_, iku,
    station.trans joined, config, ?_, ?_, whole.pending (by decide)⟩
  · rw [agu, entered]
  · rw [agu, synced]
  · rw [agu, synced]
  · rw [peers, aged]
    exact cleared_peers (s.atBoundary b).agu i
  · rw [stage]
    exact others
  · rw [clu, stage, synced]
  · rw [stage, toEnd.csu (by decide)]
  · rw [stage, mku]
  · rw [stage, toEnd.fcu (by decide)]
  · rw [stage, toEnd.liu_eq (by decide)]
  · rw [stage, toEnd.stc_eq (by decide)]
  · rw [stage, toEnd.spent (by decide)]
  · rw [stage, toEnd.draws (by decide)]
  · rw [agu]
  · rw [iku]
  · rw [mku, afterStep_reactions]

end Sys2Proof.Machine
end

section
/-! SUPPORT. The BEAT that SYNC_ROUND places, behind the step of the round (O47). -/

namespace Sys2Proof.Machine

/-! ## The send queue behind a round's step (R80) -/

/-- What a step leaves of the send queue turns on the queue and on bus time. -/
theorem sqAfterStep_congr {s t : State} (sq : t.sq = s.sq) (btu : t.btu = s.btu) (amount : Int) :
    Claims.sqAfterStep amount t = Claims.sqAfterStep amount s := by
  have micros : t.micros = s.micros := by rw [State.micros, btu, State.micros]
  have stale : Claims.staleAfterStep amount t = Claims.staleAfterStep amount s := by
    funext time
    rw [Claims.staleAfterStep, Claims.staleAfterStep, micros, btu]
  have leaves : Claims.leavesAtStep amount t = Claims.leavesAtStep amount s := by
    funext r
    rw [Claims.leavesAtStep, Claims.leavesAtStep, stale]
  unfold Claims.sqAfterStep Claims.allLeft
  simp only [setSq_sq, sq, stale, leaves]

section QueueBehindStep

variable {b : Micros} {s : State}

theorem atBoundary_queueOk (ok : s.QueueOk) : (s.atBoundary b).QueueOk :=
  (atBoundary_touches b s).queueOk (by decide) ok

theorem afterStep_queueOk (ok : s.QueueOk) : (s.afterStep b).QueueOk := by
  rw [afterStep_eq]
  split
  · exact stepTime_queueOk _ (atBoundary_queueOk ok)
  · exact atBoundary_queueOk ok

theorem afterStep_sq (ok : s.QueueOk) :
    (s.afterStep b).sq =
      if s.agu.sync = .seeking ∧ 16 * s.stc.config.threshold < (s.roundCorrection b).natAbs then
        Claims.sqAfterStep (s.roundCorrection b) (s.runTo b)
      else s.sq := by
  have sq : (s.atBoundary b).sq = s.sq := (atBoundary_touches b s).sq (by decide)
  rw [afterStep_eq]
  split
  · next steps =>
    have moves : s.roundCorrection b ≠ 0 := fun zero => absurd (zero ▸ steps.2) (Nat.not_lt_zero _)
    obtain ⟨left, -, -⟩ := stepTime_sq moves (atBoundary_queueOk (b := b) ok)
    rw [left]
    exact sqAfterStep_congr (sq.trans ((runTo_touches b s).sq (by decide)).symm)
      ((atBoundary_btu b s).trans (runTo_btu b s).symm) _
  · exact sq

theorem afterStep_pendingBeat (ok : s.QueueOk) : (s.afterStep b).agu.pendingBeat = s.agu.pendingBeat := by
  have pending : (s.atBoundary b).agu.pendingBeat = s.agu.pendingBeat := by rw [atBoundary_agu]
  rw [afterStep_eq]
  split
  · next steps =>
    have moves : s.roundCorrection b ≠ 0 := fun zero => absurd (zero ▸ steps.2) (Nat.not_lt_zero _)
    obtain ⟨-, -, kept⟩ := stepTime_sq moves (atBoundary_queueOk (b := b) ok)
    exact kept.trans pending
  · exact pending

end QueueBehindStep

/-- No BEAT is pending behind an empty beat slot or a WAITING BEAT (R62, R72). -/
theorem pendingBeat_of_waits {s : State} (ok : s.QueueOk) (waits : ∀ x, s.sq.beat = some x → x.inFlight = false) :
    s.agu.pendingBeat = none := by
  obtain ⟨-, -, -, behind, -⟩ := ok
  by_contra pending
  obtain ⟨x, held, flies, -⟩ := behind (Option.isSome_iff_ne_none.mpr pending)
  exact absurd flies (by simp [waits x held])

/-! ## The state a round builds its BEAT in, and the round complete -/

section RoundBeat

variable (b : Micros) (s : State) (slew trim residue : Int)

/-- The round with its flags cleared, about to build its BEAT. -/
def State.beforeBeat : State :=
  ((s.afterStep b).corrected (s.roundOffsets b).length slew trim residue).flagsCleared s.agu.sync
    (s.roundOffsets b).length (s.roundCorrection b)

theorem beforeBeat_sq : (s.beforeBeat b slew trim residue).sq = (s.afterStep b).sq := by
  rw [State.beforeBeat, State.flagsCleared, setAgu_sq, (updateSync_touches _ _ _ _).sq (by decide), corrected_sq]

theorem beforeBeat_config : (s.beforeBeat b slew trim residue).stc.config = s.stc.config := by
  obtain ⟨-, -, config⟩ := (atBoundary_touches b s).stc (by decide)
  obtain ⟨-, -, config'⟩ := (afterStep_touches b s).stc (by decide)
  obtain ⟨-, -, config''⟩ := (updateSync_touches s.agu.sync (s.roundOffsets b).length (s.roundCorrection b)
    ((s.afterStep b).corrected (s.roundOffsets b).length slew trim residue)).stc (by decide)
  rw [State.beforeBeat, State.flagsCleared, setAgu_stc, config'', corrected_stc, config', config]

theorem beforeBeat_agu :
    let u := s.beforeBeat b slew trim residue
    u.agu.sync = (s.roundSync b).1 ∧ u.agu.sequence = s.agu.sequence
      ∧ u.agu.pendingBeat = (s.afterStep b).agu.pendingBeat := by
  intro u
  have agu : u.agu = (State.synced s.agu.sync (s.roundOffsets b).length (s.roundCorrection b)
      ((s.afterStep b).corrected (s.roundOffsets b).length slew trim residue)).agu.cleared := rfl
  have sequence : (s.afterStep b).agu.sequence = s.agu.sequence := by rw [afterStep_agu]
  rw [State.synced, corrected_syncAfter, setAgu_agu, corrected_agu, AguState.cleared] at agu
  exact ⟨by rw [agu], by rw [agu, ← sequence], by rw [agu]⟩

/-- What a round leaves of queue and AGU where it builds its BEAT is what building it leaves. -/
theorem roundEnd_built :
    let t := s.roundEnd b slew trim residue
    let built := (s.beforeBeat b slew trim residue).buildBeat b (s.roundChange b) (s.roundOffsets b).length
    t.sq = built.sq ∧ t.agu.sequence = built.agu.sequence ∧ t.agu.pendingBeat = built.agu.pendingBeat := by
  dsimp only
  rw [State.roundEnd, State.beforeBeat, finishRound_eq]
  dsimp only
  generalize State.buildBeat _ _ _ _ = built
  exact ⟨rfl, rfl, rfl⟩

/-- The BEAT of a round carries the sync state and the fresh count that the round leaves (R59). -/
theorem beforeBeat_nextBeat :
    let t := s.roundEnd b slew trim residue
    (s.beforeBeat b slew trim residue).nextBeat b (s.roundOffsets b).length =
      { interval := s.stc.config.beatMs, sync := t.agu.sync, fresh := t.agu.fresh, sequence := s.agu.sequence + 1
        stale := b + BitVec.ofNat 32 (s.stc.config.beatMs * 500) } := by
  intro t
  obtain ⟨sync, sequence, -⟩ := beforeBeat_agu b s slew trim residue
  have agu := roundEnd_agu b s slew trim residue
  have sync' : t.agu.sync = (s.roundSync b).1 := by rw [agu]
  have fresh : t.agu.fresh = (s.roundOffsets b).length := by rw [agu]
  rw [State.nextBeat, beforeBeat_config, sync, sequence, sync', fresh, laterBy]

variable {b s slew trim residue}

/-- A round that a step carries half an interval on or more builds no BEAT (R59). -/
theorem roundEnd_of_far (far : ((s.stc.config.beatMs * 500 : Nat) : Int) ≤ s.roundChange b) :
    let t := s.roundEnd b slew trim residue
    t.agu.sequence = s.agu.sequence ∧ t.sq = (s.afterStep b).sq
      ∧ t.agu.pendingBeat = (s.afterStep b).agu.pendingBeat := by
  obtain ⟨sq, sequence, pending⟩ := roundEnd_built b s slew trim residue
  obtain ⟨-, sequence', pending'⟩ := beforeBeat_agu b s slew trim residue
  rw [buildBeat_none (by rwa [beforeBeat_config])] at sq sequence pending
  exact ⟨sequence.trans sequence', sq.trans (beforeBeat_sq b s slew trim residue), pending.trans pending'⟩

/-- Any other round places one, one sequence on (R59, R62). -/
theorem roundEnd_of_near (near : s.roundChange b < (s.stc.config.beatMs * 500 : Nat)) :
    let t := s.roundEnd b slew trim residue
    let u := s.beforeBeat b slew trim residue
    let placed := (u.setAgu { u.agu with sequence := s.agu.sequence + 1 }).placeBeat
      (u.nextBeat b (s.roundOffsets b).length)
    t.sq = placed.sq ∧ t.agu.sequence = s.agu.sequence + 1 ∧ t.agu.pendingBeat = placed.agu.pendingBeat := by
  intro t u placed
  obtain ⟨-, sequence', -⟩ := beforeBeat_agu b s slew trim residue
  have built : u.buildBeat b (s.roundChange b) (s.roundOffsets b).length = placed := by
    rw [buildBeat_placed (by rwa [beforeBeat_config]), sequence']
  obtain ⟨sq, sequence, pending⟩ := roundEnd_built b s slew trim residue
  rw [built] at sq sequence pending
  have counted := (placeBeat_touches (u.nextBeat b (s.roundOffsets b).length)
    (u.setAgu { u.agu with sequence := s.agu.sequence + 1 })).agu_eq_but (by decide)
  exact ⟨sq, sequence.trans (by rw [counted, setAgu_agu]), pending⟩

end RoundBeat

theorem syncRoundPlacesBeat : Claims.SyncRoundPlacesBeat := by
  intro b s joined held next ok r c steps change q half
  obtain ⟨slew, trim, residue, -, ran⟩ := syncRound_eq joined held next
  have moved : change = s.roundChange b := by
    rw [State.roundChange, ← runTo_btu]
    simp only [stepsBy_iff]
    rfl
  have queue : (s.afterStep b).sq = q := afterStep_sq ok
  have sq := (beforeBeat_sq b s slew trim residue).trans queue
  have beat := beforeBeat_nextBeat b s slew trim residue
  have pending := afterStep_pendingBeat (b := b) ok
  obtain ⟨-, -, pending'⟩ := beforeBeat_agu b s slew trim residue
  refine ⟨s.roundEnd b slew trim residue, ran, fun far => ?_, fun near => ?_⟩
  · obtain ⟨sequence, left, waits⟩ := roundEnd_of_far (slew := slew) (trim := trim) (residue := residue) (moved ▸ far)
    exact ⟨sequence, left.trans queue, waits.trans pending⟩
  · obtain ⟨left, sequence, waits⟩ := roundEnd_of_near (slew := slew) (trim := trim) (residue := residue) (moved ▸ near)
    refine ⟨sequence, fun idle => ?_, fun x holds flies => ?_⟩
    · have none := pendingBeat_of_waits (afterStep_queueOk (b := b) ok) (by rw [queue]; exact idle)
      rw [placeBeat_enters (by rw [setAgu_sq, sq]; exact idle)] at left waits
      rw [setSq_sq, setAgu_sq, sq, beat] at left
      rw [setSq_agu, setAgu_agu] at waits
      dsimp only at waits
      exact ⟨left, waits.trans (pending'.trans none)⟩
    · rw [placeBeat_supersedes (x := x) (by rw [setAgu_sq, sq]; exact holds) flies] at left waits
      rw [setAgu_sq, setSq_sq, setAgu_sq, sq] at left
      rw [setAgu_agu, beat] at waits
      exact ⟨left, waits⟩

/-- Settles O47: the round ran to its boundary, aged, stepped, corrected and ended, stage by stage. -/
theorem syncRoundCorrectsAndPlacesBeat : Obligations.SyncRoundCorrectsAndPlacesBeat :=
  ⟨syncRoundAppliesCorrection, syncRoundPlacesBeat⟩

end Sys2Proof.Machine
end

section
/-! SUPPORT. POST_CUE, POST_RECALL and WITHDRAW (O13, O14, O16, O17, O19): the ranges of their fields, the checks in their order, and what a command that passes them makes of the send queue. -/

namespace Sys2Proof.Machine

/-! ## Fields of a post (R69, R101) -/

/-- A field of a post out of its range: the cue number, the action's code, the width of a PULSE or the period of a repeat. -/
def OutOfRange (a : CueArgs) : Prop :=
  3967 < a.cue.toNat ∨ 4 < a.action.toNat ∨ a.action = 3 ∧ a.width = 0 ∨ a.repeatPresent = true ∧ a.period = 0

/-- What a post in range asks for, its due time fixed at the taking. -/
def postedCue (a : CueArgs) (action : Action) (now : Micros) : CueContent :=
  { number := BitVec.ofNat 12 a.cue.toNat, action := action, topic := a.topic, due := dueOf a now
    width := if action = .pulse then some a.width else none
    rpt := if a.repeatPresent then some { period := a.period.toNat, count := a.count.toNat } else none }

theorem within_inside {least greatest n : Nat} (low : least ≤ n) (high : n ≤ greatest) : within least greatest n = some n :=
  if_pos ⟨low, high⟩

theorem within_beyond {least greatest n : Nat} (beyond : greatest < n) : within least greatest n = none :=
  if_neg fun inside => absurd inside.2 (Nat.not_le.mpr beyond)

theorem actionOfCode_unassigned {n : Nat} (beyond : 4 < n) : actionOfCode n = none := by
  unfold actionOfCode
  split
  case h_6 => rfl
  all_goals omega

/-- The code of PULSE is 3. -/
theorem code_eq_three {action : Action} : action.code = 3 ↔ action = .pulse := by
  cases action <;> decide

theorem widthFor_inRange {action : Action} {width : BitVec 16} (fits : action = .pulse → width ≠ 0) :
    widthFor action width = some (if action = .pulse then some width else none) := by
  cases action with
  | pulse => exact if_neg (fits rfl)
  | _ => rfl

theorem repeatOf_inRange {a : CueArgs} (fits : a.repeatPresent = true → a.period ≠ 0) :
    repeatOf a = some (if a.repeatPresent then some { period := a.period.toNat, count := a.count.toNat } else none) := by
  unfold repeatOf
  split
  · exact if_neg (fits ‹_›)
  · rfl

/-- The fields of a post in their ranges. -/
theorem cueOf_inRange {a : CueArgs} {action : Action} (number : a.cue.toNat ≤ 3967) (code : a.action.toNat = action.code)
    (width : action = .pulse → a.width ≠ 0) (period : a.repeatPresent = true → a.period ≠ 0) (now : Micros) :
    cueOf a now = some (postedCue a action now) := by
  rw [cueOf, within_inside (Nat.zero_le _) number, code, actionOfCode_code, Option.bind_eq_bind, Option.bind_some]
  simp only [Option.bind_eq_bind, Option.bind_some, widthFor_inRange width, repeatOf_inRange period]
  rfl

/-- One field out of its range is enough. -/
theorem cueOf_outOfRange {a : CueArgs} (out : OutOfRange a) (now : Micros) : cueOf a now = none := by
  refine Option.eq_none_iff_forall_ne_some.mpr fun c read => ?_
  simp only [cueOf, Option.bind_eq_bind, Option.bind_eq_some_iff] at read
  obtain ⟨number, inside, action, named, width, wide, rpt, repeats, -⟩ := read
  obtain cue | code | ⟨pulse, zero⟩ | ⟨present, zero⟩ := out
  · exact nomatch (within_beyond cue).symm.trans inside
  · exact nomatch (actionOfCode_unassigned code).symm.trans named
  · obtain rfl : action = .pulse := code_eq_three.mp (by rw [← actionOfCode_some named, pulse]; rfl)
    exact nomatch (if_pos zero).symm.trans wide
  · exact nomatch (show repeatOf a = none by simp [repeatOf, present, zero]).symm.trans repeats

/-- A post with no field out of its range names an action. -/
theorem cueOf_of_not_outOfRange {a : CueArgs} (inside : ¬OutOfRange a) (now : Micros) :
    a.cue.toNat ≤ 3967 ∧ ∃ action, cueOf a now = some (postedCue a action now) := by
  simp only [OutOfRange, not_or, not_and, Nat.not_lt] at inside
  obtain ⟨number, assigned, width, period⟩ := inside
  obtain ⟨action, code⟩ : ∃ action : Action, a.action.toNat = action.code := by
    generalize a.action.toNat = n at assigned
    interval_cases n
    exacts [⟨.set, rfl⟩, ⟨.clear, rfl⟩, ⟨.toggle, rfl⟩, ⟨.pulse, rfl⟩, ⟨.note, rfl⟩]
  have pulse : action = .pulse → a.action = 3 := fun is => BitVec.eq_of_toNat_eq (code.trans (code_eq_three.mpr is))
  exact ⟨number, action, cueOf_inRange number code (width ∘ pulse) period now⟩

/-! ## Fields of a recall (R153) -/

theorem recallOf_named {a : RecallArgs} {what : Recall} (named : Claims.recallNamed a what) : recallOf a = some what := by
  cases a with
  | byKey origin cue =>
    obtain ⟨low, high, number, rfl⟩ := named
    simp [recallOf, within_inside (Nat.zero_le _) number, stationOfNat_some.mpr ⟨low, high, rfl⟩]
  | byTopic code mask => exact congrArg some (Eq.symm named)

theorem recallOf_outOfRange {origin : Byte} {cue : BitVec 16}
    (out : origin.toNat = 0 ∨ 126 < origin.toNat ∨ 4095 < cue.toNat) : recallOf (.byKey origin cue) = none := by
  refine Option.eq_none_iff_forall_ne_some.mpr fun what read => ?_
  simp only [recallOf, Option.bind_eq_bind, Option.bind_eq_some_iff] at read
  obtain ⟨station, valid, number, inside, -⟩ := read
  obtain ⟨low, high, -⟩ := stationOfNat_some.mp valid
  obtain zero | beyond | cue := out
  · omega
  · omega
  · exact nomatch (within_beyond cue).symm.trans inside

theorem recallMatches_eq (own : StationId) (what : Recall) : recallMatches own what = Claims.recallMatchesRecord own what := by
  funext r
  unfold recallMatches Claims.recallMatchesRecord
  cases r.body with
  | cueBody c => cases what <;> rfl
  | _ => rfl

/-! ## POST_CUE, SHARED: the checks behind the ranges (R69) -/

theorem dueFits_iff (due : Micros) (s : State) :
    s.dueFits due = true ↔ s.stc.config.sendMargin < (due - s.micros).toNat ∧ (due - s.micros).toNat ≤ 2 ^ 30 := by
  rw [State.dueFits, Bool.and_eq_true, isAhead_iff, decide_eq_true_iff, distance, Config.horizon, Claims.ahead]
  omega

theorem holdsCue_iff (q : SqState) (number : CueNumber) :
    q.holdsCue number = true ↔ ∃ r ∈ q.records, ∃ c, r.body = .cueBody c ∧ c.number = number := by
  simp only [SqState.holdsCue, List.any_eq_true]
  refine exists_congr fun r => and_congr_right fun _ => ?_
  cases r.body <;> simp

/-- A cue number in range is held where a CUE record has its value. -/
theorem holdsCue_posted_iff {a : CueArgs} (number : a.cue.toNat ≤ 3967) (action : Action) (now : Micros) (q : SqState) :
    q.holdsCue (postedCue a action now).number = true
      ↔ ∃ r ∈ q.records, ∃ c, r.body = .cueBody c ∧ c.number.toNat = a.cue.toNat := by
  have value : (postedCue a action now).number.toNat = a.cue.toNat := by
    rw [postedCue, BitVec.toNat_ofNat, Nat.mod_eq_of_lt (by omega)]
  simp only [holdsCue_iff, ← BitVec.toNat_inj, value]

section SharedPost

variable {a : CueArgs} {c : CueContent} {s : State}

theorem postShared_outside (outside : s.stc.station ≠ .joined) : s.postShared a = (s, .only .refusedState) :=
  if_pos outside

variable (joined : s.stc.station = .joined)
include joined

theorem postShared_outOfRange (fields : cueOf a s.micros = none) : s.postShared a = (s, .only .refusedRange) := by
  simp [State.postShared, joined, fields]

theorem postShared_dueOut (fields : cueOf a s.micros = some c) (out : ¬s.dueFits c.due) :
    s.postShared a = (s, .only .refusedRange) := by
  simp [State.postShared, joined, fields, out]

variable (fields : cueOf a s.micros = some c) (fits : s.dueFits c.due = true)
include fields fits

theorem postShared_keyHeld (held : s.sq.holdsCue c.number = true) : s.postShared a = (s, .only .refusedKey) := by
  simp [State.postShared, joined, fields, fits, held]

theorem postShared_full (other : ¬s.sq.holdsCue c.number) (full : s.sq.freeSlot = none) :
    s.postShared a = (s, .only .refusedFull) := by
  simp [State.postShared, joined, fields, fits, other, full]

theorem postShared_creates {slot : Fin 16} (other : ¬s.sq.holdsCue c.number) (free : s.sq.freeSlot = some slot) :
    s.postShared a =
      (s.createRecord slot (.cueBody c) (some (c.due - BitVec.ofNat 32 s.stc.config.sendMargin)) .waiting,
        .tagged (s.sq.nextTag slot)) := by
  simp [State.postShared, joined, fields, fits, other, free]

end SharedPost

/-- A command of the port whose owner changes no more than the send queue and the notices. -/
theorem takeCommand_answers {s t : State} {handle : State → State × Reply} {reply : Reply} (isOpen : s.PortOpen)
    (answer : handle s = (t, reply)) (frame : Touches [.sq, .notices, .posted] s t) :
    s.takeCommand handle = t.replied reply.status.code reply.body := by
  have owner : Touches [.sq, .notices, .posted] s (handle s).1 := by rwa [answer]
  rw [takeCommand_of_touches isOpen owner (by decide), answer]

/-- Settles O13: the five checks passed in turn, and the record created. -/
theorem sharedPostCreatesCueRecord : Obligations.SharedPostCreatesCueRecord := by
  intro a action slot s isOpen joined number code width period margin horizon other free first
  have fields : cueOf a s.micros = some (postedCue a action s.micros) :=
    cueOf_inRange number code (fun pulse zero => absurd (width pulse) (by simp [zero]))
      (fun present zero => absurd (period present) (by simp [zero])) s.micros
  have fits : s.dueFits (postedCue a action s.micros).due = true := (dueFits_iff _ s).mpr ⟨margin, horizon⟩
  have unheld : ¬s.sq.holdsCue (postedCue a action s.micros).number := fun held =>
    have ⟨r, m, c, body, same⟩ := (holdsCue_posted_iff number action s.micros s.sq).mp held
    other r m c body same
  exact congrArg Host.Outcome.next (takeCommand_answers isOpen
    (postShared_creates joined fields fits unheld (freeSlot_some free first))
    ((createRecord_touches _ _ _ _ s).mono (by decide)))

/-- Settles O14: one refusal for each of the checks, in their order. -/
theorem sharedPostRefusedInOrder : Obligations.SharedPostRefusedInOrder := by
  intro a s isOpen
  have refused : ∀ {reply : Reply}, s.postShared a = (s, reply) →
      exec (.postCueShared a) s = .next (s.replied reply.status.code reply.body) := fun answer =>
    congrArg Host.Outcome.next (takeCommand_unchanged isOpen answer)
  refine ⟨fun outside => refused (postShared_outside outside), fun joined =>
    ⟨fun out => refused (postShared_outOfRange joined (cueOf_outOfRange out s.micros)), fun inside => ?_⟩⟩
  obtain ⟨number, action, fields⟩ := cueOf_of_not_outOfRange inside s.micros
  refine ⟨fun out => refused (postShared_dueOut joined fields fun fits => ?_), fun margin horizon => ?_⟩
  · obtain ⟨margin, horizon⟩ := (dueFits_iff _ s).mp fits
    obtain near | far := out
    · exact absurd margin (Nat.not_lt.mpr near)
    · exact absurd horizon (Nat.not_le.mpr far)
  have fits : s.dueFits (postedCue a action s.micros).due = true := (dueFits_iff _ s).mpr ⟨margin, horizon⟩
  have heldIff := holdsCue_posted_iff number action s.micros s.sq
  refine ⟨fun held => refused (postShared_keyHeld joined fields fits (heldIff.mpr held)), fun other full =>
    refused (postShared_full joined fields fits (fun held => ?_) (freeSlot_none full))⟩
  obtain ⟨r, m, c, body, same⟩ := heldIff.mp held
  exact other r m c body same

/-! ## Refusals of LOCAL posts and of recalls (R70, R101, R112, R153) -/

theorem postLocal_outside {a : CueArgs} {s : State} (outside : s.stc.station ≠ .joined) :
    s.postLocal a = (s, .only .refusedState) := if_pos outside

theorem postLocal_outOfRange {a : CueArgs} {s : State} (joined : s.stc.station = .joined)
    (fields : cueOf a s.micros = none) : s.postLocal a = (s, .only .refusedRange) := by
  simp [State.postLocal, joined, fields]

section Recall

variable {a : RecallArgs} {what : Recall} {s : State}

theorem recallShared_outside (outside : s.stc.station ≠ .joined) : s.recallShared a = (s, .only .refusedState) :=
  if_pos outside

theorem recallLocal_outside (outside : s.stc.station ≠ .joined) : s.recallLocal a = (s, .only .refusedState) :=
  if_pos outside

variable (joined : s.stc.station = .joined)
include joined

theorem recallShared_outOfRange (fields : recallOf a = none) : s.recallShared a = (s, .only .refusedRange) := by
  simp [State.recallShared, joined, fields]

theorem recallLocal_outOfRange (fields : recallOf a = none) : s.recallLocal a = (s, .only .refusedRange) := by
  simp [State.recallLocal, joined, fields]

theorem recallShared_taken (fields : recallOf a = some what) : s.recallShared a = s.takeRecall what := by
  simp [State.recallShared, joined, fields]

end Recall

/-- Where no record is named none leaves. -/
theorem leaveAll_none {which : Record → Bool} (how : Completion) {s : State}
    (none : ∀ r ∈ s.sq.records, which r = false) : s.leaveAll which how = s := by
  rw [State.leaveAll, List.filter_eq_nil_iff.mpr fun r m => by simp [none r m], List.foldl_nil]

/-- A free slot depends on the slots taken. -/
theorem freeSlot_congr {p q : SqState} (slots : p.records.map (fun r => r.tag.slot) = q.records.map (fun r => r.tag.slot)) :
    p.freeSlot = q.freeSlot := by
  have free : p.isFree = q.isFree := by
    funext slot
    have all := congrArg (List.all · fun j => decide (j ≠ slot)) slots
    rwa [List.all_map, List.all_map] at all
  rw [SqState.freeSlot, free, SqState.freeSlot]

/-- A record written over leaves every slot as it was, taken or free. -/
theorem updateRecord_freeSlot (r : Record) (s : State) : (s.updateRecord r).sq.freeSlot = s.sq.freeSlot := by
  refine freeSlot_congr ?_
  rw [State.updateRecord, setSq_sq, List.map_map]
  refine List.map_congr_left fun x _ => ?_
  rw [Function.comp_apply]
  split
  · rename_i same
    rw [same]
  · rfl

theorem holdBehind_freeSlot (matching : Record → Bool) (s : State) :
    (s.holdBehind matching).1.sq.freeSlot = s.sq.freeSlot := by
  unfold State.holdBehind
  split
  · exact updateRecord_freeSlot _ _
  · rfl

/-- A recall that withdraws none finds no room among 16 records. -/
theorem takeRecall_full {what : Recall} {s : State}
    (none : ∀ r ∈ s.sq.records, r.state = .waiting → recallMatches s.stc.config.id what r = false)
    (full : s.sq.freeSlot = .none) : s.takeRecall what = (s, .only .refusedFull) := by
  have stays := leaveAll_none (which := fun r => decide (r.state = .waiting) && recallMatches s.stc.config.id what r)
    .withdrawn (s := s) fun r m => by
      by_cases waits : r.state = .waiting
      · simp [none r m waits]
      · simp [waits]
  rw [State.takeRecall, stays, holdBehind_freeSlot, full]

theorem localPostRefused : Claims.LocalPostRefused := fun _ s isOpen =>
  ⟨fun outside => congrArg Host.Outcome.next (takeCommand_unchanged isOpen (postLocal_outside outside)), fun joined out =>
    congrArg Host.Outcome.next
      (takeCommand_unchanged isOpen (postLocal_outOfRange joined (cueOf_outOfRange out s.micros)))⟩

theorem recallRefused : Claims.RecallRefused := by
  refine ⟨fun a s isOpen outside => ⟨?_, ?_⟩, fun origin cue s isOpen joined out => ⟨?_, ?_⟩,
    fun a what s isOpen joined named full none => ?_⟩
  · exact congrArg Host.Outcome.next (takeCommand_unchanged isOpen (recallShared_outside outside))
  · exact congrArg Host.Outcome.next (takeCommand_unchanged isOpen (recallLocal_outside outside))
  · exact congrArg Host.Outcome.next
      (takeCommand_unchanged isOpen (recallShared_outOfRange joined (recallOf_outOfRange out)))
  · exact congrArg Host.Outcome.next
      (takeCommand_unchanged isOpen (recallLocal_outOfRange joined (recallOf_outOfRange out)))
  · have refused : s.recallShared a = (s, .only .refusedFull) := by
      rw [recallShared_taken joined (recallOf_named named)]
      refine takeRecall_full (fun r m waits => ?_) (freeSlot_none full)
      rw [recallMatches_eq]
      exact Bool.eq_false_iff.mpr (none r m waits)
    exact congrArg Host.Outcome.next (takeCommand_unchanged isOpen refused)

/-- Settles O17: the refusals of LOCAL posts, then those of recalls. -/
theorem postsAndRecallsRefused : Obligations.PostsAndRecallsRefused := ⟨localPostRefused, recallRefused⟩

/-! ## POST_RECALL, SHARED, with room (R70, R82) -/

/-- The record in flight behind which a recall is held, if it matches one, and the state its RECALL takes. -/
def HeldBehind (matching : Record → Bool) (records : List Record) (state : RecordState) : Prop :=
  (∃ x ∈ records, x.state = .inFlight ∧ matching x = true ∧ state = .held x.tag)
    ∨ (∀ x ∈ records, x.state = .inFlight → matching x = false) ∧ state = .waiting

/-- A matching record in flight flagged. -/
def flagMatching (matching : Record → Bool) (x : Record) : Record :=
  if x.state = .inFlight ∧ matching x = true then { x with withdrawPending := true } else x

/-- Each record stands in a slot of its own. -/
theorem State.QueueOk.own_slots {s : State} (ok : s.QueueOk) : (s.sq.records.map fun r => r.tag.slot).Nodup :=
  ((queueOk_iff s).mp ok).1.slots_nodup

/-- At most one record is in flight: each would be the one whose attempt the LIU holds. -/
theorem State.QueueOk.one_inFlight {s : State} (ok : s.QueueOk) {x y : Record} (mx : x ∈ s.sq.records)
    (my : y ∈ s.sq.records) (flies : x.state = .inFlight) (flies' : y.state = .inFlight) : y = x := by
  obtain ⟨⟨-, -, -, place⟩, -⟩ := (queueOk_iff s).mp ok
  have same : some (Place.slot y.tag.slot) = some (Place.slot x.tag.slot) := (place y my flies').symm.trans (place x mx flies)
  exact record_eq_of_slot ok.own_slots mx my (by simpa using same)

/-- The one matching record in flight is flagged, and no other is written. -/
theorem holdBehind_eq {matching : Record → Bool} {state : RecordState} {s : State} (ok : s.QueueOk)
    (behind : HeldBehind matching s.sq.records state) :
    s.holdBehind matching =
      (s.setSq { s.sq with records := s.sq.records.map (flagMatching matching) }, state) := by
  unfold State.holdBehind
  obtain ⟨x, mx, flies, named, rfl⟩ | ⟨none, rfl⟩ := behind
  · cases found : s.sq.records.find? fun r => decide (r.state = .inFlight) && matching r with
    | none => simpa [flies, named] using List.find?_eq_none.mp found x mx
    | some r =>
      have hit := List.find?_some found
      rw [Bool.and_eq_true, decide_eq_true_iff] at hit
      obtain rfl := ok.one_inFlight mx (List.mem_of_find?_eq_some found) flies hit.1
      have flagged : s.sq.records.map (fun x => if x.tag = r.tag then { r with withdrawPending := true } else x) =
          s.sq.records.map (flagMatching matching) := by
        refine List.map_congr_left fun y my => ?_
        unfold flagMatching
        by_cases same : y.tag = r.tag
        · obtain rfl := record_eq_of_slot ok.own_slots mx my (by rw [same])
          rw [if_pos rfl, if_pos hit]
        · rw [if_neg same, if_neg fun ⟨flies', _⟩ => same (by rw [ok.one_inFlight mx my flies flies'])]
      dsimp only
      rw [State.updateRecord, flagged]
  · have unnamed : ∀ x ∈ s.sq.records, ¬(x.state = .inFlight ∧ matching x = true) := fun x m ⟨flies, named⟩ =>
      Bool.false_ne_true ((none x m flies).symm.trans named)
    have missed : (s.sq.records.find? fun r => decide (r.state = .inFlight) && matching r) = .none :=
      List.find?_eq_none.mpr (by simpa using unnamed)
    have kept : s.sq.records.map (flagMatching matching) = s.sq.records :=
      (List.map_congr_left fun x m => if_neg (unnamed x m)).trans (List.map_id _)
    rw [missed, kept]
    rfl

/-- The records in flight stay when WAITING ones leave. -/
theorem mem_allLeft_of_inFlight {which : Record → Bool} {how : Completion} {s : State} {x : Record}
    (waits : ∀ r, which r = true → r.state = .waiting) (flies : x.state = .inFlight) :
    x ∈ (Claims.allLeft which how s).sq.records ↔ x ∈ s.sq.records := by
  have stays : which x = false := Bool.eq_false_iff.mpr fun goes => by simp [waits x goes] at flies
  simp only [Claims.allLeft, setSq_sq, List.mem_map, List.mem_filter]
  constructor
  · rintro ⟨y, ⟨my, -⟩, rfl⟩
    split at flies
    · cases flies
    · rwa [if_neg ‹_›]
  · exact fun m => ⟨x, ⟨m, by simp [stays]⟩, if_neg (by simp [flies])⟩

theorem heldBehind_allLeft {matching which : Record → Bool} {how : Completion} {state : RecordState} {s : State}
    (waits : ∀ r, which r = true → r.state = .waiting) (behind : HeldBehind matching s.sq.records state) :
    HeldBehind matching (Claims.allLeft which how s).sq.records state := by
  obtain ⟨x, mx, flies, rest⟩ | ⟨none, rests⟩ := behind
  · exact .inl ⟨x, (mem_allLeft_of_inFlight waits flies).mpr mx, flies, rest⟩
  · exact .inr ⟨fun x mx flies => none x ((mem_allLeft_of_inFlight waits flies).mp mx) flies, rests⟩

/-- Settles O16: what waits leaves, what flies is flagged, and the RECALL is created in the lowest slot then free. -/
theorem sharedRecallWithdrawsAndCreatesRecall : Obligations.SharedRecallWithdrawsAndCreatesRecall := by
  intro a what slot state s isOpen joined ok named matching u free first behind
  have left : s.leaveAll (fun r => decide (r.state = .waiting) && matching r) .withdrawn = u :=
    leaveAll_eq _ _ ok.own_slots
  have waits : ∀ r : Record, (decide (r.state = .waiting) && matching r) = true → r.state = .waiting := fun r goes =>
    of_decide_eq_true (Bool.and_eq_true_iff.mp goes).1
  have held := holdBehind_eq (s := u) (left ▸ leaveAll_queueOk _ _ ok) (heldBehind_allLeft waits behind)
  have room : (u.holdBehind matching).1.sq.freeSlot = some slot :=
    (holdBehind_freeSlot matching u).trans (freeSlot_some free first)
  have answer : s.recallShared a =
      ((u.holdBehind matching).1.createRecord slot (.recallBody what) none (u.holdBehind matching).2,
        .tagged ((u.holdBehind matching).1.sq.nextTag slot)) := by
    rw [recallShared_taken joined (recallOf_named named), State.takeRecall, recallMatches_eq, left, room]
  have frame := recallShared_touches a s
  rw [answer] at frame
  refine congrArg Host.Outcome.next ((takeCommand_answers isOpen answer frame).trans ?_)
  rw [held]
  rfl

/-! ## WITHDRAW (R81, R82) -/

section Withdraw

variable {tag : Tag} {r : Record} {s : State}

theorem withdraw_unknown (unknown : s.sq.named tag = none) : s.withdraw tag = (s, .only .unknownTag) := by
  rw [State.withdraw, unknown]

theorem withdraw_leaves (named : s.sq.named tag = some r) (rests : r.state ≠ .inFlight) :
    s.withdraw tag = (s.leave r .withdrawn false false, .only .done) := by
  rw [State.withdraw, named]
  dsimp only
  split
  · rfl
  · rfl
  · exact absurd ‹_› rests

theorem withdraw_flags (named : s.sq.named tag = some r) (flies : r.state = .inFlight) :
    s.withdraw tag = (s.updateRecord { r with withdrawPending := true }, .only .pending) := by
  rw [State.withdraw, named]
  dsimp only
  rw [flies]

end Withdraw

/-- Settles O19: one answer for each state of the record that the tag names, and one for none. -/
theorem withdrawByRecordState : Obligations.WithdrawByRecordState := by
  intro tag s isOpen own
  refine ⟨fun unknown => ?_, fun r m names rests => ?_, fun r m names flies => ?_⟩
  · have none : s.sq.named tag = none := List.find?_eq_none.mpr fun r m => by simpa using unknown r m
    exact congrArg Host.Outcome.next (takeCommand_unchanged isOpen (withdraw_unknown none))
  · subst names
    exact congrArg Host.Outcome.next (takeCommand_answers isOpen (withdraw_leaves (named_of_mem own m) rests)
      (leave_touches _ _ _ _ s))
  · subst names
    exact congrArg Host.Outcome.next (takeCommand_answers isOpen (withdraw_flags (named_of_mem own m) flies)
      ((updateRecord_touches _ s).mono (by decide)))

end Sys2Proof.Machine
end

section
/-! SUPPORT. SET_INPUT, SET_SUBSCRIPTION and SET_REACTION (O8): each value read from its code, and what a configuration command in range writes. -/

namespace Sys2Proof.Machine

/-! ## Values from their codes (R94, R131, R137) -/

theorem indexOf_val {bound : Nat} {b : Byte} {i : Fin bound} (names : b.toNat = i.val) : indexOf bound b = some i :=
  (indexOf_some (names ▸ i.isLt)).trans (congrArg some (Fin.ext names))

/-- Two bits name each edge select. -/
theorem selectOfCode_assigned {c : BitVec 2} {select : EdgeSelect}
    (code : c = 0 ∧ select = .off ∨ c = 1 ∧ select = .rising ∨ c = 2 ∧ select = .falling ∨ c = 3 ∧ select = .either) :
    selectOfCode c = select := by
  obtain ⟨rfl, rfl⟩ | ⟨rfl, rfl⟩ | ⟨rfl, rfl⟩ | ⟨rfl, rfl⟩ := code <;> rfl

/-- Two bits but 0 name each edge of a reaction. -/
theorem edgeMatchOfCode_assigned {c : BitVec 2} {edge : EdgeMatch}
    (code : c = 1 ∧ edge = .rising ∨ c = 2 ∧ edge = .falling ∨ c = 3 ∧ edge = .either) :
    edgeMatchOfCode c = some edge := by
  obtain ⟨rfl, rfl⟩ | ⟨rfl, rfl⟩ | ⟨rfl, rfl⟩ := code <;> rfl

/-- 0xFF is NONE, and a code below 8 is a line. -/
theorem targetOfByte_assigned {b : Byte} {target : Target}
    (code : b = 0xFF ∧ target = none ∨ ∃ line : Fin 8, b.toNat = line.val ∧ target = some line) :
    targetOfByte b = some target := by
  obtain ⟨rfl, rfl⟩ | ⟨line, names, rfl⟩ := code
  · rfl
  · have isLine : b.toNat < 8 := names ▸ line.isLt
    have notNone : b ≠ 0xFF := by
      rintro rfl
      exact absurd isLine (by decide)
    rw [targetOfByte, if_neg notNone, dif_pos isLine]
    exact congrArg (some ∘ some) (Fin.ext names)

theorem sourceOfNat_inRange {n : Nat} (high : n ≤ 126) : sourceOfNat n = some (BitVec.ofNat 7 n) := if_pos high

/-- The fields of a subscription in their ranges. -/
theorem subscriptionOf_inRange {a : SubscriptionArgs} {entry : Fin 16} {target : Target}
    (index : indexOf 16 a.entry = some entry) (line : targetOfByte a.target = some target) :
    subscriptionOf a =
      some (entry,
        { enabled := a.enabled, code := a.code, mask := a.mask, target := target, notify := a.notify }) := by
  simp only [subscriptionOf, index, line, Option.bind_eq_bind, Option.bind_some]

/-- The fields of a reaction in their ranges. -/
theorem reactionOf_inRange {a : ReactionArgs} {entry : Fin 8} {input : Fin 4} {edge : EdgeMatch} {action : Action}
    {target : Target} (index : indexOf 8 a.entry = some entry) (source : a.source.toNat ≤ 126)
    (field : indexOf 4 a.input = some input) (takes : edgeMatchOfCode a.edge = some edge)
    (offset : a.offset.toNat ≤ 1048575) (code : a.action.toNat = action.code)
    (line : targetOfByte a.target = some target) (width : action = .pulse → a.width ≠ 0) :
    reactionOf a =
      some (entry,
        { enabled := a.enabled, source := BitVec.ofNat 7 a.source.toNat, input := input, edge := edge
          offset := a.offset.toNat, action := action, target := target
          width := if action = .pulse then some a.width else none, notify := a.notify }) := by
  simp only [reactionOf, index, sourceOfNat_inRange source, field, takes, within_inside (Nat.zero_le _) offset, code,
    actionOfCode_code, line, widthFor_inRange width, Option.bind_eq_bind, Option.bind_some]

/-! ## The writing of a configuration (R144) -/

/-- OFFLINE and in range, a configuration command is carried out and answered with OK, whatever it writes but the port. -/
theorem takeCommand_configure {α : Type} {bs : List Part} {values : Option α} {v : α} {write : α → State → State}
    {s : State} (isOpen : s.PortOpen) (offline : s.stc.station = .offline) (inRange : values = some v)
    (frame : Touches bs s (write v s)) (port : Part.port ∉ bs) :
    s.takeCommand (State.configure values write) = (write v s).replied 0 [] := by
  have written : s.configure values write = (write v s, .only .ok) := by
    subst inRange
    exact if_neg (not_not_intro offline)
  have owner : Touches bs s (s.configure values write).1 := by rwa [written]
  rw [takeCommand_of_touches isOpen owner port, written]
  rfl

theorem setInputWritesConfiguration : Claims.SetInputWritesConfiguration := by
  intro a input select s isOpen offline names code
  refine congrArg Host.Outcome.next ((takeCommand_configure isOpen offline (indexOf_val names)
    (setMarkInput_touches _ _ s) (by decide)).trans ?_)
  rw [State.configureInput, selectOfCode_assigned code]
  rfl

theorem setSubscriptionWritesEntry : Claims.SetSubscriptionWritesEntry := fun _ _ _ s isOpen offline names line =>
  congrArg Host.Outcome.next (takeCommand_configure isOpen offline
    (subscriptionOf_inRange (indexOf_val names) (targetOfByte_assigned line)) (setIku_touches s _) (by decide))

theorem setReactionWritesEntry : Claims.SetReactionWritesEntry := by
  intro a entry input edge action target s isOpen offline names source field takes offset code line width
  have inRange := reactionOf_inRange (indexOf_val names) source (indexOf_val field) (edgeMatchOfCode_assigned takes)
    offset code (targetOfByte_assigned line) fun pulse zero => absurd (width pulse) (by simp [zero])
  exact congrArg Host.Outcome.next (takeCommand_configure isOpen offline inRange (setMku_touches s _) (by decide))

/-- Settles O8: the values of each command read from their codes, then its one write carried out. -/
theorem setTablesWriteNamedEntry : Obligations.SetTablesWriteNamedEntry :=
  ⟨setInputWritesConfiguration, setSubscriptionWritesEntry, setReactionWritesEntry⟩

end Sys2Proof.Machine
end

section
/-! SUPPORT. Room in the schedule, and its keys (O57): what an insertion, an eviction and a drop leave of the schedule, and that nothing brings it more than 32 entries or a key twice. -/

namespace Sys2Proof.Machine

/-! ## Insertion and room (R105, R106) -/

/-- An insertion into a schedule that has changed, while the word and bus time stood. -/
theorem insert_of_csu {s t : State} {l : List Entry} (csu : t.csu = { s.csu with schedule := l })
    (now : t.micros = s.micros) (e : Entry) :
    t.insert e = t.setCsu { s.csu with schedule := insertEntry s.aheadNow e l } := by
  have measure : t.aheadNow = s.aheadNow := by
    rw [State.aheadNow, csu, now]
    rfl
  rw [State.insert, State.setSchedule, measure, csu]

section Room

variable {e : Entry} {s : State}

theorem roomFor_of_room (room : s.csu.schedule.length < 32) : s.roomFor e = .free := if_pos room

/-- A full schedule has room for an entry that would not stand last, at the cost of the last. -/
theorem roomFor_of_full {last : Entry} (full : 32 ≤ s.csu.schedule.length) (final : s.csu.schedule.getLast? = some last) :
    s.roomFor e = if before s.aheadNow e last then .evicting last else .none := by
  rw [State.roomFor, if_neg (Nat.not_lt.mpr full), final]

theorem place_of_room (room : s.csu.schedule.length < 32) :
    s.place e = s.setCsu { s.csu with schedule := insertEntry s.aheadNow e s.csu.schedule } := by
  rw [State.place, roomFor_of_room room]
  rfl

variable {last : Entry} (full : 32 ≤ s.csu.schedule.length) (final : s.csu.schedule.getLast? = some last)
include full final

theorem place_evicts (first : before s.aheadNow e last = true) :
    s.place e =
      ((s.setCsu { s.csu with schedule := s.csu.schedule.dropLast }).post (.schedule .evicted last.key last.target 0)).setCsu
        { s.csu with schedule := insertEntry s.aheadNow e s.csu.schedule.dropLast } := by
  rw [State.place, roomFor_of_full full final, if_pos first]
  exact insert_of_csu (post_csu _ _) (post_micros _ _) e

theorem place_drops (behind : ¬before s.aheadNow e last = true) :
    s.place e = s.post (.schedule .dropped e.key e.target 0) := by
  rw [State.place, roomFor_of_full full final, if_neg behind]
  rfl

end Room

/-- A schedule that is not empty has a last entry. -/
theorem getLast_of_full {s : State} (full : 32 ≤ s.csu.schedule.length) : ∃ last, s.csu.schedule.getLast? = some last := by
  have some : s.csu.schedule ≠ [] := List.ne_nil_of_length_pos (by omega)
  exact ⟨_, List.getLast?_eq_getLast_of_ne_nil some⟩

/-! ## The keys held (R98) -/

/-- The keys of the entries in the schedule, in schedule order. -/
def State.keys (s : State) : List CueKey := s.csu.schedule.map Entry.key

theorem scheduleOk_iff (s : State) : s.ScheduleOk ↔ s.keys.length ≤ 32 ∧ s.keys.Nodup := by
  rw [State.ScheduleOk, State.keys, List.length_map]

/-- A state that holds no other keys, and none more often, keeps the invariant. -/
theorem scheduleOk_of_subperm {s t : State} (fewer : t.keys.Subperm s.keys) (ok : s.ScheduleOk) : t.ScheduleOk := by
  rw [scheduleOk_iff] at ok ⊢
  obtain ⟨most, own⟩ := ok
  have short := fewer.length_le
  obtain ⟨l, same, part⟩ := fewer
  exact ⟨short.trans most, same.nodup_iff.mp (own.sublist part)⟩

theorem keys_of_csu {s t : State} (csu : t.csu = s.csu) : t.keys.Subperm s.keys := by
  rw [State.keys, csu]
  exact List.Subperm.refl _

/-- The invariant reads the CSU. -/
theorem Touches.keys {bs : List Part} {s t : State} (h : Touches bs s t) (apart : .csu ∉ bs) : t.keys.Subperm s.keys :=
  keys_of_csu (h.csu apart)

theorem Touches.scheduleOk {bs : List Part} {s t : State} (h : Touches bs s t) (apart : .csu ∉ bs) (ok : s.ScheduleOk) :
    t.ScheduleOk :=
  scheduleOk_of_subperm (h.keys apart) ok

theorem Steady.scheduleOk {s t : State} (h : Steady s t) (ok : s.ScheduleOk) : t.ScheduleOk :=
  scheduleOk_of_subperm (keys_of_csu h.csu) ok

theorem setSchedule_keys {l : List Entry} {s : State} (fewer : l.Sublist s.csu.schedule) :
    (s.setSchedule l).keys.Subperm s.keys :=
  (fewer.map Entry.key).subperm

theorem insert_keys (e : Entry) (s : State) : (s.insert e).keys.Perm (e.key :: s.keys) :=
  (insertEntry_perm s.aheadNow e s.csu.schedule).map Entry.key

/-- An entry of a new key where there is room, or in place of the last, or not at all (R105). -/
theorem place_scheduleOk {e : Entry} {s : State} (fresh : ∀ x ∈ s.csu.schedule, x.key ≠ e.key) (ok : s.ScheduleOk) :
    (s.place e).ScheduleOk := by
  have inserted : ∀ {t : State} {l : List Entry}, t.csu.schedule = insertEntry s.aheadNow e l →
      l.Sublist s.csu.schedule → l.length < 32 → t.ScheduleOk := fun {t l} schedule part room => by
    have same : t.keys.Perm (e.key :: l.map Entry.key) := by
      rw [State.keys, schedule]
      exact (insertEntry_perm s.aheadNow e l).map Entry.key
    refine (scheduleOk_iff t).mpr ⟨?_, same.nodup_iff.mpr (List.nodup_cons.mpr ⟨fun held => ?_, ok.2.sublist (part.map _)⟩)⟩
    · rw [same.length_eq, List.length_cons, List.length_map]
      exact room
    · obtain ⟨x, m, key⟩ := List.mem_map.mp held
      exact fresh x (part.subset m) key
  obtain room | full := Nat.lt_or_ge s.csu.schedule.length 32
  · rw [place_of_room room]
    exact inserted rfl (List.Sublist.refl _) room
  · obtain ⟨last, final⟩ := getLast_of_full full
    by_cases first : before s.aheadNow e last = true
    · rw [place_evicts full final first]
      refine inserted rfl (List.dropLast_sublist _) ?_
      have most := ok.1
      rw [List.length_dropLast]
      omega
    · rw [place_drops full final first]
      exact (post_touches _ s).scheduleOk (by decide) ok

/-! ## Re-entries, and the word of a step (R109, R110, R114, R115) -/

/-- A late occurrence re-enters with its key. -/
theorem lateOccurrence_key {e again : Entry} {lateness : Nat} {s : State}
    (h : (s.lateOccurrence e lateness).2 = some again) : again.key = e.key := by
  obtain h | h := lateOccurrence_reentry h
  · exact (reentry_some h).1
  · exact (reentry_some h).1

theorem takeReached_keys (e : Entry) (s : State) : (s.takeReached e).keys.Subperm (e.key :: s.keys) := by
  have done := (lateOccurrence_touches e (distance s.micros e.due) s).keys (by decide)
  unfold State.takeReached
  dsimp only
  split
  · rename_i again h
    rw [← lateOccurrence_key h]
    exact (insert_keys again _).subperm.trans ((List.subperm_cons _).mpr done)
  · exact done.cons_right _

theorem takeReached_foldl_keys (l : List Entry) (s : State) :
    (l.foldl State.takeReached s).keys.Subperm (l.map Entry.key ++ s.keys) := by
  induction l generalizing s with
  | nil => exact List.Subperm.refl _
  | cons e rest ih =>
    have taken := (List.subperm_append_left (rest.map Entry.key)).mpr (takeReached_keys e s)
    exact (ih (s.takeReached e)).trans (taken.trans List.perm_middle.subperm)

theorem takeWord_keys (s : State) : s.takeWord.keys.Subperm s.keys := by
  unfold State.takeWord
  split
  · exact List.Subperm.refl _
  · refine (takeReached_foldl_keys _ _).trans ?_
    have parts := (List.filter_append_perm (Entry.isReached s.micros) s.csu.schedule).map Entry.key
    rw [List.map_append] at parts
    exact parts.subperm
  · exact ((Touches.foldl (fun u e => post_touches _ u) _ _).keys (by decide)).trans
      (setSchedule_keys (s := s.setWord none) List.filter_sublist)

theorem meetWord_keys (s : State) : s.meetWord.keys.Subperm s.keys := by
  unfold State.meetWord
  split
  · exact List.Subperm.refl _
  · split
    · exact takeWord_keys s.drawn
    · exact List.Subperm.refl _

/-- The first entry leaves, and comes back at most once (R109). -/
theorem expireFirst_keys (s : State) : s.expireFirst.keys.Subperm s.keys := by
  unfold State.expireFirst
  split
  · exact List.Subperm.refl _
  · rename_i e rest schedule
    have told := ((fire_touches false e (s.setSchedule rest)).trans
      ((postMissed_touches e (occurrencesMissed e.rpt 0 true) _).mono (by decide))).keys (by decide)
    have held : s.keys = e.key :: rest.map Entry.key := by rw [State.keys, schedule, List.map_cons]
    rw [held]
    dsimp only
    split
    · rename_i again h
      have key : again.key = e.key := (reentry_some h).1
      rw [← key]
      exact (insert_keys again _).subperm.trans ((List.subperm_cons _).mpr told)
    · exact told.cons_right _

/-! ## Arrivals and recalls (R100 to R106, R111) -/

/-- A revision takes the place of the entry of its key (R104). -/
theorem revise_keys {old e : Entry} {s : State} (held : s.entryFor e.key = some old) : (s.revise old e).keys.Subperm s.keys := by
  unfold State.revise
  split
  · exact List.Subperm.refl _
  · have same : old.key = e.key := by simpa using List.find?_some (p := fun x : Entry => decide (x.key = e.key)) held
    have there : old ∈ s.csu.schedule := List.mem_of_find?_eq_some held
    refine ((postIf_touches _ _ _).keys (by decide)).trans ((insert_keys _ _).subperm.trans ?_)
    refine List.Subperm.trans ?_ ((List.filter_append_perm (fun x => x.key ≠ e.key) s.csu.schedule).map Entry.key).subperm
    rw [List.map_append]
    refine (List.perm_append_singleton _ _).symm.subperm.trans ((List.subperm_append_left _).mpr ?_)
    exact List.singleton_subperm_iff.mpr (List.mem_map.mpr ⟨old, List.mem_filter.mpr ⟨there, by simp [same]⟩, same⟩)

/-- What an arrival past its due time supersedes has its key, which is held no longer (R103). -/
theorem superseded_keys (e : Entry) (s : State) :
    (s.superseded e).keys.Subperm s.keys ∧ ∀ x ∈ (s.superseded e).csu.schedule, x.key ≠ e.key := by
  unfold State.superseded
  split
  · have frame := postIf_touches (‹Entry›.notify || e.notify) (e.notice .revised 0) (s.removeKey e.key)
    refine ⟨(frame.keys (by decide)).trans (setSchedule_keys List.filter_sublist), ?_⟩
    rw [frame.csu (by decide)]
    exact removeKey_fresh e.key s
  · exact ⟨List.Subperm.refl _, entryFor_none ‹_›⟩

theorem arrivePast_scheduleOk (e : Entry) {s : State} (ok : s.ScheduleOk) : (s.arrivePast e).ScheduleOk := by
  obtain ⟨fewer, fresh⟩ := superseded_keys e s
  have frame := lateOccurrence_touches e (distance s.micros e.due) (s.superseded e)
  have done := frame.scheduleOk (by decide) (scheduleOk_of_subperm fewer ok)
  rw [arrivePast_eq]
  dsimp only
  split
  · rename_i again h
    refine place_scheduleOk ?_ done
    rwa [frame.csu (by decide), lateOccurrence_key h]
  · exact done

theorem decideArrival_scheduleOk (e : Entry) {s : State} (ok : s.ScheduleOk) : (s.decideArrival e).ScheduleOk := by
  unfold State.decideArrival
  split
  · exact (post_touches _ s).scheduleOk (by decide) ok
  · exact arrivePast_scheduleOk e ok
  · split
    · exact scheduleOk_of_subperm (revise_keys ‹_›) ok
    · exact place_scheduleOk (entryFor_none ‹_›) ok

theorem arrive_scheduleOk (e : Entry) {s : State} (ok : s.ScheduleOk) : (s.arrive e).ScheduleOk :=
  decideArrival_scheduleOk e (scheduleOk_of_subperm (meetWord_keys s) ok)

theorem arriveLocal_scheduleOk (e : Entry) {s : State} (ok : s.ScheduleOk) : (s.arriveLocal e).1.ScheduleOk := by
  have met := scheduleOk_of_subperm (meetWord_keys s) ok
  unfold State.arriveLocal State.decideLocal
  split
  · exact met
  · exact met
  · split
    · exact scheduleOk_of_subperm (revise_keys ‹_›) met
    · split
      · exact met
      · exact place_scheduleOk (entryFor_none ‹_›) met

theorem recallEntries_keys (r : Recall) (s : State) : (s.recallEntries r).keys.Subperm s.keys :=
  ((Touches.foldl (fun u e => postIf_touches _ _ u) _ _).keys (by decide)).trans
    ((setSchedule_keys List.filter_sublist).trans (meetWord_keys s))

theorem react_scheduleOk (m : SeenMark) {s : State} (ok : s.ScheduleOk) : (s.react m).ScheduleOk := by
  unfold State.react
  induction List.finRange 8 generalizing s with
  | nil => exact ok
  | cons r rest ih =>
    refine ih ?_
    unfold State.tryReaction
    split
    · exact arrive_scheduleOk _ ok
    · exact ok

theorem takeCue_scheduleOk (origin : StationId) (c : CueContent) {s : State} (ok : s.ScheduleOk) :
    (s.takeCue origin c).ScheduleOk := by
  unfold State.takeCue
  split
  · exact arrive_scheduleOk _ ok
  · exact ok

theorem postLocal_scheduleOk (a : CueArgs) {s : State} (ok : s.ScheduleOk) : (s.postLocal a).1.ScheduleOk := by
  unfold State.postLocal
  split
  · exact ok
  · split
    · exact ok
    · exact arriveLocal_scheduleOk _ ok

theorem recallLocal_keys (a : RecallArgs) (s : State) : (s.recallLocal a).1.keys.Subperm s.keys := by
  unfold State.recallLocal
  split
  · exact List.Subperm.refl _
  · split
    · exact List.Subperm.refl _
    · exact recallEntries_keys _ s

/-! ## Steps of bus time, rounds and acquisition -/

/-- Of what a step of bus time has happen only the step handling changes the schedule (R39). -/
theorem stepTime_keys (amount : Int) (s : State) : (s.stepTime amount).keys.Subperm s.keys := by
  by_cases still : amount = 0
  · rw [State.stepTime, if_pos still]
  · rw [stepTime_eq still]
    have told : (s.stepTold amount).keys.Subperm s.keys := List.Subperm.refl _
    obtain kept | ⟨u, early, late⟩ := reexamine_around_csu (R := fun u v => v.keys.Subperm u.keys)
      (fun _ => List.Subperm.refl _) (fun h k => k.trans h) (Config.reexamineOrder s.draws) s.micros
      (microsChange s.btu.time amount) (s.stepTold amount) (fun u => (reexamineSq_touches _ _ u).keys (by decide))
      (fun u => (reexamineFcu_touches _ _ u).keys (by decide))
    · exact kept.trans told
    · exact late.trans ((takeWord_keys u).trans (early.trans told))

theorem correct_keys (began : SyncState) (correction : Int) (s : State) :
    (s.correct began correction).keys.Subperm s.keys := by
  unfold State.correct
  split
  · exact stepTime_keys correction s
  · exact List.Subperm.refl _

/-- Of a round only the correction's step reaches the schedule (R55). -/
theorem roundAt_keys (boundary : Micros) (s : State) : (s.roundAt boundary).keys.Subperm s.keys := by
  unfold State.roundAt
  dsimp only
  refine ((setIku_touches _ _).keys (by decide)).trans (((setAgu_touches _ _).keys (by decide)).trans ?_)
  refine ((buildBeat_touches _ _ _ _).keys (by decide)).trans (((setAgu_touches _ _).keys (by decide)).trans ?_)
  refine ((updateSync_touches _ _ _ _).keys (by decide)).trans ((correct_keys _ _ _).trans ?_)
  exact ((setAgu_touches _ _).keys (by decide)).trans ((agePeers_touches s).keys (by decide))

theorem syncRound_keys (s : State) : s.syncRound.keys.Subperm s.keys := by
  unfold State.syncRound
  split
  · exact roundAt_keys _ s
  · exact List.Subperm.refl _

theorem endWindow_keys (s : State) : s.endWindow.keys.Subperm s.keys := by
  have acquired : s.acquire.keys.Subperm s.keys := by
    unfold State.acquire
    dsimp only
    exact ((setIku_touches _ _).keys (by decide)).trans (((tellClu_touches _ _).keys (by decide)).trans
      (((setAgu_touches _ _).keys (by decide)).trans (stepTime_keys _ s)))
  exact ((post_touches _ _).keys (by decide)).trans (((setStc_touches _ _).keys (by decide)).trans acquired)

/-! ## Frames and edges -/

theorem intake_scheduleOk (a : Accepted) {s : State} (ok : s.ScheduleOk) : (s.intake a).ScheduleOk := by
  have dispatched : ∀ (content : Content) (u : State), u.ScheduleOk → (u.dispatch a content).ScheduleOk := fun content u ok => by
    unfold State.dispatch
    split
    · split
      · exact ok
      · split
        · exact (beatSample_touches _ _ _ _ _ _ _).scheduleOk (by decide) ok
        · exact ok
    · exact scheduleOk_of_subperm (recallEntries_keys _ u) ok
    · split
      · exact ok
      · exact react_scheduleOk _ ok
    · exact takeCue_scheduleOk _ _ ok
  have clashed : (if s.isClash a then s.idClash else s).ScheduleOk := by
    split
    · exact (idClash_touches s).scheduleOk (by decide) ok
    · exact ok
  refine gate_keeps (P := State.ScheduleOk) ((malformed_touches _ _).scheduleOk (by decide))
    (fun content _ => dispatched content _) ?_
  generalize (if s.isClash a then s.idClash else s) = u at clashed
  split
  · exact (heard_touches _ _).scheduleOk (by decide) clashed
  · exact clashed

theorem takeEdge_scheduleOk (input : Fin 4) (edge : Edge) {s : State} (ok : s.ScheduleOk) :
    (s.takeEdge input edge).ScheduleOk := by
  unfold State.takeEdge State.takeSeenEdge
  dsimp only
  have seen := (edgeSeen_steady s).scheduleOk ok
  generalize s.edgeSeen.2 = u at seen ⊢
  have noticed : ∀ c x d b, (((u.spend c (.spacingEnd input)).setMarkInput input x).postIf d b).ScheduleOk := fun _ _ _ _ =>
    (postIf_touches _ _ _).scheduleOk (by decide) ((setMarkInput_touches _ _ _).scheduleOk (by decide)
      ((spend_touches _ _ _).scheduleOk (by decide) seen))
  split
  · exact (announce_touches _ _).scheduleOk (by decide) (react_scheduleOk _ (noticed _ _ _ _))
  · exact react_scheduleOk _ (noticed _ _ _ _)

/-! ## Every step -/

theorem expire_scheduleOk {s : State} {stored : State → Option Micros} {event : State → State}
    (owner : ∀ u : State, (event u).keys.Subperm u.keys) (ok : s.ScheduleOk) : (s.expire stored event).ScheduleOk :=
  expire_keeps (P := State.ScheduleOk) (scheduleOk_of_subperm (takeWord_keys s))
    (fun t u => (runTo_touches t u).scheduleOk (by decide)) (fun _ u _ _ => scheduleOk_of_subperm (owner u)) ok

theorem unlessSpent_scheduleOk {s : State} {c : Instr} {event : State → State}
    (owner : s.ScheduleOk → (event s).ScheduleOk) (ok : s.ScheduleOk) : (s.unlessSpent c event).ScheduleOk :=
  unlessSpent_keeps (P := State.ScheduleOk) (scheduleOk_of_subperm (takeWord_keys s)) (fun _ _ ok => ok) owner ok

theorem takeCommand_scheduleOk {s : State} {handle : State → State × Reply}
    (owner : s.ScheduleOk → (handle s).1.ScheduleOk) (ok : s.ScheduleOk) : (s.takeCommand handle).ScheduleOk :=
  takeCommand_keeps (P := State.ScheduleOk) (fun _ _ ok => ok) owner ok

/-- An empty schedule is within its bounds. -/
theorem scheduleOk_of_empty {s : State} (empty : s.csu.schedule = []) : s.ScheduleOk := by
  rw [scheduleOk_iff, State.keys, empty]
  exact ⟨Nat.zero_le _, .nil⟩

theorem exec_scheduleOk (c : Instr) {s t : State} (ok : s.ScheduleOk) (ran : exec c s = .next t) : t.ScheduleOk := by
  by_cases quiet : Instr.isSteady c = true
  · exact (exec_steady c quiet ran).scheduleOk ok
  cases c with
  | setStation a =>
    have frame := configure_touches (values := configOf a) (write := State.writeStation) fun _ => setStc_touches s _
    exact next_keeps ran (takeCommand_scheduleOk (frame.scheduleOk (by decide)) ok)
  | join => exact next_keeps ran (takeCommand_scheduleOk ((join_touches s).scheduleOk (by decide)) ok)
  | restart =>
    refine next_keeps ran (takeCommand_scheduleOk (fun _ => scheduleOk_of_empty ?_) ok)
    exact congrArg CsuState.schedule (post_csu .restarted s.restartBlocks)
  | pinReset => exact next_keeps ran (scheduleOk_of_empty rfl)
  | postCueLocal a => exact next_keeps ran (takeCommand_scheduleOk (postLocal_scheduleOk a) ok)
  | postRecallLocal a => exact next_keeps ran (takeCommand_scheduleOk (scheduleOk_of_subperm (recallLocal_keys a s)) ok)
  | markEdge input edge =>
    refine next_keeps ran ?_
    split
    · exact takeEdge_scheduleOk input edge ok
    · exact ok
  | acceptance f ack =>
    obtain steady | ⟨u, a, steady, rfl⟩ := acceptance_cases ran
    · exact steady.scheduleOk ok
    · exact intake_scheduleOk a (steady.scheduleOk ok)
  | recoveryTimeExpiry => exact next_keeps ran (expire_scheduleOk (fun u => (recoverBy_touches true u).keys (by decide)) ok)
  | syncRound => exact next_keeps ran (expire_scheduleOk syncRound_keys ok)
  | listenWindowEnd => exact next_keeps ran (expire_scheduleOk endWindow_keys ok)
  | scheduleExpiry => exact next_keeps ran (expire_scheduleOk expireFirst_keys ok)
  | staleTimeExpiry p => exact next_keeps ran (expire_scheduleOk (fun u => (expireStale_touches p u).keys (by decide)) ok)
  | pulseEnd line =>
    exact next_keeps ran
      (unlessSpent_scheduleOk (expire_scheduleOk fun u => (endPulse_touches line u).keys (by decide)) ok)
  | spacingEnd input =>
    exact next_keeps ran
      (unlessSpent_scheduleOk (expire_scheduleOk fun u => (setMarkInput_touches _ _ u).keys (by decide)) ok)
  | _ => exact absurd rfl quiet

/-- Settles O57: an entry joins the schedule in the place of one of its key, or where there is room for a new one. -/
theorem stepKeepsScheduleKeys : Obligations.StepKeepsScheduleKeys := fun _ _ =>
  step_keeps (P := State.ScheduleOk) (fun c _ _ => exec_scheduleOk c) (fun _ _ => id) (fun _ => id)
    (fun s => scheduleOk_of_subperm (takeWord_keys s)) (fun s => (settleSpans_touches s).scheduleOk (by decide))
    (fun s => (tick_touches s).scheduleOk (by decide))

end Sys2Proof.Machine
end

section
/-! SUPPORT. An arrival (O27): schedule order, the word of a step that it meets, and what is made of an arrival ahead and of one whose due time has been reached. -/

namespace Sys2Proof.Machine

/-! ## Schedule order (R99, R106) -/

theorem before_aheadNow_iff (s : State) (a b : Entry) :
    before s.aheadNow a b = true ↔ standsBefore s.csu.word s.micros a b :=
  (standsBefore_iff s.csu s.micros a b).symm

theorem entryPutInScheduleOrder : Claims.EntryPutInScheduleOrder := by
  intro e schedule s
  refine ⟨before_aheadNow_iff s, _, _, List.takeWhile_append_dropWhile.symm, insertEntry_eq s.aheadNow e schedule,
    fun x m => ?_, fun x first => ?_⟩
  · have behind := List.mem_takeWhile_imp m
    rwa [Bool.not_eq_true', ← Bool.not_eq_true, before_aheadNow_iff] at behind
  · have stops := List.head?_dropWhile_not (fun x => !before s.aheadNow e x) schedule
    rw [first] at stops
    rw [← before_aheadNow_iff]
    simpa using stops

/-! ## The word of a step (R116) -/

/-- The word is taken before what meets it, or stays held. -/
theorem meetWord_of_some {s : State} {w : StepWord} (held : s.csu.word = some w) :
    s.meetWord = s.drawn ∨ s.meetWord = s.drawn.takeWord := by
  rw [State.meetWord, held]
  dsimp only
  split
  · exact .inr rfl
  · exact .inl rfl

theorem arrivalMeetsStep : Claims.ArrivalMeetsStep :=
  ⟨fun _ none => ⟨fun e => ⟨arrive_of_none none e, arriveLocal_of_none none e⟩, recallEntries_of_none none⟩,
    fun _ s held => ⟨s.meetWord, meetWord_of_some held, fun _ => ⟨rfl, rfl⟩, fun _ => rfl⟩⟩

/-! ## The due time (R102, R103) -/

section DueTime

variable {due : Micros} {s : State}

theorem dueTime_past (reached : ¬Claims.ahead due s.micros) : s.dueTime due = .past :=
  if_pos ((reached_iff _ _).mpr reached)

theorem dueTime_beyond (ahead : Claims.ahead due s.micros) (far : 2 ^ 30 < (due - s.micros).toNat) :
    s.dueTime due = .beyond := by
  rw [State.dueTime, if_neg fun reached => (reached_iff _ _).mp reached ahead]
  exact if_pos far

theorem dueTime_ahead (some : 1 ≤ (due - s.micros).toNat) (near : (due - s.micros).toNat ≤ 2 ^ 30) :
    s.dueTime due = .ahead := by
  have ahead : Claims.ahead due s.micros := ⟨some, by omega⟩
  rw [State.dueTime, if_neg fun reached => (reached_iff _ _).mp reached ahead]
  exact if_neg (Nat.not_lt.mpr near)

end DueTime

/-! ## Keys and revisions (R104) -/

theorem entryFor_of_fresh {key : CueKey} {s : State} (fresh : ∀ x ∈ s.csu.schedule, x.key ≠ key) :
    s.entryFor key = none :=
  List.find?_eq_none.mpr fun x m => by simpa using fresh x m

section Revision

variable {old e : Entry} {s : State} (onTime : e.late = false)
include onTime

/-- An entry never fired late is itself with its late flag cleared. -/
theorem clearLate_of_onTime : { e with late := false } = e := by
  rw [← onTime]

theorem revise_same (same : { old with late := false } = e) : s.revise old e = s :=
  if_pos (decide_eq_true (same.trans (clearLate_of_onTime onTime).symm))

theorem revise_other (other : { old with late := false } ≠ e) :
    let revised := s.setCsu
      { s.csu with schedule := insertEntry s.aheadNow e (s.csu.schedule.filter fun x => x.key ≠ e.key) }
    s.revise old e =
      if old.notify || e.notify then revised.post (.schedule .revised e.key e.target 0) else revised := by
  have differs : ¬sameCue old e = true := by
    rw [sameCue, decide_eq_true_iff, clearLate_of_onTime onTime]
    exact other
  rw [State.revise, if_neg differs, clearLate_of_onTime onTime]
  rfl

end Revision

/-! ## Arrivals ahead (R102, R104 to R106) -/

section Ahead

variable {e : Entry} {s : State} (ahead : s.dueTime e.due = .ahead)
include ahead

theorem decideArrival_places (fresh : s.entryFor e.key = none) : s.decideArrival e = s.place e := by
  rw [State.decideArrival, ahead]
  dsimp only
  rw [fresh]

theorem decideArrival_revises {old : Entry} (held : s.entryFor e.key = some old) :
    s.decideArrival e = s.revise old e := by
  rw [State.decideArrival, ahead]
  dsimp only
  rw [held]

end Ahead

theorem arrivalAheadDecided : Claims.ArrivalAheadDecided := by
  intro e s onTime ahead
  refine ⟨fun far => ?_, fun near => ?_⟩
  · rw [State.decideArrival, dueTime_beyond ahead far]
    rfl
  · have within := dueTime_ahead ahead.1 near
    refine ⟨fun fresh room => ?_, fun last fresh full final => ?_, fun old held => ?_⟩
    · rw [decideArrival_places within (entryFor_of_fresh fresh), place_of_room room]
    · rw [decideArrival_places within (entryFor_of_fresh fresh), ← before_aheadNow_iff]
      exact ⟨place_evicts full final, place_drops full final⟩
    · rw [decideArrival_revises within held]
      exact ⟨revise_same onTime, revise_other onTime⟩

/-! ## Arrivals past their due time (R103) -/

theorem place_placed (e : Entry) (s : State) : Claims.placed e s (s.place e) := by
  refine ⟨place_of_room, fun last full final => ?_⟩
  rw [← before_aheadNow_iff]
  exact ⟨place_evicts full final, place_drops full final⟩

theorem superseded_of_none {e : Entry} {s : State} (fresh : s.entryFor e.key = none) : s.superseded e = s := by
  rw [State.superseded, fresh]

theorem superseded_of_some {e old : Entry} {s : State} (held : s.entryFor e.key = some old) :
    let cleared := s.setCsu { s.csu with schedule := s.csu.schedule.filter fun x => x.key ≠ e.key }
    s.superseded e =
      if old.notify || e.notify then cleared.post (.schedule .revised e.key e.target 0) else cleared := by
  rw [State.superseded, held]
  rfl

/-- An arrival whose due time has been reached: its occurrence, and its re-entry where it has one. -/
theorem decideArrival_past {e : Entry} {s : State} (reached : ¬Claims.ahead e.due s.micros) :
    let done := Claims.lateHandled e (s.micros - e.due).toNat (s.superseded e)
    (done.2 = none → s.decideArrival e = done.1)
      ∧ ∀ again, done.2 = some again → s.decideArrival e = done.1.place again := by
  intro done
  have past : s.decideArrival e = s.arrivePast e := by
    rw [State.decideArrival, dueTime_past reached]
  rw [past, arrivePast_eq, lateOccurrence_eq]
  dsimp only [distance, done]
  exact ⟨fun none => by rw [none], fun again some => by rw [some]⟩

theorem arrivalPastDueDecided : Claims.ArrivalPastDueDecided := by
  intro e s u reached clears
  have supersedes : s.superseded e = u := by
    obtain ⟨fresh, rfl⟩ | ⟨old, held, rfl⟩ := clears
    · exact superseded_of_none (entryFor_of_fresh fresh)
    · exact superseded_of_some held
  subst supersedes
  obtain ⟨ends, again⟩ := decideArrival_past reached
  exact ⟨ends, fun e' some => again e' some ▸ place_placed e' _⟩

/-- Settles O27: the order by the keys of R99, and an arrival by its due time, its key and the room there is. -/
theorem arrivalDecided : Obligations.ArrivalDecided :=
  ⟨entryPutInScheduleOrder, arrivalMeetsStep, arrivalAheadDecided, arrivalPastDueDecided⟩

end Sys2Proof.Machine
end

section
/-! SUPPORT. POST_CUE and POST_RECALL, LOCAL (O15, O18): the arrival that a post makes and its reply, and the entries that a recall removes. -/

namespace Sys2Proof.Machine

/-! ## The decision of a LOCAL post (R101) -/

/-- A LOCAL post is taken, or refused for its due time or for want of room. -/
theorem decideLocal_status (e : Entry) (s : State) :
    (s.decideLocal e).2 = .ok ∨ (s.decideLocal e).2 = .refusedRange ∨ (s.decideLocal e).2 = .refusedFull := by
  unfold State.decideLocal
  split
  · exact .inr (.inl rfl)
  · exact .inr (.inl rfl)
  · split
    · exact .inl rfl
    · split
      · exact .inr (.inr rfl)
      · exact .inl rfl

section DecideLocal

variable {e : Entry} {s : State}

/-- A due time that a bus arrival would find reached, or beyond the horizon, is out of range. -/
theorem decideLocal_outOfRange (out : (e.due - s.micros).toNat = 0 ∨ 2 ^ 30 < (e.due - s.micros).toNat) :
    s.decideLocal e = (s, .refusedRange) := by
  unfold State.decideLocal
  by_cases ahead : Claims.ahead e.due s.micros
  · have far : 2 ^ 30 < (e.due - s.micros).toNat := out.resolve_left (Nat.ne_of_gt ahead.1)
    rw [dueTime_beyond ahead far]
  · rw [dueTime_past ahead]

variable (ahead : s.dueTime e.due = .ahead)
include ahead

theorem decideLocal_revises {old : Entry} (held : s.entryFor e.key = some old) :
    s.decideLocal e = (s.revise old e, .ok) := by
  rw [State.decideLocal, ahead]
  dsimp only
  rw [held]

variable (fresh : s.entryFor e.key = none)
include fresh

theorem decideLocal_places (room : s.roomFor e ≠ .none) : s.decideLocal e = (s.place e, .ok) := by
  rw [State.decideLocal, ahead]
  dsimp only
  rw [fresh]
  exact if_neg room

theorem decideLocal_full (noRoom : s.roomFor e = .none) : s.decideLocal e = (s, .refusedFull) := by
  rw [State.decideLocal, ahead]
  dsimp only
  rw [fresh]
  exact if_pos noRoom

end DecideLocal

/-! ## POST_CUE, LOCAL -/

theorem localTarget_eq {topic : Topic} {s : State} {target : Target} (names : Claims.localTarget topic s target) :
    s.localTarget topic = target := by
  obtain ⟨hit, found, first, rfl⟩ | ⟨none, rfl⟩ := names
  · rw [State.localTarget, hitFor_some found first]
  · rw [State.localTarget, hitFor_none none]

/-- A post in range hands its arrival to the CSU, and replies by what became of it. -/
theorem postLocal_taken {a : CueArgs} {action : Action} {target : Target} {s : State} (joined : s.stc.station = .joined)
    (fields : cueOf a s.micros = some (postedCue a action s.micros)) (names : Claims.localTarget a.topic s target) :
    s.postLocal a =
      ((s.arriveLocal (Claims.localEntry a action target s)).1,
        localReply (s.arriveLocal (Claims.localEntry a action target s)).2) := by
  have entry : s.localCue a.notify (postedCue a action s.micros) = Claims.localEntry a action target s := by
    rw [State.localCue, show (postedCue a action s.micros).topic = a.topic from rfl, localTarget_eq names]
    rfl
  rw [State.postLocal, if_neg (not_not_intro joined), fields]
  dsimp only
  rw [entry]

/-- The reply that POST_CUE, LOCAL, latches is that of its arrival. -/
theorem execPostCueLocal_replied {a : CueArgs} {e : Entry} {s : State} (isOpen : s.PortOpen)
    (taken : s.postLocal a = ((s.arriveLocal e).1, localReply (s.arriveLocal e).2)) :
    exec (.postCueLocal a) s = .next
      ((s.arriveLocal e).1.replied (localReply (s.arriveLocal e).2).status.code (localReply (s.arriveLocal e).2).body) := by
  refine congrArg Host.Outcome.next ((takeCommand_of_touches isOpen (postLocal_touches a s) (by decide)).trans ?_)
  rw [taken]

/-- Settles O15: the post as an arrival, its decision by due time, key and room, and the reply of each. -/
theorem localPostDecidedAsArrival : Obligations.LocalPostDecidedAsArrival := by
  intro a action target s isOpen joined number code width period names e ahead u
  have fields : cueOf a s.micros = some (postedCue a action s.micros) :=
    cueOf_inRange number code (fun pulse zero => absurd (width pulse) (by simp [zero]))
      (fun present zero => absurd (period present) (by simp [zero])) s.micros
  have posted : exec (.postCueLocal a) s = .next (u.1.replied (localReply u.2).status.code (localReply u.2).body) :=
    execPostCueLocal_replied isOpen (postLocal_taken joined fields names)
  have decided : s.csu.word = none → ∀ {t status}, s.decideLocal e = (t, status) →
      exec (.postCueLocal a) s = .next (t.replied (localReply status).status.code (localReply status).body) :=
    fun none t status is => by
      have here : u = (t, status) := (arriveLocal_of_none none e).trans is
      rw [posted, here]
  have standing : s.csu.word = none → ∀ x y, standsBefore none s.micros x y ↔ before s.aheadNow x y = true :=
    fun none x y => by rw [before_aheadNow_iff, none]
  refine ⟨?_, fun none out => decided none (decideLocal_outOfRange out), fun none some near => ?_⟩
  · have status : u.2 = .ok ∨ u.2 = .refusedRange ∨ u.2 = .refusedFull := decideLocal_status e s.meetWord
    refine status.imp (fun is => ⟨is, ?_⟩) (Or.imp (fun is => ⟨is, ?_⟩) fun is => ⟨is, ?_⟩)
    all_goals rw [posted, is]; rfl
  · have within := dueTime_ahead some near
    refine ⟨fun fresh room => ?_, fun last fresh full final => ?_, fun old held => ?_⟩
    · have places := decideLocal_places within (entryFor_of_fresh fresh) (by rw [roomFor_of_room room]; nofun)
      exact (decided none places).trans (by rw [place_of_room room]; rfl)
    · have room := roomFor_of_full (e := e) full final
      rw [standing none]
      refine ⟨fun first => ?_, fun behind => ?_⟩
      · rw [if_pos first] at room
        have places := decideLocal_places within (entryFor_of_fresh fresh) (by rw [room]; nofun)
        exact (decided none places).trans (by rw [place_evicts full final first]; rfl)
      · rw [if_neg behind] at room
        exact decided none (decideLocal_full within (entryFor_of_fresh fresh) room)
    · have revises := decided none (decideLocal_revises within held)
      refine ⟨fun same => ?_, fun other => ?_⟩
      · exact revises.trans (by rw [revise_same rfl same]; rfl)
      · exact revises.trans (by rw [revise_other rfl other]; rfl)

/-! ## POST_RECALL, LOCAL (R111, R112) -/

theorem recallNames_eq (what : Recall) (e : Entry) : what.names e = Claims.recallNamesEntry what e := by
  cases what with
  | byKey key => rfl
  | byTopic code mask => cases topic : e.topic <;> simp [Recall.names, Claims.recallNamesEntry, topic, topicMatches]

/-- The entries a recall names are removed, and those of them that notify bring RECALLED, in schedule order (R111). -/
theorem removeNamed_eq (what : Recall) (s : State) :
    s.removeNamed what =
      (s.csu.schedule.filter fun e => Claims.recallNamesEntry what e && e.notify).foldl
        (fun s e => s.post (.schedule .recalled e.key e.target 0))
        (s.setCsu { s.csu with schedule := s.csu.schedule.filter fun e => !Claims.recallNamesEntry what e }) := by
  have names : what.names = Claims.recallNamesEntry what := funext (recallNames_eq what)
  have notifying : (s.csu.schedule.filter fun e => Claims.recallNamesEntry what e && e.notify) =
      (s.csu.schedule.filter (Claims.recallNamesEntry what)).filter Entry.notify := by
    rw [List.filter_filter]
    exact List.filter_congr fun e _ => Bool.and_comm _ _
  rw [State.removeNamed, names, notifying]
  exact List.foldl_filter.symm

theorem recallLocal_taken {a : RecallArgs} {what : Recall} {s : State} (joined : s.stc.station = .joined)
    (fields : recallOf a = some what) : s.recallLocal a = (s.recallEntries what, .untagged) := by
  simp [State.recallLocal, joined, fields]

/-- Settles O18: the recall handed to the CSU, and the entries it names removed. -/
theorem localRecallRemovesNamedEntries : Obligations.LocalRecallRemovesNamedEntries := by
  intro a what s isOpen joined named
  have recalled : exec (.postRecallLocal a) s = .next ((s.recallEntries what).replied 0 [0, 0]) := by
    refine congrArg Host.Outcome.next ((takeCommand_of_touches isOpen (recallLocal_touches a s) (by decide)).trans ?_)
    rw [recallLocal_taken joined (recallOf_named named)]
    rfl
  exact ⟨recalled, fun none => by rw [recalled, recallEntries_of_none none, removeNamed_eq]⟩

end Sys2Proof.Machine
end

section
/-! SUPPORT. SCHEDULE_EXPIRY (O43): the first entry fired at its due time, and its repeat one period later. -/

namespace Sys2Proof.Machine

/-- At its due time an occurrence has passed none before it. -/
theorem occurrencesMissed_onTime (rpt : Option Repeat) : occurrencesMissed rpt 0 true = 0 := by
  cases rpt with
  | none => rfl
  | some r => simp [occurrencesMissed, occurrencesPassed, occurrencesCounted]

/-- A firing leaves the CSU and bus time. -/
theorem fired_csu (late : Bool) (e : Entry) (s : State) : (Claims.fired late e s).csu = s.csu := by
  rw [← fire_eq]
  exact (fire_touches late e s).csu (by decide)

theorem fired_micros (late : Bool) (e : Entry) (s : State) : (Claims.fired late e s).micros = s.micros := by
  rw [← fire_eq]
  exact (fire_touches late e s).micros (by decide)

/-- A firing that is handed to no line: its notice, and nothing else (R107, R108). -/
theorem fired_of_no_line {e : Entry} (noLine : e.action = .note ∨ e.target = none) (s : State) :
    Claims.fired false e s = if e.notify then s.post (.schedule .fired e.key e.target 0) else s := by
  have handed : s.handOver e = (s, .applied) := by
    rw [handOver_eq]
    obtain note | none := noLine
    · cases target : e.target with
      | none => rfl
      | some line => exact if_pos note
    · rw [none]
  rw [← fire_eq, State.fire, handed]
  cases notify : e.notify <;> simp [firingNotice, Entry.notice]

/-- The first entry leaves and fires, and re-enters where a firing is left (R109, R110). -/
theorem expireFirst_eq {e : Entry} {rest : List Entry} {s : State} (first : s.csu.schedule = e :: rest) :
    let done := Claims.fired false e (s.setCsu { s.csu with schedule := rest })
    s.expireFirst =
      (({ e with late := false } : Entry).reentry 0).elim done fun again =>
        done.setCsu { s.csu with schedule := insertEntry done.aheadNow again rest } := by
  intro done
  have fired : ((s.setSchedule rest).fire false e).1 = done := fire_eq false e _
  have csu : done.csu = { s.csu with schedule := rest } := fired_csu false e _
  have late : ((s.setSchedule rest).fire false e).2 = { e with late := false } := rfl
  have told : done.postMissed e (occurrencesMissed e.rpt 0 true) = done := by
    rw [occurrencesMissed_onTime]
    rfl
  rw [State.expireFirst, first]
  dsimp only
  rw [fired, late, told]
  cases ({ e with late := false } : Entry).reentry 0 with
  | none => rfl
  | some again =>
    change done.insert again = done.setCsu _
    rw [State.insert, State.setSchedule, csu]

/-- SCHEDULE_EXPIRY with no armed time before it runs bus time on to the first entry's due time (R34, R109). -/
theorem execScheduleExpiry_taken {e : Entry} {rest : List Entry} {s : State} (first : s.csu.schedule = e :: rest)
    (next : Claims.expiresNext e.due s) : exec .scheduleExpiry s = .next (s.runTo e.due).expireFirst := by
  obtain ⟨none, ahead, nearest⟩ := next
  have armed : s.armedDue = some e.due := by rw [State.armedDue, first]; rfl
  exact congrArg Host.Outcome.next (expire_taken none armed ahead nearest)

theorem scheduleExpiryActsOnLine : Claims.ScheduleExpiryActsOnLine := by
  intro e rest s first next done again
  have csu : (s.runTo e.due).csu = s.csu := (runTo_touches e.due s).csu (by decide)
  have taken := execScheduleExpiry_taken first next
  rw [expireFirst_eq (csu ▸ first), csu] at taken
  have once : ∀ {x : Repeat}, e.rpt = some x → ({ e with late := false } : Entry).reentry 0 =
      if x.count ≠ 0 ∧ x.count ≤ 1 then none
      else some
        { e with due := e.due + BitVec.ofNat 32 x.period, rpt := some { x with count := x.count - 1 }, late := false } := by
    intro x rpt
    have entry := reentry_of_repeat (e := { e with late := false }) rpt 0
    simpa only [Nat.zero_div, Nat.zero_add, Nat.one_mul] using entry
  refine ⟨fun none => ?_, fun x rpt last => ?_, fun x rpt more => ?_⟩
  · have ends : ({ e with late := false } : Entry).reentry 0 = .none := by simp [Entry.reentry, nextOccurrence, none]
    rwa [ends] at taken
  · rwa [once rpt, if_pos ⟨by omega, by omega⟩] at taken
  · rwa [once rpt, if_neg (by omega)] at taken

theorem scheduleExpiryFiresFirst : Claims.ScheduleExpiryFiresFirst := by
  intro e rest s first noLine next r fired again
  have done : Claims.fired false e ((s.runTo e.due).setCsu { s.csu with schedule := rest }) = fired :=
    fired_of_no_line noLine r
  have measure : fired.aheadNow = r.aheadNow := by
    rw [← done, State.aheadNow, State.aheadNow, fired_csu, fired_micros]
  obtain ⟨ends, last, goesOn⟩ := scheduleExpiryActsOnLine e rest s first next
  rw [done] at ends last
  have reenters : ∀ {x : Repeat}, e.rpt = some x → x.count ≠ 1 →
      exec .scheduleExpiry s = .next (fired.setCsu { s.csu with schedule := again (x.count - 1) }) := by
    intro x rpt more
    have on := goesOn x rpt more
    rw [done, measure] at on
    simpa only [again, rpt, Option.map_some, Option.getD_some] using on
  refine ⟨ends, fun x rpt zero => ?_, last, fun x rpt more => reenters rpt (by omega)⟩
  simpa only [zero] using reenters rpt (by omega)

/-- Settles O43: the expiry at any line, and at none as the line action that does nothing. -/
theorem scheduleExpiryFiresFirstEntry : Obligations.ScheduleExpiryFiresFirstEntry :=
  ⟨scheduleExpiryFiresFirst, scheduleExpiryActsOnLine⟩

end Sys2Proof.Machine
end

section
/-! SUPPORT. The cue lines (O28, O7): what an action makes of a line, what a change of the sync state as told makes of all of them, and the line that SET_LINE writes. -/

namespace Sys2Proof.Machine

/-! ## Actions on a line (R121 to R123, R125) -/

/-- A line may act where it is unguarded, and in LOCKED (R121). -/
theorem mayNotAct_eq_false {told : SyncState} {l : Line} :
    l.mayNotAct told = false ↔ l.guarded = false ∨ told = .locked := by
  rw [Line.mayNotAct, Bool.and_eq_false_iff, decide_eq_false_iff_not, not_not]

theorem act_of_mayNot {told : SyncState} {l : Line} (guarded : l.guarded = true) (outside : told ≠ .locked) (now : Micros)
    (action : Action) (width : Option (BitVec 16)) : l.act told now action width = (l, .suppressed) :=
  if_pos (by rw [Line.mayNotAct, guarded, decide_eq_true outside]; rfl)

theorem act_of_may {told : SyncState} {l : Line} (may : l.guarded = false ∨ told = .locked) (now : Micros)
    (action : Action) (width : Option (BitVec 16)) :
    l.act told now action width = (l.settled now).apply now action width :=
  if_neg (by rw [mayNotAct_eq_false.mpr may]; exact Bool.false_ne_true)

section Settled

variable {now : Micros} {l : Line}

theorem settled_of_none (absent : l.pulse = none) : l.settled now = l :=
  if_neg (by rw [Line.endsNow, absent]; exact Bool.false_ne_true)

variable {stop : Micros} (held : l.pulse = some stop)
include held

/-- A pulse whose end lies ahead goes on (R125). -/
theorem settled_of_ahead (ahead : Claims.ahead stop now) : l.settled now = l := by
  have going : ¬l.endsNow now = true := by
    rw [Line.endsNow, held, Option.any_some, reached_iff, not_not]
    exact ahead
  exact if_neg going

/-- A pulse whose end has been reached is ended first (R125). -/
theorem settled_of_reached (reached : ¬Claims.ahead stop now) : l.settled now = l.endPulse := by
  have ends : l.endsNow now = true := by
    rw [Line.endsNow, held, Option.any_some, reached_iff]
    exact reached
  exact if_pos ends

end Settled

/-- SET and CLEAR write level and pulse, so it is the same whether the pulse has been ended before (R122). -/
theorem apply_settled_of_level (now : Micros) (l : Line) :
    (l.settled now).apply now .set none = ({ l with level := true, pulse := none }, .applied)
      ∧ (l.settled now).apply now .clear none = ({ l with level := false, pulse := none }, .applied) := by
  unfold Line.settled
  split <;> exact ⟨rfl, rfl⟩

theorem apply_of_pulse {l : Line} {stop : Micros} (held : l.pulse = some stop) (now : Micros)
    (width : Option (BitVec 16)) :
    l.apply now .toggle none = ({ l with level := false, pulse := none }, .applied)
      ∧ l.apply now .pulse width = (l, .overlap) := by
  unfold Line.apply
  rw [held]
  exact ⟨rfl, rfl⟩

theorem apply_of_none {l : Line} (absent : l.pulse = none) (now : Micros) (width : BitVec 16) :
    l.apply now .toggle none = ({ l with level := !l.level }, .applied)
      ∧ l.apply now .pulse (some width) =
        ({ l with level := true, pulse := some (now + BitVec.ofNat 32 width.toNat) }, .applied) := by
  unfold Line.apply
  rw [absent]
  exact ⟨rfl, rfl⟩

theorem lineActionTable : Claims.LineActionTable := by
  intro told now width l
  refine ⟨fun guarded outside action w => act_of_mayNot guarded outside now action w, fun may => ?_⟩
  simp only [act_of_may may]
  obtain ⟨sets, clears⟩ := apply_settled_of_level now l
  refine ⟨sets, clears, fun absent => ?_, fun stop held ahead => ?_, fun stop held reached => ?_⟩
  · rw [settled_of_none absent]
    exact apply_of_none absent now width
  · rw [settled_of_ahead held ahead]
    exact apply_of_pulse held now (some width)
  · rw [settled_of_reached held reached]
    exact apply_of_none (l := l.endPulse) rfl now width

/-! ## The sync state as told (R126, R127) -/

theorem tell_lines (sync : SyncState) (c : CluState) (i : Fin 8) :
    (c.tell sync).lines[i] = if c.told = .locked ∧ sync ≠ .locked then c.lines[i].unlocked else c.lines[i] := by
  unfold CluState.tell
  dsimp only
  split
  · exact getElem_mapVector Line.unlocked c.lines i i.isLt
  · rfl

theorem leavingLockedGuardsLines : Claims.LeavingLockedGuardsLines := by
  intro sync s i
  refine ⟨rfl, (tell_lines sync s.clu i).trans ?_⟩
  by_cases leaves : s.clu.told = .locked ∧ sync ≠ .locked
  · rw [if_pos leaves, Line.unlocked]
    simp only [leaves.1, leaves.2, ne_eq, not_false_eq_true, true_and]
    rfl
  · rw [if_neg leaves, if_neg fun guarded => leaves ⟨guarded.1, guarded.2.1⟩]

/-- Settles O28: an action on a line by its pulse, and the lines as the sync state told changes. -/
theorem lineActionsAndGuarding : Obligations.LineActionsAndGuarding := ⟨lineActionTable, leavingLockedGuardsLines⟩

/-! ## SET_LINE (R120, R129, R144) -/

theorem execSetLine_taken {a : LineArgs} {line : Fin 8} {s : State} (isOpen : s.PortOpen)
    (offline : s.stc.station = .offline) (names : a.line.toNat = line.val) :
    exec (.setLine a) s = .next ((s.configureLine line a).replied 0 []) :=
  congrArg Host.Outcome.next
    (takeCommand_configure isOpen offline (indexOf_val names) (setClu_touches s _) (by decide))

/-- The pin shows the new safe level through the new polarity (R120, R129). -/
theorem cuePin_configureLine (line : Fin 8) (a : LineArgs) (s : State) :
    (s.configureLine line a).cuePin line = (a.safe != a.lowTrue) := by
  change (s.clu.lines.set line _)[line].pinHigh = _
  rw [getElem_set_fin, if_pos rfl]
  rfl

/-- Settles O7: the command taken writes one line, and its reply leaves the pins. -/
theorem setLineMovesLineToSafeLevel : Obligations.SetLineMovesLineToSafeLevel := by
  intro a line s isOpen offline names
  have taken := execSetLine_taken isOpen offline names
  refine ⟨taken, fun t ran => ?_⟩
  obtain rfl := Host.Outcome.next.inj (taken.symm.trans ran)
  exact cuePin_configureLine line a s

end Sys2Proof.Machine
end

section
/-! SUPPORT. Guarded lines (O56): what an action, the end of a pulse, a step of bus time and a change of the sync state as told make of a line that is in order, and that every step keeps the lines so. -/

namespace Sys2Proof.Machine

/-! ## One line (R121 to R126) -/

section Line

variable {told : SyncState} {l : Line}

/-- Of a line that may act the invariant asks only that a pulse be asserted. -/
theorem lineOk_of_may (may : l.guarded = false ∨ told = .locked) (asserted : l.pulse.isSome → l.level = true) :
    l.Ok told := by
  refine ⟨fun guarded outside => ?_, asserted⟩
  obtain free | locked := may
  · exact absurd (guarded.symm.trans free) nofun
  · exact absurd locked outside

/-- A line without a pulse is in order where it may act, and at its safe level (R126). -/
theorem lineOk_of_none (absent : l.pulse = none) (guards : l.guarded = true → told ≠ .locked → l.level = l.safe) :
    l.Ok told :=
  ⟨fun guarded outside => ⟨guards guarded outside, absent⟩, by rw [absent]; nofun⟩

theorem toSafe_ok (told : SyncState) (l : Line) : l.toSafe.Ok told := lineOk_of_none rfl fun _ _ => rfl

/-- Only a line that may act has a pulse (R126). -/
theorem Line.Ok.may_of_pulse {stop : Micros} (ok : l.Ok told) (held : l.pulse = some stop) :
    l.guarded = false ∨ told = .locked := by
  rw [← mayNotAct_eq_false, ← Bool.not_eq_true]
  intro mayNot
  obtain ⟨guarded, outside⟩ := Bool.and_eq_true_iff.mp mayNot
  exact absurd (held.symm.trans (ok.1 guarded (of_decide_eq_true outside)).2) nofun

theorem endPulse_ok {stop : Micros} (ok : l.Ok told) (held : l.pulse = some stop) : l.endPulse.Ok told :=
  lineOk_of_may (l := l.endPulse) (ok.may_of_pulse held) nofun

theorem moved_ok (change : Int) (ok : l.Ok told) : (l.moved change).Ok told := by
  obtain ⟨guards, asserted⟩ := ok
  refine ⟨fun guarded outside => ?_, fun pulse => asserted ?_⟩
  · obtain ⟨level, absent⟩ := guards guarded outside
    exact ⟨level, by rw [Line.moved, absent]; rfl⟩
  · rwa [Line.moved, Option.isSome_map] at pulse

theorem settled_ok (now : Micros) (ok : l.Ok told) : (l.settled now).Ok told := by
  cases held : l.pulse with
  | none => rwa [settled_of_none held]
  | some stop =>
    by_cases ahead : Claims.ahead stop now
    · rwa [settled_of_ahead held ahead]
    · rw [settled_of_reached held ahead]
      exact endPulse_ok ok held

/-- A line that may act is in order after its action: only PULSE starts a pulse, and it asserts the line (R122, R123). -/
theorem apply_ok (may : l.guarded = false ∨ told = .locked) (now : Micros) (action : Action) (width : Option (BitVec 16))
    (ok : l.Ok told) : (l.apply now action width).1.Ok told := by
  unfold Line.apply
  cases action with
  | set | clear => exact lineOk_of_may may nofun
  | toggle =>
    cases held : l.pulse with
    | some stop => exact lineOk_of_may may nofun
    | none => exact lineOk_of_may may nofun
  | pulse =>
    cases held : l.pulse with
    | some stop => exact ok
    | none => exact lineOk_of_may may fun _ => rfl
  | note => exact ok

theorem settled_guarded (now : Micros) (l : Line) : (l.settled now).guarded = l.guarded := by
  unfold Line.settled
  split <;> rfl

/-- An action is suppressed on a line that may not act, and leaves any other in order (R121). -/
theorem act_ok (now : Micros) (action : Action) (width : Option (BitVec 16)) (ok : l.Ok told) :
    (l.act told now action width).1.Ok told := by
  unfold Line.act
  split
  · exact ok
  · rename_i acts
    have may := mayNotAct_eq_false.mp (Bool.eq_false_of_not_eq_true acts)
    rw [← settled_guarded now] at may
    exact apply_ok may now action width (settled_ok now ok)

end Line

/-! ## The lines of the CLU -/

/-- Every line is in order under the sync state as told: what State.LinesOk asks of the CLU alone. -/
def CluState.LinesOk (c : CluState) : Prop := ∀ i : Fin 8, c.lines[i].Ok c.told

theorem CluState.LinesOk.set {c : CluState} {line : Fin 8} {l : Line} (ok : c.LinesOk) (fits : l.Ok c.told) :
    CluState.LinesOk { c with lines := c.lines.set line l } := by
  intro i
  change (c.lines.set line l)[i].Ok c.told
  rw [getElem_set_fin]
  split
  · exact fits
  · exact ok i

theorem CluState.LinesOk.map {c : CluState} {f : Line → Line} (told : SyncState) (ok : c.LinesOk)
    (each : ∀ l : Line, l.Ok c.told → (f l).Ok told) :
    CluState.LinesOk { c with lines := mapVector f c.lines, told := told } := by
  intro i
  have line : (mapVector f c.lines)[i] = f c.lines[i] := getElem_mapVector f c.lines i i.isLt
  exact line ▸ each _ (ok i)

/-- A guarded line goes to its safe level as LOCKED is left, and outside LOCKED it is there already (R126). -/
theorem CluState.LinesOk.tell {c : CluState} (sync : SyncState) (ok : c.LinesOk) : (c.tell sync).LinesOk := by
  intro i
  rw [tell_lines]
  change Line.Ok sync _
  obtain ⟨guards, asserted⟩ := ok i
  split
  · unfold Line.unlocked
    split
    · exact toSafe_ok sync _
    · exact lineOk_of_may (.inl (Bool.eq_false_of_not_eq_true ‹_›)) asserted
  · rename_i stays
    exact ⟨fun guarded outside => guards guarded fun locked => stays ⟨locked, outside⟩, asserted⟩

/-- From s to t the sync state and what the CLU is told of it stand, and lines that are in order stay so. -/
structure KeepsLines (s t : State) : Prop where
  sync : t.agu.sync = s.agu.sync
  told : t.clu.told = s.clu.told
  lines : s.clu.LinesOk → t.clu.LinesOk

theorem KeepsLines.refl (s : State) : KeepsLines s s := ⟨rfl, rfl, id⟩

theorem KeepsLines.trans {s t u : State} (h : KeepsLines s t) (k : KeepsLines t u) : KeepsLines s u :=
  ⟨k.sync.trans h.sync, k.told.trans h.told, fun ok => k.lines (h.lines ok)⟩

theorem KeepsLines.foldl {α : Type} {f : State → α → State} (each : ∀ s a, KeepsLines s (f s a)) (l : List α) (s : State) :
    KeepsLines s (l.foldl f s) := by
  induction l generalizing s with
  | nil => exact .refl s
  | cons a rest ih => exact (each s a).trans (ih _)

theorem KeepsLines.linesOk {s t : State} (h : KeepsLines s t) (ok : s.LinesOk) : t.LinesOk := by
  obtain ⟨same, each⟩ := ok
  exact ⟨h.told.trans (same.trans h.sync.symm), h.lines each⟩

theorem keepsLines_of_clu {s t : State} (sync : t.agu.sync = s.agu.sync) (clu : t.clu = s.clu) : KeepsLines s t :=
  ⟨sync, by rw [clu], by rw [clu]; exact id⟩

theorem setAgu_keepsLines {s : State} {a : AguState} (sync : a.sync = s.agu.sync) : KeepsLines s (s.setAgu a) :=
  keepsLines_of_clu sync rfl

theorem Touches.sync {bs : List Part} {s t : State} (h : Touches bs s t) (apart : .agu ∉ bs) :
    t.agu.sync = s.agu.sync := by
  rw [h.agu_eq_but apart]

/-- The invariant reads the sync state and the CLU. -/
theorem Touches.keepsLines {bs : List Part} {s t : State} (h : Touches bs s t) (apart : .agu ∉ bs ∧ .clu ∉ bs) :
    KeepsLines s t :=
  keepsLines_of_clu (h.sync apart.1) (h.clu apart.2)

theorem Touches.linesOk {bs : List Part} {s t : State} (h : Touches bs s t) (apart : .agu ∉ bs ∧ .clu ∉ bs)
    (ok : s.LinesOk) : t.LinesOk :=
  (h.keepsLines apart).linesOk ok

/-- While time passes only the pins of the CLU change. -/
theorem keepsLines_of_time {bs : List Part} {s t : State} (h : Touches bs s t) (apart : .agu ∉ bs)
    (stand : t.clu.lines = s.clu.lines ∧ t.clu.told = s.clu.told) : KeepsLines s t := by
  obtain ⟨lines, told⟩ := stand
  refine ⟨h.sync apart, told, fun ok i => ?_⟩
  rw [lines, told]
  exact ok i

theorem runTo_keepsLines (t : Micros) (s : State) : KeepsLines s (s.runTo t) :=
  keepsLines_of_time (runTo_touches t s) (by decide) (runTo_lines t s)

theorem tick_keepsLines (s : State) : KeepsLines s s.tick :=
  keepsLines_of_time (tick_touches s) (by decide) (passCycles_lines 1 s)

/-! ## Firings and the word of a step (R107, R114) -/

theorem actOnLine_keepsLines (line : Fin 8) (action : Action) (width : Option (BitVec 16)) (s : State) :
    KeepsLines s (s.actOnLine line action width).1 := by
  have acted : KeepsLines s (s.setClu
      { s.clu with lines := s.clu.lines.set line (s.clu.lines[line].act s.clu.told s.micros action width).1 }) :=
    ⟨rfl, rfl, fun ok => ok.set (act_ok s.micros action width (ok line))⟩
  exact acted.trans ((spend_touches _ _ _).keepsLines (by decide))

theorem fire_keepsLines (late : Bool) (e : Entry) (s : State) : KeepsLines s (s.fire late e).1 := by
  have handed : KeepsLines s (s.handOver e).1 := by
    unfold State.handOver
    split
    · exact .refl s
    · exact .refl s
    · exact actOnLine_keepsLines _ _ _ s
  unfold State.fire
  dsimp only
  split
  · exact handed.trans ((post_touches _ _).keepsLines (by decide))
  · exact handed

theorem lateOccurrence_keepsLines (e : Entry) (lateness : Nat) (s : State) :
    KeepsLines s (s.lateOccurrence e lateness).1 := by
  unfold State.lateOccurrence
  split
  · exact (fire_keepsLines true e s).trans ((postMissed_touches _ _ _).keepsLines (by decide))
  · exact (postMissed_touches _ _ _).keepsLines (by decide)

theorem expireFirst_keepsLines (s : State) : KeepsLines s s.expireFirst := by
  unfold State.expireFirst
  split
  · exact .refl s
  · rename_i e rest _
    have told := (((setSchedule_touches rest s).keepsLines (by decide)).trans (fire_keepsLines false e _)).trans
      ((postMissed_touches e (occurrencesMissed e.rpt 0 true) _).keepsLines (by decide))
    dsimp only
    split
    · exact told.trans ((insert_touches _ _).keepsLines (by decide))
    · exact told

theorem takeReached_keepsLines (s : State) (e : Entry) : KeepsLines s (s.takeReached e) := by
  have done := lateOccurrence_keepsLines e (distance s.micros e.due) s
  unfold State.takeReached
  dsimp only
  split
  · exact done.trans ((insert_touches _ _).keepsLines (by decide))
  · exact done

theorem takeWord_keepsLines (s : State) : KeepsLines s s.takeWord := by
  have scheduled : ∀ l, KeepsLines s ((s.setWord none).setSchedule l) := fun _ => keepsLines_of_clu rfl rfl
  unfold State.takeWord
  split
  · exact .refl s
  · exact (scheduled _).trans (.foldl takeReached_keepsLines _ _)
  · exact (scheduled _).trans (.foldl (fun u _ => (post_touches _ u).keepsLines (by decide)) _ _)

theorem meetWord_keepsLines (s : State) : KeepsLines s s.meetWord := by
  have drawn := (drawn_touches s).keepsLines (by decide)
  unfold State.meetWord
  split
  · exact .refl s
  · split
    · exact drawn.trans (takeWord_keepsLines _)
    · exact drawn

/-! ## Arrivals and recalls (R100 to R106, R111) -/

theorem arrivePast_keepsLines (e : Entry) (s : State) : KeepsLines s (s.arrivePast e) := by
  have superseded : KeepsLines s (s.superseded e) := by
    unfold State.superseded
    split
    · exact ((removeKey_touches _ s).keepsLines (by decide)).trans ((postIf_touches _ _ _).keepsLines (by decide))
    · exact .refl s
  have done := superseded.trans (lateOccurrence_keepsLines e (distance s.micros e.due) _)
  rw [arrivePast_eq]
  dsimp only
  split
  · exact done.trans ((place_touches _ _).keepsLines (by decide))
  · exact done

theorem decideArrival_keepsLines (e : Entry) (s : State) : KeepsLines s (s.decideArrival e) := by
  unfold State.decideArrival
  split
  · exact (post_touches _ s).keepsLines (by decide)
  · exact arrivePast_keepsLines e s
  · split
    · exact (revise_touches _ _ s).keepsLines (by decide)
    · exact (place_touches _ s).keepsLines (by decide)

theorem arrive_keepsLines (e : Entry) (s : State) : KeepsLines s (s.arrive e) :=
  (meetWord_keepsLines s).trans (decideArrival_keepsLines e _)

theorem recallEntries_keepsLines (r : Recall) (s : State) : KeepsLines s (s.recallEntries r) :=
  (meetWord_keepsLines s).trans ((removeNamed_touches r _).keepsLines (by decide))

theorem react_keepsLines (m : SeenMark) (s : State) : KeepsLines s (s.react m) := by
  refine KeepsLines.foldl (fun u r => ?_) _ _
  unfold State.tryReaction
  split
  · exact arrive_keepsLines _ u
  · exact .refl u

theorem takeCue_keepsLines (origin : StationId) (c : CueContent) (s : State) : KeepsLines s (s.takeCue origin c) := by
  unfold State.takeCue
  split
  · exact arrive_keepsLines _ s
  · exact (setIku_touches _ _).keepsLines (by decide)

theorem postLocal_keepsLines (a : CueArgs) (s : State) : KeepsLines s (s.postLocal a).1 := by
  unfold State.postLocal
  split
  · exact .refl s
  · split
    · exact .refl s
    · exact (meetWord_keepsLines s).trans ((decideLocal_touches _ _).keepsLines (by decide))

theorem recallLocal_keepsLines (a : RecallArgs) (s : State) : KeepsLines s (s.recallLocal a).1 := by
  unfold State.recallLocal
  split
  · exact .refl s
  · split
    · exact .refl s
    · exact recallEntries_keepsLines _ s

/-! ## Steps of bus time, rounds and acquisition (R38, R54, R64) -/

/-- A step of bus time moves the ends of pulses, and then its word is taken (R38, R39). -/
theorem stepTime_keepsLines (amount : Int) (s : State) : KeepsLines s (s.stepTime amount) := by
  by_cases still : amount = 0
  · rw [State.stepTime, if_pos still]
    exact .refl s
  · rw [stepTime_eq still]
    have told : KeepsLines s (s.stepTold amount) :=
      ⟨rfl, rfl, fun ok => ok.map s.clu.told fun _ => moved_ok (microsChange s.btu.time amount)⟩
    obtain kept | ⟨u, early, late⟩ := reexamine_around_csu (R := KeepsLines) .refl .trans
      (Config.reexamineOrder s.draws) s.micros (microsChange s.btu.time amount) (s.stepTold amount)
      (fun u => (reexamineSq_touches _ _ u).keepsLines (by decide))
      (fun u => (reexamineFcu_touches _ _ u).keepsLines (by decide))
    · exact told.trans kept
    · exact ((told.trans early).trans (takeWord_keepsLines u)).trans late

theorem correct_keepsLines (began : SyncState) (correction : Int) (s : State) :
    KeepsLines s (s.correct began correction) := by
  unfold State.correct
  split
  · exact (stepTime_keepsLines correction s).trans (keepsLines_of_clu rfl rfl)
  · exact keepsLines_of_clu rfl rfl

/-- The peer table ages beside the sync state (R56). -/
theorem agePeers_keepsLines (s : State) : KeepsLines s s.agePeers := by
  refine KeepsLines.foldl (fun u i => ?_) _ _
  have written : ∀ p (v : State), KeepsLines v (v.setPeer i p) := fun _ _ => keepsLines_of_clu rfl rfl
  have posted : ∀ b (v : State), KeepsLines v (v.post b) := fun _ _ => (post_touches _ _).keepsLines (by decide)
  have told : ∀ p c b, KeepsLines u ((u.setPeer i p).postIf c b) := fun _ _ _ =>
    (written _ u).trans ((postIf_touches _ _ _).keepsLines (by decide))
  unfold State.agePeer
  split
  · exact .refl u
  · dsimp only
    split
    · exact ((told _ _ _).trans (written _ _)).trans (posted _ _)
    · exact told _ _ _

/-- A round that changes the sync state tells the CLU, and one that does not leaves both as they are (R54). -/
theorem updateSync_linesOk {began : SyncState} (fresh : Nat) (correction : Int) {s : State} (ok : s.LinesOk)
    (began_eq : s.agu.sync = began) : (s.updateSync began fresh correction).LinesOk := by
  obtain ⟨told, lines⟩ := ok
  unfold State.updateSync
  dsimp only
  split
  · rename_i same
    exact ⟨told.trans (began_eq.trans same.symm), lines⟩
  · refine ⟨?_, ?_⟩
    · rw [State.tellClu, setClu_agu, post_agu]
      rfl
    · rw [State.tellClu, setClu_clu, post_clu]
      exact CluState.LinesOk.tell _ lines

theorem buildBeat_keepsLines (boundary : Micros) (change : Int) (fresh : Nat) (s : State) :
    KeepsLines s (s.buildBeat boundary change fresh) := by
  unfold State.buildBeat
  dsimp only
  split
  · exact .refl s
  · exact (setAgu_keepsLines (by rfl)).trans ((placeBeat_touches _ _).keepsLines (by decide))

theorem roundAt_linesOk (boundary : Micros) {s : State} (ok : s.LinesOk) : (s.roundAt boundary).LinesOk := by
  have counted : ∀ (u : State) n, KeepsLines u (u.setAgu { u.agu with fresh := n }) := fun _ _ => setAgu_keepsLines rfl
  have corrected : ∀ fresh correction, KeepsLines s
      ((s.agePeers.setAgu { s.agePeers.agu with fresh := fresh }).correct s.agu.sync correction) := fun _ _ =>
    ((agePeers_keepsLines s).trans (counted _ _)).trans (correct_keepsLines _ _ _)
  have built : ∀ change fresh (u : State), u.LinesOk →
      ((u.setAgu u.agu.cleared).buildBeat boundary change fresh).LinesOk := fun change fresh u ok =>
    (buildBeat_keepsLines boundary change fresh (u.setAgu u.agu.cleared)).linesOk ok
  unfold State.roundAt
  dsimp only
  exact built _ _ _ (updateSync_linesOk _ _ ((corrected _ _).linesOk ok) (corrected _ _).sync)

theorem syncRound_linesOk {s : State} (ok : s.LinesOk) : s.syncRound.LinesOk := by
  unfold State.syncRound
  split
  · exact roundAt_linesOk _ ok
  · exact ok

/-- Acquisition tells the CLU the sync state that it sets (R64). -/
theorem endWindow_linesOk {s : State} (ok : s.LinesOk) : s.endWindow.LinesOk := by
  have acquired : s.acquire.LinesOk := by
    obtain ⟨-, lines⟩ := (stepTime_keepsLines (midpoint (s.offsets Peer.acquisitionOffset)) s).linesOk ok
    exact ⟨rfl, CluState.LinesOk.tell _ lines⟩
  exact (post_touches _ _).linesOk (by decide) ((setStc_touches _ _).linesOk (by decide) acquired)

/-! ## Frames and edges -/

theorem heard_keepsLines (id : StationId) (s : State) : KeepsLines s (s.heard id) := by
  have created : ∀ i j (u : State), KeepsLines u (u.createPeer i j) := fun _ _ u =>
    KeepsLines.trans (t := u.setPeer _ _) (keepsLines_of_clu rfl rfl) ((post_touches _ _).keepsLines (by decide))
  have posted : ∀ b, KeepsLines s (s.post b) := fun _ => (post_touches _ s).keepsLines (by decide)
  unfold State.heard
  split
  · split
    · exact KeepsLines.trans (t := s.setPeer _ _) (keepsLines_of_clu rfl rfl)
        ((postIf_touches _ _ _).keepsLines (by decide))
    · exact .refl s
  · split
    · exact created _ _ s
    · unfold State.heardFull
      split
      · exact (posted _).trans (created _ _ _)
      · split
        · exact .refl s
        · exact (posted _).trans (setAgu_keepsLines (by rw [post_agu]))

theorem dispatch_keepsLines (a : Accepted) (content : Content) (s : State) : KeepsLines s (s.dispatch a content) := by
  unfold State.dispatch
  split
  · split
    · exact .refl s
    · split
      · unfold State.beatSample
        split
        · exact keepsLines_of_clu rfl rfl
        · exact .refl s
      · exact .refl s
  · exact recallEntries_keepsLines _ s
  · split
    · exact .refl s
    · exact react_keepsLines _ s
  · exact takeCue_keepsLines _ _ s

theorem intake_keepsLines (a : Accepted) (s : State) : KeepsLines s (s.intake a) := by
  have clashed : KeepsLines s (if s.isClash a then s.idClash else s) := by
    split
    · exact (idClash_touches s).keepsLines (by decide)
    · exact .refl s
  have heard : ∀ u : State, KeepsLines u (if u.isHeard a then u.heard a.frame.station else u) := fun u => by
    split
    · exact heard_keepsLines _ u
    · exact .refl u
  have gated : ∀ u : State, KeepsLines u (u.gate a) := fun u =>
    gate_keeps (P := KeepsLines u) (fun _ => (malformed_touches _ u).keepsLines (by decide))
      (fun content _ _ => dispatch_keepsLines a content u) (.refl u)
  exact (clashed.trans (heard _)).trans (gated _)

theorem takeEdge_keepsLines (input : Fin 4) (edge : Edge) (s : State) : KeepsLines s (s.takeEdge input edge) := by
  have reacted : ∀ c x d b m,
      KeepsLines s ((((s.edgeSeen.2.spend c (.spacingEnd input)).setMarkInput input x).postIf d b).react m) :=
    fun _ _ _ _ _ => (((((edgeSeen_touches s).keepsLines (by decide)).trans
      ((spend_touches _ _ _).keepsLines (by decide))).trans ((setMarkInput_touches _ _ _).keepsLines (by decide))).trans
      ((postIf_touches _ _ _).keepsLines (by decide))).trans (react_keepsLines _ _)
  unfold State.takeEdge State.takeSeenEdge
  dsimp only
  split
  · exact (reacted _ _ _ _ _).trans ((announce_touches _ _).keepsLines (by decide))
  · exact reacted _ _ _ _ _

/-! ## The station bus -/

theorem endAttempt_keepsLines (how : AttemptEnd) (s : State) : KeepsLines s (s.endAttempt how) := by
  unfold State.endAttempt
  split
  · exact ((attemptEnded_touches how _ s).keepsLines (by decide)).trans (keepsLines_of_clu rfl rfl)
  · exact .refl s

theorem frameError_linesOk (role : Role) (sampled : List Bool) {s : State} (ok : s.LinesOk) :
    (s.frameError role sampled).LinesOk := by
  have reported : ((s.reportError role sampled).endAttempt .error).LinesOk :=
    (endAttempt_keepsLines _ _).linesOk ((reportError_touches role sampled s).linesOk (by decide) ok)
  unfold State.frameError
  split
  · exact ok
  · cases role <;> exact reported

theorem sof_linesOk (sampledDominant drove : Bool) {s : State} (ok : s.LinesOk) :
    ((s.hardSync.sofBit sampledDominant).sampleSof sampledDominant drove).LinesOk := by
  have bit : (s.hardSync.sofBit sampledDominant).LinesOk := by
    unfold State.sofBit
    split
    · exact (sampled_touches _ s.hardSync).linesOk (by decide) ok
    · exact ok
  unfold State.sampleSof
  split
  · exact bit
  · exact frameError_linesOk _ _ bit
  · exact (endAttempt_keepsLines .lost (State.captureSof _)).linesOk bit
  · exact bit

theorem acceptSending_linesOk (ack : Bool) {s : State} (ok : s.LinesOk) : (s.acceptSending ack).LinesOk := by
  unfold State.acceptSending
  split
  · exact ok
  · split
    · exact ok
    · split
      · exact (intake_keepsLines _ (State.markOwnEnded _).afterAcceptance).linesOk
          ((endAttempt_keepsLines (.sent !ack) _).linesOk ((reportAcceptance_touches s).linesOk (by decide) ok))
      · exact ok

theorem acceptReceived_linesOk (f : Frame) (ack : Bool) {s : State} (ok : s.LinesOk) :
    (s.acceptReceived f ack).LinesOk :=
  (intake_keepsLines _ (State.afterAcceptance _)).linesOk
    ((reportAcceptance_touches _).linesOk (by decide) ((sampled_touches _ s).linesOk (by decide) ok))

/-! ## Every step -/

theorem expire_linesOk {s : State} {stored : State → Option Micros} {event : State → State}
    (owner : ∀ u : State, u.LinesOk → (event u).LinesOk) (ok : s.LinesOk) : (s.expire stored event).LinesOk :=
  expire_keeps (P := State.LinesOk) (takeWord_keepsLines s).linesOk (fun t u => (runTo_keepsLines t u).linesOk)
    (fun _ u _ _ => owner u) ok

theorem unlessSpent_linesOk {s : State} {c : Instr} {event : State → State} (owner : s.LinesOk → (event s).LinesOk)
    (ok : s.LinesOk) : (s.unlessSpent c event).LinesOk :=
  unlessSpent_keeps (P := State.LinesOk) (takeWord_keepsLines s).linesOk (fun _ _ ok => ok) owner ok

theorem takeCommand_linesOk {s : State} {handle : State → State × Reply} (owner : KeepsLines s (handle s).1)
    (ok : s.LinesOk) : (s.takeCommand handle).LinesOk :=
  takeCommand_keeps (P := State.LinesOk) (fun _ _ ok => ok) owner.linesOk ok

/-- SET_LINE puts its line at the new safe level (R129). -/
theorem configureLine_keepsLines (line : Fin 8) (a : LineArgs) (s : State) : KeepsLines s (s.configureLine line a) :=
  ⟨rfl, rfl, fun ok => ok.set (lineOk_of_none rfl fun _ _ => rfl)⟩

theorem setLine_keepsLines (a : LineArgs) (s : State) :
    KeepsLines s (s.configure (indexOf 8 a.line) fun line s => s.configureLine line a).1 := by
  unfold State.configure
  split
  · exact .refl s
  · split
    · exact .refl s
    · exact configureLine_keepsLines _ a s

/-- RESTART puts every line at its safe level, and AGU and CLU at NONE (R66, R130). -/
theorem restart_linesOk {s : State} (ok : s.LinesOk) : s.restart.LinesOk := by
  obtain ⟨-, lines⟩ := ok
  have blocks : s.restartBlocks.LinesOk := ⟨rfl, CluState.LinesOk.map .nosync lines fun l _ => toSafe_ok .nosync l⟩
  exact (settlePosts_touches _).linesOk (by decide) ((post_touches .restarted _).linesOk (by decide) blocks)

theorem endPulse_keepsLines (line : Fin 8) (s : State) : KeepsLines s (s.endPulse line) := by
  unfold State.endPulse
  split
  · rename_i held
    exact ⟨rfl, rfl, fun ok => ok.set (endPulse_ok (ok line) held)⟩
  · exact .refl s

theorem exec_linesOk (c : Instr) {s t : State} (ok : s.LinesOk) (ran : exec c s = .next t) : t.LinesOk := by
  cases c with
  | setStation a =>
    have frame := configure_touches (values := configOf a) (write := State.writeStation) fun _ => setStc_touches s _
    exact next_keeps ran (takeCommand_linesOk (frame.keepsLines (by decide)) ok)
  | setLine a => exact next_keeps ran (takeCommand_linesOk (setLine_keepsLines a s) ok)
  | setInput a =>
    exact next_keeps ran (takeCommand_linesOk
      ((configure_touches fun _ => setMarkInput_touches _ _ s).keepsLines (by decide)) ok)
  | setSubscription a =>
    exact next_keeps ran (takeCommand_linesOk ((configure_touches fun _ => setIku_touches s _).keepsLines (by decide)) ok)
  | setReaction a =>
    exact next_keeps ran (takeCommand_linesOk ((configure_touches fun _ => setMku_touches s _).keepsLines (by decide)) ok)
  | join => exact next_keeps ran (takeCommand_linesOk ((join_touches s).keepsLines (by decide)) ok)
  | restart => exact next_keeps ran (takeCommand_keeps (P := State.LinesOk) (fun _ _ ok => ok) restart_linesOk ok)
  | postCueShared a => exact next_keeps ran (takeCommand_linesOk ((postShared_touches a s).keepsLines (by decide)) ok)
  | postCueLocal a => exact next_keeps ran (takeCommand_linesOk (postLocal_keepsLines a s) ok)
  | postRecallShared a => exact next_keeps ran (takeCommand_linesOk ((recallShared_touches a s).keepsLines (by decide)) ok)
  | postRecallLocal a => exact next_keeps ran (takeCommand_linesOk (recallLocal_keepsLines a s) ok)
  | withdraw tag => exact next_keeps ran (takeCommand_linesOk ((withdraw_touches tag s).keepsLines (by decide)) ok)
  | readNotice => exact next_keeps ran (takeCommand_linesOk ((takeNotice_touches s).keepsLines (by decide)) ok)
  | readStatus | readTime | readPeer | readEntry | readRecord => exact next_keeps ran (takeCommand_linesOk (.refl s) ok)
  | badCommand code =>
    refine next_keeps ran ?_
    split
    · exact ok
    · exact takeCommand_linesOk (.refl s) ok
  | transactionTruncated =>
    refine next_keeps ran ?_
    split
    · exact ok
    · exact (selRises_touches s).linesOk (by decide) ok
  | transactionBegin =>
    refine next_keeps ran ?_
    split <;> exact ok
  | transactionEnd => exact next_keeps ran ((selRises_touches s).linesOk (by decide) ok)
  | pinReset => exact next_keeps ran reset_linesOk
  | markEdge input edge =>
    refine next_keeps ran ?_
    split
    · exact (takeEdge_keepsLines input edge s).linesOk ok
    · exact ok
  | sof sampledDominant drove =>
    refine next_keeps ran ?_
    split
    · exact sof_linesOk sampledDominant drove ok
    · exact ok
  | offer =>
    refine next_keeps ran ?_
    split
    · exact (offer_touches s).linesOk (by decide) ok
    · exact ok
  | lostArbitration =>
    refine next_keeps ran ?_
    split
    · split
      · exact ok
      · exact (endAttempt_keepsLines .lost s).linesOk ok
    · exact ok
  | errorDetected kind sampled =>
    refine next_keeps ran ?_
    split
    · exact (reportError_touches .receiver sampled s).linesOk (by decide) ok
    · split
      · exact frameError_linesOk _ sampled ok
      · exact ok
  | acceptance f ack =>
    refine next_keeps ran ?_
    split
    · exact acceptSending_linesOk ack ok
    · exact acceptReceived_linesOk f ack ok
    · exact ok
  | stuckLineError sampled =>
    refine next_keeps ran ?_
    split
    · split
      · exact ok
      · exact (reportError_touches _ sampled s).linesOk (by decide) ok
    · exact ok
  | errorDelimiterEnd sampled =>
    refine next_keeps ran ?_
    split
    · split
      · exact ok
      · exact (sampled_touches sampled (State.setLiuState .spacing s)).linesOk (by decide) ok
    · exact ok
  | interframeSpaceEnd =>
    refine next_keeps ran ?_
    split
    · exact (sampled_touches _ s.enterIdle).linesOk (by decide) ok
    · exact ok
  | errorFlagEnd | integrationComplete | holdOffEnd | drainEnd =>
    refine next_keeps ran ?_
    split <;> exact ok
  | idleSpan =>
    refine next_keeps ran ?_
    split
    · exact ok
    · exact (countSpan_touches s).linesOk (by decide) ok
  | recoveryTimeExpiry => exact next_keeps ran (expire_linesOk (fun u => (recoverBy_touches true u).linesOk (by decide)) ok)
  | syncRound => exact next_keeps ran (expire_linesOk (fun _ => syncRound_linesOk) ok)
  | listenWindowEnd => exact next_keeps ran (expire_linesOk (fun _ => endWindow_linesOk) ok)
  | scheduleExpiry => exact next_keeps ran (expire_linesOk (fun u => (expireFirst_keepsLines u).linesOk) ok)
  | staleTimeExpiry p => exact next_keeps ran (expire_linesOk (fun u => (expireStale_touches p u).linesOk (by decide)) ok)
  | pulseEnd line =>
    exact next_keeps ran (unlessSpent_linesOk (expire_linesOk fun u => (endPulse_keepsLines line u).linesOk) ok)
  | spacingEnd input =>
    exact next_keeps ran (unlessSpent_linesOk
      (expire_linesOk fun u => (setMarkInput_touches _ _ u).linesOk (by decide)) ok)

/-- Settles O56: a guarded line leaves its safe level in LOCKED alone, and goes back to it as LOCKED is left. -/
theorem stepKeepsGuardedLinesSafe : Obligations.StepKeepsGuardedLinesSafe := fun _ _ =>
  step_keeps (P := State.LinesOk) (fun c _ _ => exec_linesOk c) (fun _ _ => id) (fun _ => id)
    (fun s => (takeWord_keepsLines s).linesOk) (fun s => (settleSpans_touches s).linesOk (by decide))
    (fun s => (tick_keepsLines s).linesOk)

end Sys2Proof.Machine
end

section
/-! SUPPORT. The reaction table (O26): the cue that an entry makes of a mark, one entry tried, and the order in which all of them are tried. -/

namespace Sys2Proof.Machine

/-! ## One entry tried (R138) -/

section OneEntry

variable {m : SeenMark} {r : Fin 8} {s : State}

theorem tryReaction_of_match (matched : Claims.reactionMatches s.mku.reactions[r] m.source m.input m.edge) :
    s.tryReaction m r = s.arrive (s.mku.reactions[r].cue s.stc.config.id r m) :=
  if_pos ((matchesMark_iff _ _).mpr matched)

theorem tryReaction_of_no_match (unmatched : ¬Claims.reactionMatches s.mku.reactions[r] m.source m.input m.edge) :
    s.tryReaction m r = s :=
  if_neg fun matched => unmatched ((matchesMark_iff _ _).mp matched)

end OneEntry

/-- Entry r's cue has the number 3968 + r, and is due the entry's offset behind the µs part of the capture (R100, R137, R139). -/
theorem reaction_cue_eq (own : StationId) (r : Fin 8) (m : SeenMark) (x : Reaction) :
    x.cue own r m =
      { key := { origin := own, number := BitVec.ofNat 12 (3968 + r.val) }, source := .reaction
        topic := none, hit := none, target := x.target, action := x.action, width := x.width, rpt := none
        due := microsOf m.capture + BitVec.ofNat 32 x.offset, notify := x.notify, late := false } := by
  rw [Reaction.cue, reactionKey, laterBy, Config.firstReactionCue]

/-! ## The table in index order (R138) -/

theorem finRange_eight : List.finRange 8 = [0, 1, 2, 3, 4, 5, 6, 7] := by decide

theorem react_in_index_order (m : SeenMark) (s : State) :
    s.react m = ([0, 1, 2, 3, 4, 5, 6, 7] : List (Fin 8)).foldl (State.tryReaction m) s := by
  rw [State.react, finRange_eight]

/-- Settles O26: the entries are tried from 0 to 7, and each that matches hands the CSU its own cue. -/
theorem reactionsMakeCuesInIndexOrder : Obligations.ReactionsMakeCuesInIndexOrder := by
  refine ⟨react_in_index_order, fun m r s => ⟨tryReaction_of_no_match, fun matched => ?_⟩⟩
  rw [tryReaction_of_match matched, reaction_cue_eq]

end Sys2Proof.Machine
end

section
/-! SUPPORT. Configuration and station life (O6, O9, O10, O12): SET_STATION's settings in and out of their ranges, the refusals of the configuration commands, the checks of JOIN in order, and pin reset. -/

namespace Sys2Proof.Machine

/-! ## The settings of SET_STATION (R143) -/

/-- The codes 0 to 3 name the bit rates (R159). -/
theorem bitRateOfCode_assigned {c : Byte} {rate : BitRate}
    (code : c = 0 ∧ rate = .k125 ∨ c = 1 ∧ rate = .k250 ∨ c = 2 ∧ rate = .k500 ∨ c = 3 ∧ rate = .k1000) :
    bitRateOfCode c.toNat = some rate := by
  obtain ⟨rfl, rfl⟩ | ⟨rfl, rfl⟩ | ⟨rfl, rfl⟩ | ⟨rfl, rfl⟩ := code <;> rfl

theorem bitRateOfCode_unassigned {n : Nat} (beyond : 3 < n) : bitRateOfCode n = none := by
  unfold bitRateOfCode
  split
  case h_5 => rfl
  all_goals omega

theorem within_eq_some {least greatest n m : Nat} :
    within least greatest n = some m ↔ (least ≤ n ∧ n ≤ greatest) ∧ n = m := by
  rw [within, Option.ite_none_right_eq_some, Option.some_inj]

/-- A setting of SET_STATION out of its range (R143). -/
def SettingOutOfRange (a : StationArgs) : Prop :=
  a.id.toNat = 0 ∨ 126 < a.id.toNat ∨ 3 < a.bitRate.toNat ∨ a.samplePoint.toNat < 10 ∨ 14 < a.samplePoint.toNat
    ∨ a.jump.toNat = 0 ∨ 4 < a.jump.toNat ∨ a.beatMs.toNat < 10 ∨ 1000 < a.beatMs.toNat ∨ a.threshold.toNat = 0
    ∨ a.lockBound.toNat = 0 ∨ 31 < a.quorum.toNat ∨ a.sendMargin.toNat < 100 ∨ a.urgencyStep.toNat < 100
    ∨ a.markMs.toNat = 0 ∨ 1000 < a.markMs.toNat

/-- Every setting that is read lies in its range. -/
theorem configOf_outOfRange {a : StationArgs} (out : SettingOutOfRange a) : configOf a = none := by
  refine Option.eq_none_iff_forall_ne_some.mpr fun c read => ?_
  simp only [configOf, Option.bind_eq_bind, Option.bind_eq_some_iff, stationOfNat_some, within_eq_some] at read
  obtain ⟨_, ⟨idLow, idHigh, -⟩, _, rated, _, ⟨point, -⟩, _, ⟨jump, -⟩, _, ⟨beat, -⟩, _, ⟨threshold, -⟩, _, ⟨bound, -⟩,
    _, ⟨quorum, -⟩, _, ⟨margin, -⟩, _, ⟨urgency, -⟩, _, ⟨mark, -⟩, -⟩ := read
  have rate : ¬3 < a.bitRate.toNat := fun beyond => nomatch (bitRateOfCode_unassigned beyond).symm.trans rated
  unfold SettingOutOfRange at out
  omega

/-- Settles O6: each setting read in its range, then the one write of the twelve carried out. -/
theorem setStationWritesSettings : Obligations.SetStationWritesSettings := by
  intro a rate s isOpen offline idLow idHigh code pointLow pointHigh jumpLow jumpHigh beatLow beatHigh threshold bound
    quorum margin urgency markLow markHigh
  have word (b : BitVec 16) : b.toNat ≤ 65535 := Nat.le_of_lt_succ b.isLt
  have inRange : configOf a = some
      { id := BitVec.ofNat 7 a.id.toNat, bitRate := rate, samplePoint := a.samplePoint.toNat
        jump := a.jump.toNat, beatMs := a.beatMs.toNat, threshold := a.threshold.toNat
        lockBound := a.lockBound.toNat, quorum := a.quorum.toNat, lateWindow := a.lateWindow.toNat
        sendMargin := a.sendMargin.toNat, urgencyStep := a.urgencyStep.toNat, markMs := a.markMs.toNat } := by
    simp only [configOf, stationOfNat_some.mpr ⟨idLow, idHigh, rfl⟩, bitRateOfCode_assigned code,
      within_inside pointLow pointHigh, within_inside jumpLow jumpHigh, within_inside beatLow beatHigh,
      within_inside threshold (word _), within_inside bound (Nat.le_of_lt_succ a.lockBound.isLt),
      within_inside (Nat.zero_le _) quorum, within_inside margin (word _), within_inside urgency (word _),
      within_inside markLow markHigh, Option.bind_eq_bind, Option.bind_some]
  exact congrArg Host.Outcome.next
    (takeCommand_configure isOpen offline inRange (setStc_touches s _) (by decide))

/-! ## Refusals of the configuration commands (R144) -/

/-- A code that is neither a line nor NONE. -/
theorem targetOfByte_outOfRange {b : Byte} (out : 8 ≤ b.toNat ∧ b ≠ 0xFF) : targetOfByte b = none := by
  rw [targetOfByte, if_neg out.2, dif_neg (Nat.not_lt.mpr out.1)]

theorem subscriptionOf_outOfRange {a : SubscriptionArgs}
    (out : 16 ≤ a.entry.toNat ∨ 8 ≤ a.target.toNat ∧ a.target ≠ 0xFF) : subscriptionOf a = none := by
  refine Option.eq_none_iff_forall_ne_some.mpr fun v read => ?_
  simp only [subscriptionOf, Option.bind_eq_bind, Option.bind_eq_some_iff] at read
  obtain ⟨entry, index, target, line, -⟩ := read
  obtain beyond | noLine := out
  · exact nomatch (indexOf_none beyond).symm.trans index
  · exact nomatch (targetOfByte_outOfRange noLine).symm.trans line

/-- A field of SET_REACTION out of its range (R137). -/
def ReactionOutOfRange (a : ReactionArgs) : Prop :=
  8 ≤ a.entry.toNat ∨ 126 < a.source.toNat ∨ 4 ≤ a.input.toNat ∨ a.edge = 0 ∨ 1048575 < a.offset.toNat
    ∨ 5 ≤ a.action.toNat ∨ 8 ≤ a.target.toNat ∧ a.target ≠ 0xFF ∨ a.action = 3 ∧ a.width = 0

/-- One field out of its range is enough. -/
theorem reactionOf_outOfRange {a : ReactionArgs} (out : ReactionOutOfRange a) : reactionOf a = none := by
  refine Option.eq_none_iff_forall_ne_some.mpr fun v read => ?_
  simp only [reactionOf, Option.bind_eq_bind, Option.bind_eq_some_iff] at read
  obtain ⟨entry, index, source, station, input, field, edge, takes, offset, inside, action, named, target, line, width,
    wide, -⟩ := read
  obtain beyond | beyond | beyond | zero | beyond | beyond | noLine | ⟨pulse, zero⟩ := out
  · exact nomatch (indexOf_none beyond).symm.trans index
  · exact nomatch (if_neg (Nat.not_le.mpr beyond)).symm.trans station
  · exact nomatch (indexOf_none beyond).symm.trans field
  · exact nomatch (show edgeMatchOfCode a.edge = none by rw [zero]; rfl).symm.trans takes
  · exact nomatch (within_beyond beyond).symm.trans inside
  · exact nomatch (actionOfCode_unassigned beyond).symm.trans named
  · exact nomatch (targetOfByte_outOfRange noLine).symm.trans line
  · obtain rfl : action = .pulse := code_eq_three.mp (by rw [← actionOfCode_some named, pulse]; rfl)
    exact nomatch (if_pos zero).symm.trans wide

section Refusal

variable {α : Type} {values : Option α} {s : State} (isOpen : s.PortOpen) (write : α → State → State)

theorem configure_outside (outside : s.stc.station ≠ .offline) :
    s.configure values write = (s, .only .refusedState) := if_pos outside

theorem configure_outOfRange (offline : s.stc.station = .offline) :
    s.configure none write = (s, .only .refusedRange) := if_neg (not_not_intro offline)

include isOpen

theorem takeCommand_configure_outside (outside : s.stc.station ≠ .offline) :
    s.takeCommand (State.configure values write) = s.replied 4 [] :=
  takeCommand_unchanged isOpen (configure_outside write outside)

theorem takeCommand_configure_outOfRange (offline : s.stc.station = .offline) (out : values = none) :
    s.takeCommand (State.configure values write) = s.replied 6 [] := by
  subst out
  exact takeCommand_unchanged isOpen (configure_outOfRange write offline)

end Refusal

theorem exec_configuration_outside {c : Instr} {s : State} (isOpen : s.PortOpen) (outside : s.stc.station ≠ .offline)
    (configures : (∃ a, c = .setStation a) ∨ (∃ a, c = .setLine a) ∨ (∃ a, c = .setInput a)
      ∨ (∃ a, c = .setSubscription a) ∨ ∃ a, c = .setReaction a) :
    exec c s = .next (s.replied 4 []) := by
  obtain ⟨a, rfl⟩ | ⟨a, rfl⟩ | ⟨a, rfl⟩ | ⟨a, rfl⟩ | ⟨a, rfl⟩ := configures <;>
    exact congrArg Host.Outcome.next (takeCommand_configure_outside isOpen _ outside)

/-- Settles O9: the station state checked first, then the values of each command. -/
theorem configurationRefused : Obligations.ConfigurationRefused :=
  ⟨fun _ _ => exec_configuration_outside,
    fun _ _ isOpen offline out =>
      congrArg Host.Outcome.next (takeCommand_configure_outOfRange isOpen _ offline (configOf_outOfRange out)),
    fun _ _ isOpen offline beyond =>
      congrArg Host.Outcome.next (takeCommand_configure_outOfRange isOpen _ offline (indexOf_none beyond)),
    fun _ _ isOpen offline beyond =>
      congrArg Host.Outcome.next (takeCommand_configure_outOfRange isOpen _ offline (indexOf_none beyond)),
    fun _ _ isOpen offline out =>
      congrArg Host.Outcome.next (takeCommand_configure_outOfRange isOpen _ offline (subscriptionOf_outOfRange out)),
    fun _ _ isOpen offline out =>
      congrArg Host.Outcome.next (takeCommand_configure_outOfRange isOpen _ offline (reactionOf_outOfRange out))⟩

/-! ## JOIN (R145) -/

/-- An id is unset, or no station's, exactly outside 1 … 126. -/
theorem stationOfNat_eq_none {n : Nat} : stationOfNat n = none ↔ n = 0 ∨ 126 < n := by
  rw [stationOfNat, ite_eq_right_iff, imp_iff_not (Option.some_ne_none _)]
  omega

section Join

variable {s : State}

theorem join_outside (outside : s.stc.station ≠ .offline) : s.join = (s, .only .refusedState) := if_pos outside

variable (offline : s.stc.station = .offline)
include offline

theorem join_of_offline : s.join =
    if s.stc.draining then (s, .only .busy)
    else if stationOfNat s.stc.config.id.toNat = none then (s, configInvalid 1)
    else if s.stc.config.threshold * 16 ≤ s.stc.config.lockBound then (s, configInvalid 2)
    else (s.startListening, .only .ok) :=
  if_neg (not_not_intro offline)

theorem join_draining (draining : s.stc.draining = true) : s.join = (s, .only .busy) := by
  rw [join_of_offline offline, if_pos draining]

variable (free : s.stc.draining = false)
include free

theorem join_idUnset (unset : s.stc.config.id.toNat = 0 ∨ 126 < s.stc.config.id.toNat) :
    s.join = (s, configInvalid 1) := by
  rw [join_of_offline offline, if_neg (Bool.eq_false_iff.mp free), if_pos (stationOfNat_eq_none.mpr unset)]

variable (low : 1 ≤ s.stc.config.id.toNat) (high : s.stc.config.id.toNat ≤ 126)
include low high

theorem join_of_idSet : s.join =
    if s.stc.config.threshold * 16 ≤ s.stc.config.lockBound then (s, configInvalid 2)
    else (s.startListening, .only .ok) := by
  rw [join_of_offline offline, if_neg (Bool.eq_false_iff.mp free),
    if_neg fun unset => absurd (stationOfNat_eq_none.mp unset) (by omega)]

theorem join_lockAboveStep (above : s.stc.config.threshold * 16 ≤ s.stc.config.lockBound) :
    s.join = (s, configInvalid 2) :=
  (join_of_idSet offline free low high).trans (if_pos above)

theorem join_taken (below : s.stc.config.lockBound < s.stc.config.threshold * 16) :
    s.join = (s.startListening, .only .ok) :=
  (join_of_idSet offline free low high).trans (if_neg (Nat.not_le.mpr below))

end Join

theorem exec_join_refused {s : State} {reply : Reply} (isOpen : s.PortOpen) (answer : s.join = (s, reply)) :
    exec .join s = .next (s.replied reply.status.code reply.body) :=
  congrArg Host.Outcome.next (takeCommand_unchanged isOpen answer)

theorem exec_join_taken {s : State} (isOpen : s.PortOpen) (answer : s.join = (s.startListening, .only .ok)) :
    exec .join s = .next (s.startListening.replied 0 []) := by
  refine congrArg Host.Outcome.next ((takeCommand_of_touches isOpen (join_touches s) (by decide)).trans ?_)
  rw [answer]
  rfl

/-- Settles O10: each check refuses once those before it have passed, and a JOIN that passes all four starts to listen. -/
theorem joinChecksAndStarts : Obligations.JoinChecksAndStarts :=
  ⟨fun _ isOpen outside => exec_join_refused isOpen (join_outside outside),
    fun _ isOpen offline draining => exec_join_refused isOpen (join_draining offline draining),
    fun _ isOpen offline free unset => exec_join_refused isOpen (join_idUnset offline free unset),
    fun _ isOpen offline free low high above =>
      exec_join_refused isOpen (join_lockAboveStep offline free low high above),
    fun _ isOpen offline free low high below => exec_join_taken isOpen (join_taken offline free low high below)⟩

/-! ## Pin reset (R148, R149) -/

/-- The tables hold one default throughout, and every other field is written out in State.reset. -/
theorem resetValues : Claims.ResetValues := by
  refine ⟨rfl, rfl, rfl, rfl, rfl, rfl, rfl, ?peers, rfl, rfl, rfl, rfl, rfl, rfl, rfl, rfl, rfl, rfl, ?generations,
    ?subscriptions, rfl, rfl, rfl, rfl, rfl, ?pins, ?lines, rfl, ?inputs, ?reactions, rfl, rfl, rfl, rfl, rfl, rfl, rfl⟩
  all_goals exact fun _ => Vector.getElem_replicate _

/-- A SEL that is low is ignored until it rises (R149). -/
theorem afterReset_eq (t : Transaction) : t.afterReset = if t = .idle then .idle else .ignoring := by
  cases t <;> rfl

theorem pinResetRestoresEveryDefault : Claims.PinResetRestoresEveryDefault := by
  intro s
  rw [← afterReset_eq]
  rfl

/-- Settles O12: the values after pin reset, and those that PIN_RESET leaves of the port and the model's own counters. -/
theorem resetAndPinReset : Obligations.ResetAndPinReset := ⟨resetValues, pinResetRestoresEveryDefault⟩

end Sys2Proof.Machine
end

section
/-! SUPPORT. The notice queue (O55): every event leaves the queue and the lost count as they are, posts into them, or takes the oldest notice, and each of these keeps both within their bounds. -/

namespace Sys2Proof.Machine

/-! ## Events that keep the queue in its bounds (R155) -/

/-- From s to t the notice queue and the lost count stay within their bounds. -/
def KeepsNotices (s t : State) : Prop := s.NoticesOk → t.NoticesOk

theorem KeepsNotices.refl (s : State) : KeepsNotices s s := id

theorem KeepsNotices.trans {s t u : State} (h : KeepsNotices s t) (k : KeepsNotices t u) : KeepsNotices s u := k ∘ h

theorem KeepsNotices.foldl {α : Type} {f : State → α → State} (each : ∀ s a, KeepsNotices s (f s a)) (l : List α)
    (s : State) : KeepsNotices s (l.foldl f s) := by
  induction l generalizing s with
  | nil => exact .refl s
  | cons a rest ih => exact (each s a).trans (ih _)

/-- The invariant reads the notices that wait and the lost count. -/
theorem Touches.keepsNotices {bs : List Part} {s t : State} (h : Touches bs s t) (apart : .notices ∉ bs) :
    KeepsNotices s t := by
  obtain ⟨notices, lost⟩ := h.notices apart
  intro ok
  unfold State.NoticesOk
  rwa [notices, lost]

theorem post_keepsNotices (body : NoticeBody) (s : State) : KeepsNotices s (s.post body) := post_noticesOk body

theorem postIf_keepsNotices (cond : Bool) (body : NoticeBody) (s : State) : KeepsNotices s (s.postIf cond body) := by
  cases cond with
  | false => exact .refl s
  | true => exact post_keepsNotices body s

/-! ## Schedule (R107 to R116) -/

theorem fire_keepsNotices (late : Bool) (e : Entry) (s : State) : KeepsNotices s (s.fire late e).1 := by
  have handed : KeepsNotices s (s.handOver e).1 := (handOver_touches e s).keepsNotices (by decide)
  unfold State.fire
  dsimp only
  split
  · exact handed.trans (post_keepsNotices _ _)
  · exact handed

theorem postMissed_keepsNotices (e : Entry) (n : Nat) (s : State) : KeepsNotices s (s.postMissed e n) :=
  postIf_keepsNotices _ _ s

theorem lateOccurrence_keepsNotices (e : Entry) (n : Nat) (s : State) : KeepsNotices s (s.lateOccurrence e n).1 := by
  unfold State.lateOccurrence
  dsimp only
  split
  · exact (fire_keepsNotices true e s).trans (postMissed_keepsNotices _ _ _)
  · exact postMissed_keepsNotices _ _ _

theorem insert_keepsNotices (e : Entry) (s : State) : KeepsNotices s (s.insert e) :=
  (insert_touches e s).keepsNotices (by decide)

theorem expireFirst_keepsNotices (s : State) : KeepsNotices s s.expireFirst := by
  unfold State.expireFirst
  split
  · exact .refl s
  · rename_i e rest _
    have told := ((setSchedule_touches rest s).keepsNotices (by decide)).trans
      ((fire_keepsNotices false e _).trans (postMissed_keepsNotices e (occurrencesMissed e.rpt 0 true) _))
    dsimp only
    split
    · exact told.trans (insert_keepsNotices _ _)
    · exact told

theorem takeReached_keepsNotices (s : State) (e : Entry) : KeepsNotices s (s.takeReached e) := by
  have done := lateOccurrence_keepsNotices e (distance s.micros e.due) s
  unfold State.takeReached
  dsimp only
  split
  · exact done.trans (insert_keepsNotices _ _)
  · exact done

theorem takeWord_keepsNotices (s : State) : KeepsNotices s s.takeWord := by
  have scheduled : ∀ l, KeepsNotices s ((s.setWord none).setSchedule l) := fun l =>
    ((setWord_touches none s).trans (setSchedule_touches l _)).keepsNotices (by decide)
  unfold State.takeWord
  split
  · exact .refl s
  · exact (scheduled _).trans (.foldl takeReached_keepsNotices _ _)
  · exact (scheduled _).trans (.foldl (fun u _ => post_keepsNotices _ u) _ _)

theorem meetWord_keepsNotices (s : State) : KeepsNotices s s.meetWord := by
  have drawn : KeepsNotices s s.drawn := (drawn_touches s).keepsNotices (by decide)
  unfold State.meetWord
  split
  · exact .refl s
  · split
    · exact drawn.trans (takeWord_keepsNotices _)
    · exact drawn

theorem place_keepsNotices (e : Entry) (s : State) : KeepsNotices s (s.place e) := by
  unfold State.place
  split
  · exact insert_keepsNotices e s
  · exact ((setSchedule_touches _ s).keepsNotices (by decide)).trans
      ((post_keepsNotices _ _).trans (insert_keepsNotices e _))
  · exact post_keepsNotices _ s

theorem removeKey_keepsNotices (key : CueKey) (s : State) : KeepsNotices s (s.removeKey key) :=
  (removeKey_touches key s).keepsNotices (by decide)

theorem revise_keepsNotices (old e : Entry) (s : State) : KeepsNotices s (s.revise old e) := by
  unfold State.revise
  split
  · exact .refl s
  · exact ((removeKey_keepsNotices _ s).trans (insert_keepsNotices _ _)).trans (postIf_keepsNotices _ _ _)

theorem arrivePast_keepsNotices (e : Entry) (s : State) : KeepsNotices s (s.arrivePast e) := by
  have superseded : KeepsNotices s (s.superseded e) := by
    unfold State.superseded
    split
    · exact (removeKey_keepsNotices _ s).trans (postIf_keepsNotices _ _ _)
    · exact .refl s
  have done := superseded.trans (lateOccurrence_keepsNotices e (distance s.micros e.due) _)
  rw [arrivePast_eq]
  dsimp only
  split
  · exact done.trans (place_keepsNotices _ _)
  · exact done

theorem decideArrival_keepsNotices (e : Entry) (s : State) : KeepsNotices s (s.decideArrival e) := by
  unfold State.decideArrival
  split
  · exact post_keepsNotices _ s
  · exact arrivePast_keepsNotices e s
  · split
    · exact revise_keepsNotices _ _ s
    · exact place_keepsNotices _ s

theorem decideLocal_keepsNotices (e : Entry) (s : State) : KeepsNotices s (s.decideLocal e).1 := by
  unfold State.decideLocal
  split
  · exact .refl s
  · exact .refl s
  · split
    · exact revise_keepsNotices _ _ s
    · split
      · exact .refl s
      · exact place_keepsNotices _ s

theorem arrive_keepsNotices (e : Entry) (s : State) : KeepsNotices s (s.arrive e) :=
  (meetWord_keepsNotices s).trans (decideArrival_keepsNotices e _)

theorem recallEntries_keepsNotices (r : Recall) (s : State) : KeepsNotices s (s.recallEntries r) := by
  unfold State.recallEntries State.removeNamed
  exact (meetWord_keepsNotices s).trans (((setSchedule_touches _ _).keepsNotices (by decide)).trans
    (.foldl (fun u _ => postIf_keepsNotices _ _ u) _ _))

/-! ## Fault confinement (R22, R26 to R28) -/

theorem setFcu_keepsNotices (f : FcuState) (s : State) : KeepsNotices s (s.setFcu f) :=
  (setFcu_touches s f).keepsNotices (by decide)

theorem changeFault_keepsNotices (f : FaultState) (s : State) : KeepsNotices s (s.changeFault f) := by
  unfold State.changeFault
  split
  · exact .refl s
  · exact (setFcu_keepsNotices _ s).trans (((endHoldOff_touches _).keepsNotices (by decide)).trans
      (post_keepsNotices _ _))

theorem scoreTo_keepsNotices (n : Nat) (s : State) : KeepsNotices s (s.scoreTo n) := by
  unfold State.scoreTo State.armRecovery
  dsimp only
  split
  · exact ((setFcu_keepsNotices _ s).trans (setFcu_keepsNotices _ _)).trans (changeFault_keepsNotices _ _)
  · exact (setFcu_keepsNotices _ s).trans (changeFault_keepsNotices _ _)

theorem sampled_keepsNotices (bits : List Bool) (s : State) : KeepsNotices s (s.sampled bits) :=
  (sampled_touches bits s).keepsNotices (by decide)

theorem reportError_keepsNotices (role : Role) (bits : List Bool) (s : State) :
    KeepsNotices s (s.reportError role bits) :=
  (sampled_keepsNotices _ s).trans (scoreTo_keepsNotices _ _)

theorem reportAcceptance_keepsNotices (s : State) : KeepsNotices s s.reportAcceptance := scoreTo_keepsNotices _ s

theorem tryRecover_keepsNotices (reached : Bool) (s : State) : KeepsNotices s (s.tryRecover reached) := by
  unfold State.tryRecover
  split
  · exact (setFcu_keepsNotices _ s).trans (changeFault_keepsNotices _ _)
  · exact .refl s

theorem recoverBy_keepsNotices (now : Bool) (s : State) : KeepsNotices s (s.recoverBy now) :=
  ((noteRecovery_touches _ s).keepsNotices (by decide)).trans (tryRecover_keepsNotices _ _)

theorem countSpans_keepsNotices (n : Nat) (reached : Bool) (s : State) : KeepsNotices s (s.countSpans n reached) := by
  have counted : KeepsNotices s (s.setFcu { s.fcu with spans := min 64 (s.fcu.spans + n) }) := setFcu_keepsNotices _ s
  unfold State.countSpans
  split
  · exact counted.trans (tryRecover_keepsNotices _ _)
  · exact counted

theorem countSpan_keepsNotices (s : State) : KeepsNotices s s.countSpan := by
  unfold State.countSpan
  split
  · exact (setFcu_keepsNotices _ s).trans (countSpans_keepsNotices _ _ _)
  · exact .refl s

theorem settleSpans_keepsNotices (s : State) : KeepsNotices s s.settleSpans := by
  unfold State.settleSpans
  split
  · exact (setFcu_keepsNotices _ s).trans (countSpans_keepsNotices _ _ _)
  · exact .refl s

theorem countIdle_keepsNotices (bits : Nat) (s : State) : KeepsNotices s (s.countIdle bits) := by
  unfold State.countIdle
  split
  · exact (setFcu_keepsNotices _ s).trans (countSpans_keepsNotices _ _ _)
  · exact .refl s

theorem idClash_keepsNotices (s : State) : KeepsNotices s s.idClash := by
  have noticed := post_keepsNotices (.peer .idClash s.stc.config.id) s
  unfold State.idClash
  dsimp only
  split
  · exact noticed
  · exact noticed.trans ((setFcu_keepsNotices _ _).trans (changeFault_keepsNotices _ _))

/-! ## The passing of time (R26, R27) -/

theorem setBtu_keepsNotices (b : BtuState) (s : State) : KeepsNotices s (s.setBtu b) :=
  (setBtu_touches s b).keepsNotices (by decide)

theorem passCycles_keepsNotices (n : Nat) (s : State) : KeepsNotices s (s.passCycles n) :=
  ((cyclesPassed_touches n s).keepsNotices (by decide)).trans
    ((setBtu_keepsNotices _ _).trans (countIdle_keepsNotices _ _))

theorem runTo_keepsNotices (t : Micros) (s : State) : KeepsNotices s (s.runTo t) := by
  have there := fun n => (settleSpans_keepsNotices s).trans (passCycles_keepsNotices n _)
  unfold State.runTo
  split
  · exact .refl s
  · refine KeepsNotices.trans ?_ (setBtu_keepsNotices _ _)
    split
    · exact (there _).trans (passCycles_keepsNotices _ _)
    · exact there _

/-! ## Send queue (R79 to R84) -/

theorem leave_keepsNotices (r : Record) (how : Completion) (unheard late : Bool) (s : State) :
    KeepsNotices s (s.leave r how unheard late) :=
  ((setSq_touches s _).keepsNotices (by decide)).trans (post_keepsNotices _ _)

theorem leaveAll_keepsNotices (which : Record → Bool) (how : Completion) (s : State) :
    KeepsNotices s (s.leaveAll which how) :=
  .foldl (fun u r => leave_keepsNotices r how false false u) _ s

theorem beatLeft_keepsNotices (s : State) : KeepsNotices s s.beatLeft := (beatLeft_touches s).keepsNotices (by decide)

theorem updateRecord_keepsNotices (r : Record) (s : State) : KeepsNotices s (s.updateRecord r) :=
  (updateRecord_touches r s).keepsNotices (by decide)

theorem createRecord_keepsNotices (slot : Fin 16) (body : RecordBody) (stale : Option Micros) (state : RecordState)
    (s : State) : KeepsNotices s (s.createRecord slot body stale state) :=
  (createRecord_touches slot body stale state s).keepsNotices (by decide)

theorem announce_keepsNotices (m : MarkContent) (s : State) : KeepsNotices s (s.announce m) := by
  unfold State.announce
  dsimp only
  split
  · exact post_keepsNotices _ s
  · split
    · split
      · exact (createRecord_keepsNotices _ _ _ _ s).trans (leave_keepsNotices _ _ _ _ _)
      · exact createRecord_keepsNotices _ _ _ _ s
    · exact createRecord_keepsNotices _ _ _ _ s

theorem removeStale_keepsNotices (s : State) : KeepsNotices s s.removeStale := by
  have cleared : KeepsNotices s
      (s.leaveAll (fun r => decide (r.state = .waiting) && r.isStale s.micros) .stale) := leaveAll_keepsNotices _ _ s
  unfold State.removeStale
  dsimp only
  split
  · split
    · exact cleared.trans (beatLeft_keepsNotices _)
    · exact cleared
  · exact cleared

theorem endedUnsent_keepsNotices (usedUp : Bool) (r : Record) (s : State) :
    KeepsNotices s (s.endedUnsent usedUp r) := by
  unfold State.endedUnsent
  split
  · exact leave_keepsNotices _ _ _ _ s
  · split
    · exact leave_keepsNotices _ _ _ _ s
    · split
      · exact leave_keepsNotices _ _ _ _ s
      · exact updateRecord_keepsNotices _ s

theorem recordEnded_keepsNotices (how : AttemptEnd) (r : Record) (s : State) :
    KeepsNotices s (s.recordEnded how r) := by
  cases how with
  | sent unheard => exact leave_keepsNotices _ _ _ _ s
  | lost => exact endedUnsent_keepsNotices _ _ s
  | error => exact endedUnsent_keepsNotices _ _ s

theorem beatEndedUnsent_keepsNotices (usedUp : Bool) (b : BeatRecord) (s : State) :
    KeepsNotices s (s.beatEndedUnsent usedUp b) := by
  unfold State.beatEndedUnsent
  split
  · exact beatLeft_keepsNotices s
  · exact (setSq_touches s _).keepsNotices (by decide)

theorem beatEnded_keepsNotices (how : AttemptEnd) (b : BeatRecord) (s : State) :
    KeepsNotices s (s.beatEnded how b) := by
  cases how with
  | sent unheard => exact beatLeft_keepsNotices s
  | lost => exact beatEndedUnsent_keepsNotices _ _ s
  | error => exact beatEndedUnsent_keepsNotices _ _ s

theorem attemptEnded_keepsNotices (how : AttemptEnd) (p : Place) (s : State) : KeepsNotices s (s.attemptEnded how p) := by
  unfold State.attemptEnded
  split
  · split
    · exact recordEnded_keepsNotices how _ s
    · exact .refl s
  · split
    · split
      · exact beatEnded_keepsNotices how _ s
      · exact .refl s
    · exact .refl s

theorem expireStale_keepsNotices (p : Place) (s : State) : KeepsNotices s (s.expireStale p) := by
  unfold State.expireStale
  split
  · exact leaveAll_keepsNotices _ _ s
  · split
    · split
      · exact .refl s
      · exact beatLeft_keepsNotices s
    · exact .refl s

theorem reexamineSq_keepsNotices (old : Micros) (change : Int) (s : State) :
    KeepsNotices s (s.reexamineSq old change) := by
  have left := fun which => leaveAll_keepsNotices which .stale s
  unfold State.reexamineSq
  dsimp only
  split
  · split
    · exact (left _).trans (beatLeft_keepsNotices _)
    · exact left _
  · exact left _

/-! ## Commands of the port (R70, R81, R101, R112, R156) -/

theorem recallShared_keepsNotices (a : RecallArgs) (s : State) : KeepsNotices s (s.recallShared a).1 := by
  unfold State.recallShared
  split
  · exact .refl s
  · split
    · exact .refl s
    · unfold State.takeRecall
      dsimp only
      split
      · exact .refl s
      · exact ((leaveAll_keepsNotices _ _ s).trans ((holdBehind_touches _ _).keepsNotices (by decide))).trans
          (createRecord_keepsNotices _ _ _ _ _)

theorem postLocal_keepsNotices (a : CueArgs) (s : State) : KeepsNotices s (s.postLocal a).1 := by
  unfold State.postLocal
  split
  · exact .refl s
  · split
    · exact .refl s
    · exact (meetWord_keepsNotices s).trans (decideLocal_keepsNotices _ _)

theorem recallLocal_keepsNotices (a : RecallArgs) (s : State) : KeepsNotices s (s.recallLocal a).1 := by
  unfold State.recallLocal
  split
  · exact .refl s
  · split
    · exact .refl s
    · exact recallEntries_keepsNotices _ s

theorem withdraw_keepsNotices (tag : Tag) (s : State) : KeepsNotices s (s.withdraw tag).1 := by
  unfold State.withdraw
  split
  · exact .refl s
  · split
    · exact leave_keepsNotices _ _ _ _ s
    · exact leave_keepsNotices _ _ _ _ s
    · exact updateRecord_keepsNotices _ s

/-- The notices that wait and the lost count, where none has been lost. -/
theorem noticesOk_of_none_lost {s : State} (most : s.lpu.notices.length ≤ 32) (none : s.lpu.lost = 0) : s.NoticesOk :=
  ⟨most, by omega, by omega⟩

/-- LOST takes the place of the notice that READ_NOTICE has removed, and leaves none lost (R156). -/
theorem reportLost_noticesOk {s : State} (room : s.lpu.notices.length ≤ 31) : s.reportLost.NoticesOk := by
  unfold State.reportLost
  split
  · rename_i none
    exact noticesOk_of_none_lost (by omega) none
  · have counted : (s.setLpu { s.lpu with lost := 0 }).settlePosts.NoticesOk :=
      noticesOk_of_none_lost (room.trans (by decide)) rfl
    exact ((post_keepsNotices (.lost s.lpu.lost) _).trans ((settlePosts_touches _).keepsNotices (by decide))) counted

theorem takeNotice_keepsNotices (s : State) : KeepsNotices s s.takeNotice.1 := by
  intro ok
  unfold State.takeNotice
  split
  · exact ok
  · rename_i oldest rest waiting
    have most := ok.1
    rw [waiting, List.length_cons] at most
    exact reportLost_noticesOk (s := s.setLpu _) (Nat.le_of_succ_le_succ most)

/-- RESTART empties the queue and posts RESTARTED (R147). -/
theorem restart_noticesOk (s : State) : s.restart.NoticesOk := by
  have emptied : s.restartBlocks.NoticesOk := noticesOk_of_none_lost (Nat.zero_le _) rfl
  exact ((post_keepsNotices .restarted _).trans ((settlePosts_touches _).keepsNotices (by decide))) emptied

/-! ## Agreement (R47 to R49, R54 to R56, R64) -/

theorem setAgu_keepsNotices (a : AguState) (s : State) : KeepsNotices s (s.setAgu a) :=
  (setAgu_touches s a).keepsNotices (by decide)

theorem setPeer_keepsNotices (i : Fin 32) (p : Option Peer) (s : State) : KeepsNotices s (s.setPeer i p) :=
  setAgu_keepsNotices _ s

theorem createPeer_keepsNotices (i : Fin 32) (id : StationId) (s : State) : KeepsNotices s (s.createPeer i id) :=
  (setPeer_keepsNotices i _ s).trans (post_keepsNotices _ _)

theorem heardFull_keepsNotices (id : StationId) (s : State) : KeepsNotices s (s.heardFull id) := by
  unfold State.heardFull
  split
  · exact (post_keepsNotices _ s).trans (createPeer_keepsNotices _ _ _)
  · split
    · exact .refl s
    · exact (post_keepsNotices _ s).trans (setAgu_keepsNotices _ _)

theorem heard_keepsNotices (id : StationId) (s : State) : KeepsNotices s (s.heard id) := by
  unfold State.heard
  split
  · split
    · exact (setPeer_keepsNotices _ _ s).trans (postIf_keepsNotices _ _ _)
    · exact .refl s
  · split
    · exact createPeer_keepsNotices _ _ s
    · exact heardFull_keepsNotices id s

theorem agePeers_keepsNotices (s : State) : KeepsNotices s s.agePeers := by
  refine KeepsNotices.foldl (fun u i => ?_) _ _
  have told : ∀ p c b, KeepsNotices u ((u.setPeer i p).postIf c b) := fun _ _ _ =>
    (setPeer_keepsNotices _ _ u).trans (postIf_keepsNotices _ _ _)
  unfold State.agePeer
  split
  · exact .refl u
  · dsimp only
    split
    · exact ((told _ _ _).trans (setPeer_keepsNotices _ _ _)).trans (post_keepsNotices _ _)
    · exact told _ _ _

/-- A step of bus time posts through its three owners, in whatever order they take its word (R39). -/
theorem stepTime_keepsNotices (amount : Int) (s : State) : KeepsNotices s (s.stepTime amount) := by
  by_cases still : amount = 0
  · rw [State.stepTime, if_pos still]
    exact .refl s
  · have told : KeepsNotices s (s.stepTold amount) := id
    rw [stepTime_eq still]
    obtain kept | ⟨u, early, late⟩ := reexamine_around_csu (R := KeepsNotices) .refl .trans
      (Config.reexamineOrder s.draws) s.micros (microsChange s.btu.time amount) (s.stepTold amount)
      (reexamineSq_keepsNotices _ _) (fun u => recoverBy_keepsNotices _ u)
    · exact told.trans kept
    · exact ((told.trans early).trans (takeWord_keepsNotices u)).trans late

theorem correct_keepsNotices (began : SyncState) (correction : Int) (s : State) :
    KeepsNotices s (s.correct began correction) := by
  unfold State.correct
  split
  · exact (stepTime_keepsNotices correction s).trans (setBtu_keepsNotices _ _)
  · exact (setBtu_keepsNotices _ s).trans (setAgu_keepsNotices _ _)

theorem tellClu_keepsNotices (sync : SyncState) (s : State) : KeepsNotices s (s.tellClu sync) :=
  (tellClu_touches sync s).keepsNotices (by decide)

theorem updateSync_keepsNotices (began : SyncState) (fresh : Nat) (correction : Int) (s : State) :
    KeepsNotices s (s.updateSync began fresh correction) := by
  unfold State.updateSync
  dsimp only
  split
  · exact setAgu_keepsNotices _ s
  · exact ((setAgu_keepsNotices _ s).trans (post_keepsNotices _ _)).trans (tellClu_keepsNotices _ _)

theorem setIku_keepsNotices (b : IkuState) (s : State) : KeepsNotices s (s.setIku b) :=
  (setIku_touches s b).keepsNotices (by decide)

theorem roundAt_keepsNotices (boundary : Micros) (s : State) : KeepsNotices s (s.roundAt boundary) := by
  have corrected : ∀ fresh began correction, KeepsNotices s
      ((s.agePeers.setAgu { s.agePeers.agu with fresh := fresh }).correct began correction) := fun _ _ _ =>
    (agePeers_keepsNotices s).trans ((setAgu_keepsNotices _ _).trans (correct_keepsNotices _ _ _))
  have built : ∀ change fresh (u : State), KeepsNotices u ((u.setAgu u.agu.cleared).buildBeat boundary change fresh) :=
    fun _ _ u => (setAgu_keepsNotices _ u).trans ((buildBeat_touches _ _ _ _).keepsNotices (by decide))
  unfold State.roundAt
  dsimp only
  exact ((corrected _ _ _).trans (updateSync_keepsNotices _ _ _ _)).trans
    ((built _ _ _).trans ((setAgu_keepsNotices _ _).trans (setIku_keepsNotices _ _)))

theorem syncRound_keepsNotices (s : State) : KeepsNotices s s.syncRound := by
  unfold State.syncRound
  split
  · exact roundAt_keepsNotices _ s
  · exact .refl s

theorem endWindow_keepsNotices (s : State) : KeepsNotices s s.endWindow := by
  have acquired : KeepsNotices s s.acquire :=
    (stepTime_keepsNotices _ s).trans ((setAgu_keepsNotices _ _).trans
      ((tellClu_keepsNotices _ _).trans (setIku_keepsNotices _ _)))
  exact acquired.trans (((setStc_touches _ _).keepsNotices (by decide)).trans (post_keepsNotices _ _))

/-! ## Frames and edges (R87 to R95, R133 to R139) -/

theorem react_keepsNotices (m : SeenMark) (s : State) : KeepsNotices s (s.react m) := by
  refine KeepsNotices.foldl (fun u r => ?_) _ _
  unfold State.tryReaction
  split
  · exact arrive_keepsNotices _ u
  · exact .refl u

theorem takeEdge_keepsNotices (input : Fin 4) (edge : Edge) (s : State) : KeepsNotices s (s.takeEdge input edge) := by
  have reacted : ∀ c x d b m,
      KeepsNotices s ((((s.edgeSeen.2.spend c (.spacingEnd input)).setMarkInput input x).postIf d b).react m) :=
    fun _ _ _ _ _ => ((((edgeSeen_touches s).keepsNotices (by decide)).trans
      ((spend_touches _ _ _).keepsNotices (by decide))).trans
      ((setMarkInput_touches _ _ _).keepsNotices (by decide))).trans
      ((postIf_keepsNotices _ _ _).trans (react_keepsNotices _ _))
  unfold State.takeEdge State.takeSeenEdge
  dsimp only
  split
  · exact (reacted _ _ _ _ _).trans (announce_keepsNotices _ _)
  · exact reacted _ _ _ _ _

theorem malformed_keepsNotices (id : StationId) (s : State) : KeepsNotices s (s.malformed id) :=
  (setIku_keepsNotices _ s).trans (postIf_keepsNotices _ _ _)

theorem takeCue_keepsNotices (origin : StationId) (c : CueContent) (s : State) :
    KeepsNotices s (s.takeCue origin c) := by
  unfold State.takeCue
  split
  · exact arrive_keepsNotices _ s
  · exact setIku_keepsNotices _ s

theorem dispatch_keepsNotices (a : Accepted) (content : Content) (s : State) :
    KeepsNotices s (s.dispatch a content) := by
  unfold State.dispatch
  split
  · split
    · exact .refl s
    · split
      · exact (beatSample_touches _ _ _ _ _ _ s).keepsNotices (by decide)
      · exact .refl s
  · exact recallEntries_keepsNotices _ s
  · split
    · exact .refl s
    · exact react_keepsNotices _ s
  · exact takeCue_keepsNotices _ _ s

theorem intake_keepsNotices (a : Accepted) (s : State) : KeepsNotices s (s.intake a) := by
  have clashed : KeepsNotices s (if s.isClash a then s.idClash else s) := by
    split
    · exact idClash_keepsNotices s
    · exact .refl s
  have heard : ∀ u : State, KeepsNotices u (if u.isHeard a then u.heard a.frame.station else u) := fun u => by
    split
    · exact heard_keepsNotices _ u
    · exact .refl u
  have gated : ∀ u : State, KeepsNotices u (u.gate a) := fun u =>
    gate_keeps (P := KeepsNotices u) (fun _ => malformed_keepsNotices _ u)
      (fun content _ _ => dispatch_keepsNotices a content u) (.refl u)
  exact (clashed.trans (heard _)).trans (gated _)

/-! ## The station bus (R3 to R15, R73) -/

theorem setLiu_keepsNotices (l : LiuBlock) (s : State) : KeepsNotices s (s.setLiu l) :=
  (setLiu_touches s l).keepsNotices (by decide)

theorem endAttempt_keepsNotices (how : AttemptEnd) (s : State) : KeepsNotices s (s.endAttempt how) := by
  unfold State.endAttempt
  split
  · exact (attemptEnded_keepsNotices how _ s).trans (setLiu_keepsNotices _ _)
  · exact .refl s

theorem frameError_keepsNotices (role : Role) (bits : List Bool) (s : State) :
    KeepsNotices s (s.frameError role bits) := by
  have reported : KeepsNotices s ((s.reportError role bits).endAttempt .error).dropCapture :=
    ((reportError_keepsNotices role bits s).trans (endAttempt_keepsNotices .error _)).trans (setBtu_keepsNotices _ _)
  unfold State.frameError
  split
  · exact (setBtu_keepsNotices _ s).trans (setLiu_keepsNotices _ _)
  · cases role with
    | sender => exact reported.trans ((setLiu_keepsNotices _ _).trans (setLiu_keepsNotices _ _))
    | receiver => exact reported.trans (setLiu_keepsNotices _ _)

theorem sof_keepsNotices (sampledDominant drove : Bool) (s : State) :
    KeepsNotices s ((s.hardSync.sofBit sampledDominant).sampleSof sampledDominant drove) := by
  have bit : KeepsNotices s (s.hardSync.sofBit sampledDominant) := by
    unfold State.sofBit
    split
    · exact sampled_keepsNotices _ s.hardSync
    · exact setLiu_keepsNotices _ s
  have captured := fun u : State => setBtu_keepsNotices { u.btu with capture := some ⟨u.btu.time, true⟩ } u
  unfold State.sampleSof
  split
  · exact bit.trans ((captured _).trans (setLiu_keepsNotices _ _))
  · exact bit.trans (frameError_keepsNotices _ _ _)
  · exact bit.trans ((captured _).trans ((endAttempt_keepsNotices .lost _).trans (setLiu_keepsNotices _ _)))
  · exact bit

theorem offer_keepsNotices (s : State) : KeepsNotices s s.offer := by
  unfold State.offer
  dsimp only
  split
  · exact (removeStale_keepsNotices s).trans ((takeOffer_touches _ _).keepsNotices (by decide))
  · exact removeStale_keepsNotices s

theorem endDrain_keepsNotices (s : State) : KeepsNotices s s.endDrain := id

theorem afterAcceptance_keepsNotices (s : State) : KeepsNotices s s.afterAcceptance :=
  (setBtu_keepsNotices _ s).trans (setLiu_keepsNotices _ _)

theorem acceptSending_keepsNotices (ack : Bool) (s : State) : KeepsNotices s (s.acceptSending ack) := by
  unfold State.acceptSending
  split
  · exact endDrain_keepsNotices s
  · split
    · exact .refl s
    · split
      · exact ((reportAcceptance_keepsNotices s).trans (endAttempt_keepsNotices _ _)).trans
          ((setLiu_keepsNotices _ _).trans ((afterAcceptance_keepsNotices _).trans (intake_keepsNotices _ _)))
      · exact .refl s

theorem acceptReceived_keepsNotices (f : Frame) (ack : Bool) (s : State) :
    KeepsNotices s (s.acceptReceived f ack) :=
  ((sampled_keepsNotices _ s).trans (reportAcceptance_keepsNotices _)).trans
    ((afterAcceptance_keepsNotices _).trans (intake_keepsNotices _ _))

/-! ## Every step -/

theorem expire_noticesOk {s : State} {stored : State → Option Micros} {event : State → State}
    (owner : ∀ u : State, KeepsNotices u (event u)) (ok : s.NoticesOk) : (s.expire stored event).NoticesOk :=
  expire_keeps (P := State.NoticesOk) (takeWord_keepsNotices s) (fun t u => runTo_keepsNotices t u)
    (fun _ u _ _ => owner u) ok

theorem unlessSpent_noticesOk {s : State} {c : Instr} {event : State → State} (owner : KeepsNotices s (event s))
    (ok : s.NoticesOk) : (s.unlessSpent c event).NoticesOk :=
  unlessSpent_keeps (P := State.NoticesOk) (takeWord_keepsNotices s) (fun _ _ ok => ok) owner ok

/-- The port latches its replies beside the notice queue, and its transaction moves beside it. -/
theorem takeCommand_noticesOk {s : State} {handle : State → State × Reply} (owner : KeepsNotices s (handle s).1)
    (ok : s.NoticesOk) : (s.takeCommand handle).NoticesOk := by
  unfold State.takeCommand
  split
  · exact owner ok
  · exact owner ok
  · exact ok
  · exact ok

/-- A command of the port whose owner leaves the notice queue. -/
theorem takeCommand_noticesOk_of_touches {bs : List Part} {s : State} {handle : State → State × Reply}
    (frame : Touches bs s (handle s).1) (ok : s.NoticesOk) (apart : .notices ∉ bs := by decide) :
    (s.takeCommand handle).NoticesOk :=
  takeCommand_noticesOk (frame.keepsNotices apart) ok

theorem exec_noticesOk (c : Instr) {s t : State} (ok : s.NoticesOk) (ran : exec c s = .next t) : t.NoticesOk := by
  cases c with
  | setStation a =>
    exact next_keeps ran (takeCommand_noticesOk_of_touches (configure_touches fun _ => setStc_touches s _) ok)
  | setLine a =>
    exact next_keeps ran (takeCommand_noticesOk_of_touches (configure_touches fun _ => setClu_touches s _) ok)
  | setInput a =>
    exact next_keeps ran (takeCommand_noticesOk_of_touches (configure_touches fun _ => setMarkInput_touches _ _ s) ok)
  | setSubscription a =>
    exact next_keeps ran (takeCommand_noticesOk_of_touches (configure_touches fun _ => setIku_touches s _) ok)
  | setReaction a =>
    exact next_keeps ran (takeCommand_noticesOk_of_touches (configure_touches fun _ => setMku_touches s _) ok)
  | join => exact next_keeps ran (takeCommand_noticesOk_of_touches (join_touches s) ok)
  | restart => exact next_keeps ran (takeCommand_noticesOk (fun _ => restart_noticesOk s) ok)
  | postCueShared a => exact next_keeps ran (takeCommand_noticesOk_of_touches (postShared_touches a s) ok)
  | postCueLocal a => exact next_keeps ran (takeCommand_noticesOk (postLocal_keepsNotices a s) ok)
  | postRecallShared a => exact next_keeps ran (takeCommand_noticesOk (recallShared_keepsNotices a s) ok)
  | postRecallLocal a => exact next_keeps ran (takeCommand_noticesOk (recallLocal_keepsNotices a s) ok)
  | withdraw tag => exact next_keeps ran (takeCommand_noticesOk (withdraw_keepsNotices tag s) ok)
  | readNotice => exact next_keeps ran (takeCommand_noticesOk (takeNotice_keepsNotices s) ok)
  | readStatus | readTime | readPeer | readEntry | readRecord => exact next_keeps ran (takeCommand_noticesOk (.refl s) ok)
  | badCommand code =>
    refine next_keeps ran ?_
    split
    · exact ok
    · exact takeCommand_noticesOk (.refl s) ok
  | transactionTruncated =>
    refine next_keeps ran ?_
    split
    · exact ok
    · exact (selRises_touches s).keepsNotices (by decide) ok
  | transactionBegin =>
    refine next_keeps ran ?_
    split <;> exact ok
  | transactionEnd => exact next_keeps ran ((selRises_touches s).keepsNotices (by decide) ok)
  | pinReset => exact next_keeps ran (noticesOk_of_none_lost (Nat.zero_le _) rfl)
  | markEdge input edge =>
    refine next_keeps ran ?_
    split
    · exact takeEdge_keepsNotices input edge s ok
    · exact ok
  | sof sampledDominant drove =>
    refine next_keeps ran ?_
    split
    · exact sof_keepsNotices sampledDominant drove s ok
    · exact ok
  | offer =>
    refine next_keeps ran ?_
    split
    · exact offer_keepsNotices s ok
    · exact ok
  | lostArbitration =>
    refine next_keeps ran ?_
    split
    · split
      · exact endDrain_keepsNotices s ok
      · exact ((endAttempt_keepsNotices .lost s).trans (setLiu_keepsNotices _ _)) ok
    · exact ok
  | errorDetected kind sampled =>
    refine next_keeps ran ?_
    split
    · exact ((reportError_keepsNotices .receiver sampled s).trans (setLiu_keepsNotices _ _)) ok
    · split
      · exact frameError_keepsNotices _ sampled s ok
      · exact ok
  | acceptance f ack =>
    refine next_keeps ran ?_
    split
    · exact acceptSending_keepsNotices ack s ok
    · exact acceptReceived_keepsNotices f ack s ok
    · exact ok
  | stuckLineError sampled =>
    refine next_keeps ran ?_
    split
    · split
      · exact ok
      · exact reportError_keepsNotices _ sampled s ok
    · exact ok
  | errorDelimiterEnd sampled =>
    refine next_keeps ran ?_
    split
    · split
      · exact endDrain_keepsNotices s ok
      · exact ((setLiu_keepsNotices _ s).trans (sampled_keepsNotices sampled _)) ok
    · exact ok
  | interframeSpaceEnd =>
    refine next_keeps ran ?_
    split
    · exact ((setLiu_keepsNotices _ s).trans (sampled_keepsNotices _ s.enterIdle)) ok
    · exact ok
  | errorFlagEnd | integrationComplete | holdOffEnd | drainEnd =>
    refine next_keeps ran ?_
    split <;> exact ok
  | idleSpan =>
    refine next_keeps ran ?_
    split
    · exact ok
    · exact countSpan_keepsNotices s ok
  | recoveryTimeExpiry => exact next_keeps ran (expire_noticesOk (recoverBy_keepsNotices true) ok)
  | syncRound => exact next_keeps ran (expire_noticesOk syncRound_keepsNotices ok)
  | listenWindowEnd => exact next_keeps ran (expire_noticesOk endWindow_keepsNotices ok)
  | scheduleExpiry => exact next_keeps ran (expire_noticesOk expireFirst_keepsNotices ok)
  | staleTimeExpiry p => exact next_keeps ran (expire_noticesOk (expireStale_keepsNotices p) ok)
  | pulseEnd line =>
    exact next_keeps ran (unlessSpent_noticesOk
      (expire_noticesOk fun u => (endPulse_touches line u).keepsNotices (by decide)) ok)
  | spacingEnd input =>
    exact next_keeps ran (unlessSpent_noticesOk
      (expire_noticesOk fun u => (setMarkInput_touches _ _ u).keepsNotices (by decide)) ok)

/-- Settles O55: what every command and every event of an empty queue keeps, a step keeps. -/
theorem stepKeepsNoticeQueue : Obligations.StepKeepsNoticeQueue := fun _ _ =>
  step_keeps (P := State.NoticesOk) (fun c _ _ => exec_noticesOk c) (fun _ _ => id) (fun _ => id)
    takeWord_keepsNotices settleSpans_keepsNotices (passCycles_keepsNotices 1)

end Sys2Proof.Machine
end

section
/-! SUPPORT. The transactions of the local port (O4, O5): where a SEL-low period begins and ends, what SDO shifts out, and the commands that are ignored or rejected. -/

namespace Sys2Proof.Machine

/-! ## SEL falls and rises (R149, R150) -/

theorem selRises_of_taken {s : State} (taken : s.lpu.transaction = .replying ∨ s.lpu.transaction = .ignoring) :
    s.selRises = s.setTransaction .idle := by
  unfold State.selRises
  obtain replying | ignoring := taken
  · rw [replying]
  · rw [ignoring]

theorem selRises_of_receiving {s : State} (receiving : s.lpu.transaction = .receiving) :
    s.selRises = s.setLpu { s.lpu with transaction := .idle, truncated := true } := by
  rw [State.selRises, receiving]

theorem selRises_of_idle {s : State} (idle : s.lpu.transaction = .idle) : s.selRises = s := by
  rw [State.selRises, idle]

/-- SEL rises from low: a truncated transaction ends as one whose command was taken does, but for the flag. -/
theorem exec_truncated_of_low {s : State} (low : s.lpu.transaction ≠ .idle) :
    exec .transactionTruncated s = .next s.selRises :=
  congrArg Host.Outcome.next (if_neg low)

/-- From SEL high the row stands for a whole truncated transaction (assumption 11). -/
theorem exec_truncated_of_high {s : State} (high : s.lpu.transaction = .idle) :
    exec .transactionTruncated s = .next (s.setLpu { s.lpu with transaction := .idle, truncated := true }) := by
  refine congrArg Host.Outcome.next ((if_pos high).trans ?_)
  rw [← high]

/-! ## SDO (R149) -/

/-- Bit i of a byte as SDO shifts it out, counted from the most significant. -/
theorem getMsbD_byte (b : Byte) {i : Nat} (inside : i < 8) :
    b.getMsbD i = decide (b.toNat / 2 ^ (7 - i) % 2 = 1) := by
  rw [BitVec.getMsbD, decide_eq_true inside, Bool.true_and, BitVec.getLsbD, Nat.testBit_eq_decide_div_mod_eq]

theorem sdoByte_replying {s : State} (n : Nat) (replying : s.lpu.transaction = .replying) :
    s.sdoByte n = some (s.lpu.reply[n]?.getD 0) := by
  rw [State.sdoByte, replying, List.getD_eq_getElem?_getD]

theorem sdoShiftsReply : Claims.SdoShiftsReply := by
  refine ⟨fun n s => ⟨fun idle => ?_, fun zero => ?_, fun replying => ⟨fun b held => ?_, fun behind => ?_⟩⟩,
    fun n i s inside => ?_⟩
  · rw [State.sdoByte, idle]
  · unfold State.sdoByte
    obtain receiving | ignoring := zero
    · rw [receiving]
    · rw [ignoring]
  · rw [sdoByte_replying n replying, held, Option.getD_some]
  · rw [sdoByte_replying n replying, List.getElem?_eq_none behind, Option.getD_none]
  · have byte : (8 * n + i) / 8 = n := by omega
    have bit : (8 * n + i) % 8 = i := by omega
    rw [State.sdoBit, byte, bit]
    exact congrArg (fun f => (s.sdoByte n).map f) (funext fun b => getMsbD_byte b inside)

/-- Settles O4: a SEL-low period begins, ends or is truncated by what the port has taken in it. -/
theorem transactionsBeginAndEnd : Obligations.TransactionsBeginAndEnd := by
  refine ⟨fun s idle => congrArg Host.Outcome.next (if_pos idle), fun s low => congrArg Host.Outcome.next (if_neg low),
    fun s taken => ?_, fun s isOpen => ?_, fun s receiving => congrArg Host.Outcome.next (selRises_of_receiving receiving),
    fun s idle => congrArg Host.Outcome.next (selRises_of_idle idle), sdoShiftsReply⟩
  · have ended : exec .transactionEnd s = .next (s.setTransaction .idle) :=
      congrArg Host.Outcome.next (selRises_of_taken taken)
    have low : s.lpu.transaction ≠ .idle := fun idle => by simp [idle] at taken
    exact ⟨ended, (exec_truncated_of_low low).trans ended⟩
  · obtain high | receiving := isOpen
    · exact exec_truncated_of_high high
    · exact (exec_truncated_of_low (receiving ▸ nofun)).trans
        (congrArg Host.Outcome.next (selRises_of_receiving receiving))

/-! ## Commands that have no effect (R149, R151) -/

/-- Of the commands that bytes spell, each goes through the port, which has none left to take. -/
theorem commandAfterTakingIgnored : Claims.CommandAfterTakingIgnored := by
  intro c s spelled closed
  have ignored : ∀ handle, Host.Outcome.next (s.takeCommand handle) = (.next s : Host.Outcome State Fault Refusal) :=
    fun handle => congrArg Host.Outcome.next (takeCommand_closed closed)
  cases c with
  | setStation | setLine | setInput | setSubscription | setReaction | join | restart => exact ignored _
  | postCueShared | postCueLocal | postRecallShared | postRecallLocal | withdraw => exact ignored _
  | readNotice | readStatus | readTime | readPeer | readEntry | readRecord => exact ignored _
  | badCommand code =>
    change Host.Outcome.next (if assignedCodes.contains code then s else s.takeCommand _) = _
    split
    · rfl
    · exact ignored _
  | _ => cases spelled

theorem badCommandHasNoEffect : Claims.BadCommandHasNoEffect := by
  intro code s isOpen unassigned
  have other : assignedCodes.contains code ≠ true := mt List.contains_iff_mem.mp unassigned
  exact congrArg Host.Outcome.next
    ((if_neg other).trans (takeCommand_unchanged (reply := .only .badCommand) isOpen rfl))

/-- Settles O5: the port takes one command of a transaction, and the owner of an unassigned code only answers. -/
theorem portIgnoresAndRejects : Obligations.PortIgnoresAndRejects := ⟨commandAfterTakingIgnored, badCommandHasNoEffect⟩

end Sys2Proof.Machine
end

section
/-! SUPPORT. Notices at the port (O3, O20) and READ_STATUS (O21): where a notice joins the queue, the fields of its record, and the replies that READ_NOTICE and READ_STATUS latch. -/

namespace Sys2Proof.Machine

/-! ## The record of a notice (R158, R159) -/

theorem bytesBe_two (v : Nat) : bytesBe 2 v = [BitVec.ofNat 8 (v / 256), BitVec.ofNat 8 v] := by
  rw [bytesBe, bytesBe_one, pow_one]

theorem bytesBe_four (v : Nat) :
    bytesBe 4 v =
      [BitVec.ofNat 8 (v / 16777216), BitVec.ofNat 8 (v / 65536), BitVec.ofNat 8 (v / 256), BitVec.ofNat 8 v] := by
  rw [bytesBe, bytesBe, bytesBe_two]
  rfl

theorem scheduleNotice_field (kind : ScheduleNotice) :
    kind.code = match kind with
      | .fired => 1 | .firedLate => 2 | .missed => 3 | .suppressed => 4 | .overlap => 5 | .revised => 6
      | .evicted => 7 | .dropped => 8 | .outOfRange => 9 | .recalled => 10 := by
  cases kind <;> rfl

theorem completion_field (how : Completion) :
    how.code = match how with | .sent => 16 | .stale => 17 | .withdrawn => 18 | .failed => 19 := by
  cases how <;> rfl

theorem edge_field (edge : Edge) :
    BitVec.ofNat 8 (edgeCode edge) = match edge with | .rising => 0 | .falling => 1 := by
  cases edge <;> rfl

theorem syncState_field (sync : SyncState) :
    BitVec.ofNat 8 sync.code =
      match sync with | .nosync => 0 | .alone => 1 | .seeking => 2 | .locked => 3 | .adrift => 4 := by
  cases sync <;> rfl

theorem faultState_field (state : FaultState) :
    BitVec.ofNat 8 state.code = match state with | .active => 0 | .guarded => 1 | .silenced => 2 | .barred => 3 := by
  cases state <;> rfl

/-- The fields of a notice, filled with zeros to seven bytes. -/
theorem noticeFields_eq (body : NoticeBody) :
    (body.bytes.1, padded 7 body.bytes.2) = Claims.noticeFields body := by
  cases body with
  | schedule kind key line skipped =>
    rw [NoticeBody.bytes, bytesBe_two, bytesBe_two, scheduleNotice_field, target_field]
    rfl
  | sendQueue how tag unheard late =>
    rw [NoticeBody.bytes, completion_field]
    rfl
  | mark kind input edge sequence =>
    cases kind with
    | captured | markLost =>
      rw [NoticeBody.bytes, edge_field]
      rfl
  | syncState old new =>
    rw [NoticeBody.bytes, syncState_field, syncState_field]
    rfl
  | faultState old new =>
    rw [NoticeBody.bytes, faultState_field, faultState_field]
    rfl
  | peerState peer change => cases change <;> rfl
  | peer kind peer => cases kind <;> rfl
  | joined sync =>
    rw [NoticeBody.bytes, syncState_field]
    rfl
  | restarted => rfl
  | lost count => rfl

theorem notice_record (n : Notice) :
    n.bytes = (Claims.noticeFields n.body).1
      :: [BitVec.ofNat 8 (n.posted.toNat / 16777216), BitVec.ofNat 8 (n.posted.toNat / 65536),
        BitVec.ofNat 8 (n.posted.toNat / 256), BitVec.ofNat 8 n.posted.toNat]
      ++ (Claims.noticeFields n.body).2 := by
  rw [Notice.bytes, bytesBe_four, ← noticeFields_eq]
  rfl

/-! ## The place of a notice (R155) -/

theorem poster_eq (body : NoticeBody) : Claims.poster body = body.poster := by
  cases body with
  | peer kind peer => cases kind <;> rfl
  | _ => rfl

/-- The free places are among the notices of this cycle, and a block one of whose notices was lost in it has none but the back. -/
theorem freePlaces_bounds (p : Poster) (s : State) :
    s.freePlaces p ≤ s.posted.recent ∧ (p ∈ s.posted.shut → s.freePlaces p = 0) := by
  unfold State.freePlaces
  split
  · exact ⟨Nat.zero_le _, fun _ => rfl⟩
  · rename_i unshut
    refine ⟨?_, fun shut => absurd (List.contains_iff_mem.mpr shut) unshut⟩
    exact (List.takeWhile_prefix _).length_le.trans (List.length_take_le _ _)

/-- Of 33 notices the last is lost, and what its block posts next in this cycle comes behind it. -/
theorem joinQueue_loses {s : State} {place : Nat} {body : NoticeBody} {last : Notice}
    (full : 32 ≤ s.lpu.notices.length)
    (lost : (insertBehind place { posted := s.micros, body := body } s.lpu.notices).getLast? = some last) :
    s.joinQueue place body =
      (s.setLpu
          { s.lpu with
            notices := (insertBehind place { posted := s.micros, body := body } s.lpu.notices).dropLast
            lost := min 255 (s.lpu.lost + 1) }).setPosted
        { s.posted with shut := last.body.poster :: s.posted.shut } := by
  rw [State.joinQueue, if_neg (Nat.not_lt.mpr full), lost]
  rfl

theorem postJoinsQueue : Claims.PostJoinsQueue := by
  intro body s n
  rw [poster_eq]
  obtain ⟨place, free, drawn, posted⟩ := post_cases body s
  obtain ⟨within, others⟩ := freePlaces_spec _ s free
  obtain ⟨recent, shut⟩ := freePlaces_bounds body.poster s
  refine ⟨s.lpu.notices.take (s.lpu.notices.length - place), s.lpu.notices.drop (s.lpu.notices.length - place), drawn,
    (List.take_append_drop _ _).symm, fun x m => poster_eq x.body ▸ others x m, ?_, fun isShut => ?_,
    fun room => ?_, fun last full lost => ?_⟩
  · rw [List.length_drop]
    omega
  · have back : place = 0 := Nat.le_zero.mp (shut isShut ▸ free)
    rw [back, Nat.sub_zero, List.drop_length]
  · exact posted.trans (if_pos room)
  · rw [poster_eq]
    exact posted.trans (joinQueue_loses (s := s.setPosted _) full lost)

theorem noteAsserted_iff (s : State) : s.noteAsserted = true ↔ s.lpu.notices ≠ [] := by
  simp [State.noteAsserted]

/-- Settles O3: the record of a notice, its place in the queue, and NOTE. -/
theorem noticePosted : Obligations.NoticePosted := ⟨notice_record, postJoinsQueue, noteAsserted_iff⟩

/-! ## READ_NOTICE (R156) -/

/-- With none lost READ_NOTICE leaves the notices behind the oldest. -/
theorem takeNotice_of_none_lost {n : Notice} {rest : List Notice} {s : State} (waiting : s.lpu.notices = n :: rest)
    (none : s.lpu.lost = 0) :
    s.takeNotice = (s.setLpu { s.lpu with notices := rest }, { status := .ok, body := n.bytes }) := by
  rw [State.takeNotice, waiting]
  dsimp only
  rw [State.reportLost, if_pos (by exact none)]

/-- LOST joins the back of the queue that the oldest notice has left. -/
theorem takeNotice_of_lost {n : Notice} {rest : List Notice} {s : State} (waiting : s.lpu.notices = n :: rest)
    (some : 0 < s.lpu.lost) (room : rest.length < 32) :
    s.takeNotice =
      ((s.setLpu
          { s.lpu with notices := rest ++ [{ posted := s.micros, body := .lost s.lpu.lost }], lost := 0 }).setPosted
        { s.posted with recent := 0, shut := [] }, { status := .ok, body := n.bytes }) := by
  rw [State.takeNotice, waiting]
  dsimp only
  rw [State.reportLost, if_neg (by exact some.ne'), post_of_first _ rfl, State.joinQueue, if_pos (by exact room),
    insertBehind_zero]
  rfl

/-- Settles O20: the oldest notice is the reply, and LOST stands behind those that still wait. -/
theorem readNoticeTakesOldest : Obligations.ReadNoticeTakesOldest := by
  refine ⟨fun s isOpen empty => ?_, fun n rest s isOpen ok waiting => ⟨fun none => ?_, fun some => ?_⟩⟩
  · have answer : s.takeNotice = (s, .only .empty) := by rw [State.takeNotice, empty]
    exact congrArg Host.Outcome.next (takeCommand_unchanged isOpen answer)
  · have taken := takeNotice_of_none_lost waiting none
    refine congrArg Host.Outcome.next ((takeCommand_of_touches isOpen (takeNotice_touches s) (by decide)).trans ?_)
    rw [taken]
    rfl
  · have room : rest.length < 32 := by
      have most := ok.1
      rw [waiting, List.length_cons] at most
      omega
    have taken := takeNotice_of_lost waiting some room
    refine congrArg Host.Outcome.next ((takeCommand_of_touches isOpen (takeNotice_touches s) (by decide)).trans ?_)
    rw [taken]
    rfl

/-! ## READ_STATUS (R154, R159) -/

theorem stationState_field (station : StationState) :
    station.code = match station with | .offline => 0 | .listening => 1 | .joined => 2 := by
  cases station <;> rfl

/-- The first byte shows the station's life and its fault state. -/
theorem status_field (s : State) :
    s.stc.station.code + flagAt 2 s.stc.draining + s.fcu.state.code * 16 =
      (match s.stc.station with | .offline => 0 | .listening => 1 | .joined => 2)
        + (if s.stc.draining then 4 else 0)
        + 16 * (match s.fcu.state with | .active => 0 | .guarded => 1 | .silenced => 2 | .barred => 3) := by
  have fault : s.fcu.state.code =
      match s.fcu.state with | .active => 0 | .guarded => 1 | .silenced => 2 | .barred => 3 := by
    cases s.fcu.state <;> rfl
  rw [stationState_field, fault, Nat.mul_comm _ 16]
  rfl

/-- Settles O21: the reply's fields, one by one. -/
theorem readStatusShowsOwnersValues : Obligations.ReadStatusShowsOwnersValues := by
  intro s isOpen
  refine congrArg Host.Outcome.next ((takeCommand_unchanged isOpen rfl).trans ?_)
  dsimp only
  rw [State.statusBody, status_field, shownSync_bytes, bytesBe_two, bytesBe_two]
  simp only [bytesBe_one]
  rfl

end Sys2Proof.Machine
end

section
/-! SUPPORT. The bytes of a transaction (O49): the flags bytes and the tag byte are read back, and with them the arguments of every command. -/

namespace Sys2Proof.Machine

/-! ## Bytes of flags, and tags (R159) -/

theorem lineFlags_fields : ∀ lowTrue guarded safe : Bool,
    let flags : Byte := BitVec.ofNat 8 (flagAt 0 lowTrue + flagAt 1 guarded + flagAt 2 safe)
    flags.getLsbD 0 = lowTrue ∧ flags.getLsbD 1 = guarded ∧ flags.getLsbD 2 = safe := by decide

theorem inputFlags_fields : ∀ (select : BitVec 2) (announce notify : Bool),
    let flags : Byte := BitVec.ofNat 8 (select.toNat + flagAt 2 announce + flagAt 3 notify)
    BitVec.ofNat 2 flags.toNat = select ∧ flags.getLsbD 2 = announce ∧ flags.getLsbD 3 = notify := by decide

theorem entryFlags_fields : ∀ enabled notify : Bool,
    let flags : Byte := BitVec.ofNat 8 (flagAt 0 enabled + flagAt 1 notify)
    flags.getLsbD 0 = enabled ∧ flags.getLsbD 1 = notify := by decide

theorem reactionFlags_fields : ∀ (enabled notify : Bool) (edge : BitVec 2),
    let flags : Byte := BitVec.ofNat 8 (flagAt 0 enabled + flagAt 1 notify + edge.toNat * 4)
    flags.getLsbD 0 = enabled ∧ flags.getLsbD 1 = notify ∧ BitVec.ofNat 2 (flags.toNat / 4) = edge := by decide

theorem cueFlags_fields : ∀ (shared lead notify rpt : Bool) (action : BitVec 3),
    let flags : Byte :=
      BitVec.ofNat 8 (flagAt 0 shared + flagAt 1 lead + flagAt 2 notify + flagAt 3 rpt + action.toNat * 16)
    flags.getLsbD 0 = shared ∧ flags.getLsbD 1 = lead ∧ flags.getLsbD 2 = notify ∧ flags.getLsbD 3 = rpt
      ∧ BitVec.ofNat 3 (flags.toNat / 16) = action := by decide

theorem tagOfByte_tagByte (t : Tag) : tagOfByte (tagByte t) = t := by
  obtain ⟨slot, generation⟩ := t
  have few := slot.isLt
  have counted := generation.isLt
  have value : (tagByte ⟨slot, generation⟩).toNat = slot.val * 16 + generation.toNat := by
    rw [tagByte, BitVec.toNat_ofNat]
    exact Nat.mod_eq_of_lt (by omega)
  have high : (slot.val * 16 + generation.toNat) / 16 = slot.val := by omega
  have low : BitVec.ofNat 4 (slot.val * 16 + generation.toNat) = generation :=
    BitVec.eq_of_toNat_eq (by rw [BitVec.toNat_ofNat]; omega)
  simp only [tagOfByte, value, high, low]

/-! ## Arguments read back (R159) -/

theorem wordOfBytes_two (v : BitVec 16) : wordOfBytes 16 (bytesBe 2 v.toNat) = v := wordOfBytes_word rfl v

theorem station_readBack (a : StationArgs) :
    decodeStation ([a.id, a.bitRate, a.samplePoint, a.jump] ++ bytesBe 2 a.beatMs.toNat ++ bytesBe 2 a.threshold.toNat
      ++ [a.lockBound, a.quorum] ++ bytesBe 2 a.lateWindow.toNat ++ bytesBe 2 a.sendMargin.toNat
      ++ bytesBe 2 a.urgencyStep.toNat ++ bytesBe 2 a.markMs.toNat) = some (.setStation a) := by
  change some (Instr.setStation
    { a with
      beatMs := wordOfBytes 16 (bytesBe 2 a.beatMs.toNat), threshold := wordOfBytes 16 (bytesBe 2 a.threshold.toNat)
      lateWindow := wordOfBytes 16 (bytesBe 2 a.lateWindow.toNat)
      sendMargin := wordOfBytes 16 (bytesBe 2 a.sendMargin.toNat)
      urgencyStep := wordOfBytes 16 (bytesBe 2 a.urgencyStep.toNat)
      markMs := wordOfBytes 16 (bytesBe 2 a.markMs.toNat) }) = _
  simp only [wordOfBytes_two]

theorem line_readBack (a : LineArgs) :
    decodeLine [a.line, BitVec.ofNat 8 (flagAt 0 a.lowTrue + flagAt 1 a.guarded + flagAt 2 a.safe)] =
      some (.setLine a) := by
  obtain ⟨lowTrue, guarded, safe⟩ := lineFlags_fields a.lowTrue a.guarded a.safe
  rw [decodeLine, lowTrue, guarded, safe]

theorem input_readBack (a : InputArgs) :
    decodeInput ([a.input, BitVec.ofNat 8 (a.select.toNat + flagAt 2 a.announce + flagAt 3 a.notify)]
      ++ bytesBe 2 a.spacing.toNat) = some (.setInput a) := by
  obtain ⟨select, announce, notify⟩ := inputFlags_fields a.select a.announce a.notify
  let flags : Byte := BitVec.ofNat 8 (a.select.toNat + flagAt 2 a.announce + flagAt 3 a.notify)
  change some (Instr.setInput
    { input := a.input, select := BitVec.ofNat 2 flags.toNat, announce := flags.getLsbD 2, notify := flags.getLsbD 3
      spacing := wordOfBytes 16 (bytesBe 2 a.spacing.toNat) }) = _
  rw [select, announce, notify, wordOfBytes_two]

theorem subscription_readBack (a : SubscriptionArgs) :
    decodeSubscription ([a.entry, BitVec.ofNat 8 (flagAt 0 a.enabled + flagAt 1 a.notify), a.target]
      ++ bytesBe 2 a.code.toNat ++ bytesBe 2 a.mask.toNat) = some (.setSubscription a) := by
  obtain ⟨enabled, notify⟩ := entryFlags_fields a.enabled a.notify
  let flags : Byte := BitVec.ofNat 8 (flagAt 0 a.enabled + flagAt 1 a.notify)
  change some (Instr.setSubscription
    { a with
      enabled := flags.getLsbD 0, notify := flags.getLsbD 1
      code := wordOfBytes 16 (bytesBe 2 a.code.toNat), mask := wordOfBytes 16 (bytesBe 2 a.mask.toNat) }) = _
  rw [enabled, notify, wordOfBytes_two, wordOfBytes_two]

theorem reaction_readBack (a : ReactionArgs) :
    decodeReaction ([a.entry, BitVec.ofNat 8 (flagAt 0 a.enabled + flagAt 1 a.notify + a.edge.toNat * 4), a.source,
      a.input] ++ bytesBe 3 a.offset.toNat ++ [a.action, a.target] ++ bytesBe 2 a.width.toNat) =
      some (.setReaction a) := by
  obtain ⟨enabled, notify, edge⟩ := reactionFlags_fields a.enabled a.notify a.edge
  have offset : wordOfBytes 24 (bytesBe 3 a.offset.toNat) = a.offset := wordOfBytes_word rfl _
  let flags : Byte := BitVec.ofNat 8 (flagAt 0 a.enabled + flagAt 1 a.notify + a.edge.toNat * 4)
  change some (Instr.setReaction
    { a with
      enabled := flags.getLsbD 0, notify := flags.getLsbD 1, edge := BitVec.ofNat 2 (flags.toNat / 4)
      offset := wordOfBytes 24 (bytesBe 3 a.offset.toNat), width := wordOfBytes 16 (bytesBe 2 a.width.toNat) }) = _
  rw [enabled, notify, edge, offset, wordOfBytes_two]

/-- POST_CUE's arguments as read from a flags byte and the bytes of the other fields (R159). -/
def cueArgsRead (flags : Byte) (a : CueArgs) : CueArgs :=
  { lead := flags.getLsbD 1, notify := flags.getLsbD 2, repeatPresent := flags.getLsbD 3
    action := BitVec.ofNat 3 (flags.toNat / 16)
    cue := wordOfBytes 16 (bytesBe 2 a.cue.toNat), topic := wordOfBytes 16 (bytesBe 2 a.topic.toNat)
    due := wordOfBytes 32 (bytesBe 4 a.due.toNat), width := wordOfBytes 16 (bytesBe 2 a.width.toNat)
    period := wordOfBytes 24 (bytesBe 3 a.period.toNat), count := a.count }

theorem cueArgsRead_cueFlags (shared : Bool) (a : CueArgs) : cueArgsRead (cueFlags shared a) a = a := by
  obtain ⟨-, lead, notify, rpt, action⟩ := cueFlags_fields shared a.lead a.notify a.repeatPresent a.action
  have due : wordOfBytes 32 (bytesBe 4 a.due.toNat) = a.due := wordOfBytes_word rfl _
  have period : wordOfBytes 24 (bytesBe 3 a.period.toNat) = a.period := wordOfBytes_word rfl _
  rw [cueArgsRead, cueFlags, lead, notify, rpt, action, wordOfBytes_two, wordOfBytes_two, due, wordOfBytes_two, period]

theorem postCue_readBack (shared : Bool) (a : CueArgs) :
    decodePostCue (cueFlags shared a :: (bytesBe 2 a.cue.toNat ++ bytesBe 2 a.topic.toNat ++ bytesBe 4 a.due.toNat
      ++ bytesBe 2 a.width.toNat ++ bytesBe 3 a.period.toNat ++ [a.count])) =
      some (if shared then .postCueShared a else .postCueLocal a) := by
  have scope : (cueFlags shared a).getLsbD 0 = shared :=
    (cueFlags_fields shared a.lead a.notify a.repeatPresent a.action).1
  change some (if (cueFlags shared a).getLsbD 0 then Instr.postCueShared (cueArgsRead (cueFlags shared a) a)
    else .postCueLocal (cueArgsRead (cueFlags shared a) a)) = _
  rw [scope, cueArgsRead_cueFlags]

/-- Bit 1 of the flags says how a recall names its cues (R153). -/
theorem decodePostRecall_byKey {flags : Byte} (form : flags.getLsbD 1 = false) (a b c d : Byte) :
    decodePostRecall [flags, a, b, c, d] =
      some (if flags.getLsbD 0 then .postRecallShared (.byKey a (wordOfBytes 16 [b, c]))
        else .postRecallLocal (.byKey a (wordOfBytes 16 [b, c]))) := by
  rw [decodePostRecall, form]
  rfl

theorem decodePostRecall_byTopic {flags : Byte} (form : flags.getLsbD 1 = true) (a b c d : Byte) :
    decodePostRecall [flags, a, b, c, d] =
      some (if flags.getLsbD 0 then .postRecallShared (.byTopic (wordOfBytes 16 [a, b]) (wordOfBytes 16 [c, d]))
        else .postRecallLocal (.byTopic (wordOfBytes 16 [a, b]) (wordOfBytes 16 [c, d]))) := by
  rw [decodePostRecall, form]
  rfl

theorem recallByKey_readBack (shared : Bool) (origin : Byte) (cue : BitVec 16) :
    decodePostRecall ([BitVec.ofNat 8 (flagAt 0 shared), origin] ++ bytesBe 2 cue.toNat ++ [0]) =
      some (if shared then .postRecallShared (.byKey origin cue) else .postRecallLocal (.byKey origin cue)) := by
  obtain ⟨scope, form⟩ := entryFlags_fields shared false
  have number := wordOfBytes_two cue
  rw [bytesBe_two] at number ⊢
  refine (decodePostRecall_byKey form _ _ _ _).trans ?_
  rw [scope, number]

theorem recallByTopic_readBack (shared : Bool) (code mask : Topic) :
    decodePostRecall ([BitVec.ofNat 8 (flagAt 0 shared + flagAt 1 true)] ++ bytesBe 2 code.toNat ++ bytesBe 2 mask.toNat) =
      some (if shared then .postRecallShared (.byTopic code mask) else .postRecallLocal (.byTopic code mask)) := by
  obtain ⟨scope, form⟩ := entryFlags_fields shared true
  have topic := wordOfBytes_two code
  have bits := wordOfBytes_two mask
  rw [bytesBe_two] at topic bits
  rw [bytesBe_two, bytesBe_two]
  refine (decodePostRecall_byTopic form _ _ _ _).trans ?_
  rw [scope, topic, bits]

/-! ## Every command (R149, R159) -/

/-- The bytes are the code of a command and as many argument bytes as it has, which are read as the command. -/
def Spells (bytes : List Byte) (c : Instr) : Prop :=
  ∃ code args, bytes = code :: args ∧ argumentCount code = some args.length ∧ decodeAssigned code args = some c

/-- The bytes behind the last argument are ignored (R149). -/
theorem decodeTransaction_of_spells {bytes : List Byte} {c : Instr} (spells : Spells bytes c) (extra : List Byte) :
    decodeTransaction (bytes ++ extra) = some c := by
  obtain ⟨code, args, rfl, count, read⟩ := spells
  have enough : ¬(args ++ extra).length < args.length := by simp
  rw [List.cons_append, decodeTransaction, count]
  dsimp only
  rw [if_neg enough, List.take_left, read]

theorem argumentCount_unassigned : ∀ code : Byte, assignedCodes.contains code = false → argumentCount code = none := by
  decide

theorem decodeTransaction_unassigned {code : Byte} (unassigned : assignedCodes.contains code = false) (extra : List Byte) :
    decodeTransaction ([code] ++ extra) = some (.badCommand code) := by
  rw [List.singleton_append, decodeTransaction, argumentCount_unassigned code unassigned]

theorem postRecall_spells (shared : Bool) (a : RecallArgs) :
    Spells (postRecallBytes shared a) (if shared then .postRecallShared a else .postRecallLocal a) := by
  cases a with
  | byKey origin cue => exact ⟨_, _, rfl, rfl, recallByKey_readBack shared origin cue⟩
  | byTopic code mask => exact ⟨_, _, rfl, rfl, recallByTopic_readBack shared code mask⟩

theorem postCue_spells (shared : Bool) (a : CueArgs) :
    Spells (postCueBytes shared a) (if shared then .postCueShared a else .postCueLocal a) :=
  ⟨_, _, rfl, rfl, postCue_readBack shared a⟩

/-- The bytes of a command spell it, but for a BAD_COMMAND, whose code has no arguments. -/
theorem spells_of_commandBytes {c : Instr} {bytes : List Byte} (assigned : ∀ code, c ≠ .badCommand code)
    (spelled : commandBytes c = some bytes) : Spells bytes c := by
  cases c with
  | setStation a => cases spelled; exact ⟨_, _, rfl, rfl, station_readBack a⟩
  | setLine a => cases spelled; exact ⟨_, _, rfl, rfl, line_readBack a⟩
  | setInput a => cases spelled; exact ⟨_, _, rfl, rfl, input_readBack a⟩
  | setSubscription a => cases spelled; exact ⟨_, _, rfl, rfl, subscription_readBack a⟩
  | setReaction a => cases spelled; exact ⟨_, _, rfl, rfl, reaction_readBack a⟩
  | postCueShared a => cases spelled; exact postCue_spells true a
  | postCueLocal a => cases spelled; exact postCue_spells false a
  | postRecallShared a => cases spelled; exact postRecall_spells true a
  | postRecallLocal a => cases spelled; exact postRecall_spells false a
  | withdraw tag => cases spelled; exact ⟨_, _, rfl, rfl, congrArg (some ∘ Instr.withdraw) (tagOfByte_tagByte tag)⟩
  | readRecord tag => cases spelled; exact ⟨_, _, rfl, rfl, congrArg (some ∘ Instr.readRecord) (tagOfByte_tagByte tag)⟩
  | join | restart | readNotice | readStatus | readTime | readPeer | readEntry =>
    cases spelled
    exact ⟨_, _, rfl, rfl, rfl⟩
  | badCommand code => exact absurd rfl (assigned code)
  | _ => cases spelled

/-- Settles O49: an assigned code and its arguments are read back, and an unassigned code is a BAD_COMMAND. -/
theorem transactionBytesDecode : Obligations.TransactionBytesDecode := by
  intro c bytes extra formed spelled
  by_cases bad : ∃ code, c = .badCommand code
  · obtain ⟨code, rfl⟩ := bad
    cases spelled
    exact decodeTransaction_unassigned ((Bool.not_eq_true' _).mp formed) extra
  · exact decodeTransaction_of_spells (spells_of_commandBytes (not_exists.mp bad) spelled) extra

end Sys2Proof.Machine
end

section
/-! SUPPORT. The queue (O1): a step on a queue that is not empty. Line events that cannot occur in the present LIU state (O37), by what rules each of them out. -/

namespace Sys2Proof.Machine

/-! ## The front of the queue -/

theorem step_of_front {c : Instr} {rest : List Instr} {s : State} (queue : s.pending = c :: rest) :
    step s = exec c (s.setPending rest) := by
  unfold step
  rw [queue]

/-- Settles O1: a step on a queue with a command in front is that command, taken from the queue. -/
theorem stepRunsFrontCommand : Obligations.StepRunsFrontCommand := fun _ _ _ => step_of_front

/-! ## Events of a frame, outside a frame (R2, R8, R10, R14) -/

theorem lostArbitration_elsewhere {s : State} (other : s.liu.state ≠ .sending) : exec .lostArbitration s = .next s :=
  congrArg Host.Outcome.next (if_neg other)

theorem acceptance_elsewhere (f : Frame) (ack : Bool) {s : State} (sends : s.liu.state ≠ .sending)
    (receives : s.liu.state ≠ .receiving) : exec (.acceptance f ack) s = .next s := by
  change Host.Outcome.next _ = _
  split
  · exact absurd ‹_› sends
  · exact absurd ‹_› receives
  · rfl

/-- No frame is on the line for an LIU that is STOPPED or INTEGRATING, so it finds no error in one (R2, R10). -/
theorem errorRole_off_line (kind : ErrorKind) {s : State} (off : s.liu.state = .stopped ∨ s.liu.state = .integrating) :
    s.errorRole kind = none := by
  refine Option.eq_none_iff_forall_ne_some.mpr fun role found => ?_
  obtain ⟨state, -⟩ | ⟨state, -⟩ | ⟨state, -⟩ := errorRole_cases found <;> simp [state] at off

theorem errorDetected_off_line (kind : ErrorKind) (sampled : List Bool) {s : State}
    (off : s.liu.state = .stopped ∨ s.liu.state = .integrating) : exec (.errorDetected kind sampled) s = .next s := by
  have spaces : ¬(s.liu.state = .spacing ∧ kind = .form) := fun spacing => by simp [spacing.1] at off
  change Host.Outcome.next _ = _
  rw [if_neg spaces, errorRole_off_line kind off]

/-! ## Events of a flag and its delimiter, elsewhere (R13) -/

theorem errorFlagEnd_elsewhere {s : State} (other : ∀ dominant role, s.liu.state ≠ .flagging dominant role) :
    exec .errorFlagEnd s = .next s := by
  change Host.Outcome.next _ = _
  split
  · exact absurd ‹_› (other _ _)
  · rfl

theorem errorDelimiterEnd_elsewhere (sampled : List Bool) {s : State} (other : ∀ role, s.liu.state ≠ .delimiting role) :
    exec (.errorDelimiterEnd sampled) s = .next s := by
  change Host.Outcome.next _ = _
  split
  · exact absurd ‹_› (other _)
  · rfl

theorem stuckLineError_elsewhere (sampled : List Bool) {s : State} (other : ∀ role, s.liu.state ≠ .delimiting role) :
    exec (.stuckLineError sampled) s = .next s := by
  change Host.Outcome.next _ = _
  split
  · exact absurd ‹_› (other _)
  · rfl

/-! ## Events of the line between frames, elsewhere (R2, R15, R19, R24, R73) -/

theorem interframeSpaceEnd_elsewhere {s : State} (other : s.liu.state ≠ .spacing) :
    exec .interframeSpaceEnd s = .next s :=
  congrArg Host.Outcome.next (if_neg other)

theorem integrationComplete_elsewhere {s : State} (other : s.liu.state ≠ .integrating) :
    exec .integrationComplete s = .next s :=
  congrArg Host.Outcome.next (if_neg other)

theorem drainEnd_of_not_draining {s : State} (free : s.stc.draining = false) : exec .drainEnd s = .next s :=
  congrArg Host.Outcome.next (if_neg (ne_true_of_eq_false free))

theorem holdOffEnd_elsewhere {s : State} (other : s.liu.state ≠ .idle) : exec .holdOffEnd s = .next s :=
  congrArg Host.Outcome.next (if_neg other)

/-- Settles O37: each line event finds its LIU state, or the drain, missing; an offer outside IDLE has no moment. -/
theorem lineEventsElsewhereChangeNothing : Obligations.LineEventsElsewhereChangeNothing :=
  ⟨fun _ => lostArbitration_elsewhere,
    fun f ack _ => acceptance_elsewhere f ack,
    fun _ => interframeSpaceEnd_elsewhere,
    fun _ => integrationComplete_elsewhere,
    fun _ => drainEnd_of_not_draining,
    fun kind sampled _ => errorDetected_off_line kind sampled,
    fun sampled _ other => ⟨errorDelimiterEnd_elsewhere sampled other, stuckLineError_elsewhere sampled other⟩,
    fun _ => errorFlagEnd_elsewhere,
    fun s other => ⟨noOffer s (.inl other), holdOffEnd_elsewhere other⟩⟩

end Sys2Proof.Machine
end
